-- ==== Sys2Proof/Word.lean ====
section
/-! DEFINITION. The widths the manual fixes (spec/11_formats.md). -/

namespace Sys2Proof

/-- A byte of host memory or of a field frame. -/
abbrev Byte := BitVec 8

/-- A two-byte field: serials, links, counts of an order body. -/
abbrev Half := BitVec 16

/-- A register of the register window: 64 bits. -/
abbrev Word := BitVec 64

/-- A run-clock time, in milliseconds (R178). -/
abbrev Time := Nat

end Sys2Proof
end

