-- ==== Sys2Proof/Config.lean ====
section
/-! DEFINITION. The numbers fixed for the Selgarn 2680 (spec/00_scope.md, "Numbers") and the defaults of the charter's values.
The manual leaves no result undefined, so there is no free value here. -/

namespace Sys2Proof.Config

/-- R1: zones are nodes 0 to 127, sources are nodes 128 to 143. -/
def zoneMax : Nat := 128
def sourceMax : Nat := 16
def valveMax : Nat := 256
def stationMax : Nat := 128
def stationsPerLine : Nat := 32
def pointMax : Nat := 512
def incidentSlots : Nat := 64
def planSlots : Nat := 16
def outageSlots : Nat := 32
def callListMax : Nat := 8
def pointRefMax : Nat := 8
def planLinkMax : Nat := 4
def entryMax : Nat := 8
def stepMax : Nat := 4
def lentMax : Nat := 32
def folioMax : Nat := 4096
def trialMax : Nat := 4
def charterBytes : Nat := 1024
def folioBytes : Nat := 256
def headerBytes : Nat := 16
def bodyMax : Nat := 240
def recordsPerFolio : Nat := 15
def recordBytes : Nat := 16
/-- Content bytes of a continuation record (spec/11_formats.md). -/
def contentBytes : Nat := 14

def silentLimit : Nat := 3
def busyLimit : Nat := 6
def backoffCycles : Nat := 2
/-- R20: a SLOW station is polled when the poll-cycle count is a multiple of this. -/
def slowEvery : Nat := 8
/-- R49: the reply age limit of a station with no points, in seconds. -/
def replyAgeNoPoints : Nat := 3600
/-- R116, R124: percentage points. -/
def positionTolerance : Nat := 2
def positionMax : Nat := 100
def gridMax : Nat := 4095
def settlingCharacters : Nat := 20

def sweepIntervalDefault : Nat := 10
def flushIntervalDefault : Nat := 200
def windowDefault : Nat := 20
def gapDefault : Nat := 10
def listenTimeoutDefault : Nat := 60
def class1Default : Nat := 45
def class2Default : Nat := 120
def class3Default : Nat := 480
def correlationWindowDefault : Nat := 20
def correlationRadiusDefault : Nat := 1
def escalationDefault : Nat := 4

/-- R178: the run clock counts in 48 bits. -/
def runClockModulus : Nat := 2 ^ 48
def msPerDay : Nat := 86400000
/-- R178: 2000-01-01 to 2099-12-31 are 36525 days. -/
def timeOfDayModulus : Nat := 36525 * msPerDay

/-- Format of the 16-bit count and code values that stand for "none" or "absent". -/
def noneHalf : Nat := 65535
def noneByte : Nat := 255

end Sys2Proof.Config
end

