-- ==== Sys2Proof/Syntax.lean ====
section
/-! DEFINITION. The commands of spec/opcode_table.json, one constructor a row, with the operands the events carry.
Fields of an order's body are held at the widths of spec/11_formats.md, codes not yet read: the owner's rule checks them. -/

namespace Sys2Proof

/-- Four like things, one a line: strap levels, line controllers. -/
structure Quad (α : Type) where
  q0 : α
  q1 : α
  q2 : α
  q3 : α
deriving DecidableEq, Repr

/-- Bytes the host has stored in its own memory from an address on (log 2). -/
structure HostStore where
  addr : Nat
  bytes : List Byte
deriving DecidableEq, Repr

/-- What the host writes in the header of a folio it posts: notify flag, link, body length (08, before R154). -/
structure Post where
  notify : Bool
  link : Half
  bodyLen : Byte
deriving DecidableEq, Repr

/-- A record named by slot and serial in an order's body. -/
structure RefBody where
  slot : Byte
  serial : Half
deriving DecidableEq, Repr

/-- CALL body, 10 bytes. -/
structure CallBody where
  ref : BitVec 32
  zone : Byte
  kind : Byte
  gridX : Half
  gridY : Half
deriving DecidableEq, Repr

/-- INCIDENT-ACT body, 5 bytes. -/
structure ActBody where
  slot : Byte
  action : Byte
  serial : Half
  cls : Byte
deriving DecidableEq, Repr

/-- A step record of a PLAN entry: target, hold flag, dwell in seconds. -/
structure StepBody where
  target : Byte
  hold : Byte
  dwell : Half
deriving DecidableEq, Repr

/-- An entry record of a PLAN, 18 bytes: valve, step count, four step records. -/
structure EntryBody where
  valve : Byte
  stepCount : Byte
  steps : Quad StepBody
deriving DecidableEq, Repr

/-- PLAN body: a 6-byte head and one record for each entry. -/
structure PlanBody where
  slot : Byte
  flags : Byte
  serial : Half
  entryCount : Byte
  entries : List EntryBody
deriving DecidableEq, Repr

/-- PROCEED body, 4 bytes; position 255 stands for NONE. -/
structure ProceedBody where
  slot : Byte
  position : Byte
  serial : Half
deriving DecidableEq, Repr

/-- RELIGHT body, 4 bytes. -/
structure RelightBody where
  zone : Byte
  count : Half
deriving DecidableEq, Repr

/-- VALVE-NOTE body, 2 bytes. -/
structure NoteBody where
  valve : Byte
  position : Byte
deriving DecidableEq, Repr

/-- SOURCE body, 3 bytes. -/
structure SourceBody where
  source : Byte
  target : Byte
  flags : Byte
deriving DecidableEq, Repr

/-- LINE body, 6 bytes. -/
structure LineBody where
  line : Byte
  op : Byte
  speed : Byte
  window : Byte
  gap : Byte
  role : Byte
deriving DecidableEq, Repr

/-- LIMITS body, 16 bytes. -/
structure LimitsBody where
  point : Half
  ll : Half
  l : Half
  h : Half
  hh : Half
  deadband : Half
  confirm : Byte
  stale : Half
deriving DecidableEq, Repr

/-- QUERY body, 6 bytes. -/
structure QueryBody where
  kind : Byte
  portion : Byte
  ident : Half
  serial : Half
deriving DecidableEq, Repr

/-- CLOCK body, 10 bytes. -/
structure ClockBody where
  year : Half
  month : Byte
  day : Byte
  hour : Byte
  minute : Byte
  second : Byte
  ms : Half
deriving DecidableEq, Repr

/-- The events that return report folios (R171, R175). -/
inductive ReturnEvent where
  | reportWrite | flushExpiry | halt
deriving DecidableEq, Repr

/-- The exchange access on which a bus error is reported (R163, R175, R180; log 18). -/
inductive BusAccess where
  /-- a header read of a sweep, or any access that carries no event of its own -/
  | headerRead
  /-- the turn TAKEN of the folio the sweep takes -/
  | takenTurn
  /-- the answer, or the LENT turn, of the folio the sweep takes, its turn TAKEN having been written before it -/
  | folioAnswer
  /-- the answer of a trial's result -/
  | trialAnswer
  /-- a write of report records -/
  | reportWrite
  /-- a HALTED answer of a HALT, `done` of them having been written before it -/
  | haltAnswer (done : Nat)
  /-- a return of a report folio in the event named, `done` returns of that event having been made before it -/
  | folioReturn (event : ReturnEvent) (done : Nat)
  /-- a read of the charter, cold or warm -/
  | charterRead
  /-- a read of an image in a cold start: 1 zones, 2 sources, 3 valves, 4 stations, 5 points -/
  | imageRead (table : Fin 5)
deriving DecidableEq, Repr

/-- The commands of the table. Left out, the value of a MODE write is the code of the row's own command. -/
inductive Instr where
  | hardwareReset (straps : Quad Bool)
  | timeOfDayPowerOn
  | timeOfDayRollover
  | xbaseWrite (v : Word)
  | identWrite (v : Word)
  | runCold (v : Word := 1)
  | runWarm (v : Word := 2)
  | halt (v : Word := 3)
  | look (v : Word) (stores : List HostStore)
  | causeWrite (v : Word)
  | causeenWrite (v : Word)
  | startingEnd (stores : List HostStore)
  | warmStartEnd (stores : List HostStore)
  | haltingEnd
  | sweepTimerExpiry (stores : List HostStore)
  | sweepEnd (stores : List HostStore)
  | memoryFault (at_ : BusAccess) (stores : List HostStore)
  | call (p : Post) (b : CallBody)
  | attend (p : Post) (b : RefBody)
  | safe (p : Post) (b : RefBody)
  | close (p : Post) (b : RefBody)
  | reclass (p : Post) (b : RefBody) (cls : Byte)
  | ack (p : Post) (b : RefBody)
  | plan (p : Post) (b : PlanBody)
  | proceed (p : Post) (b : ProceedBody)
  | abandon (p : Post) (b : RefBody)
  | restore (p : Post) (b : RefBody)
  | relight (p : Post) (b : RelightBody)
  | valveNote (p : Post) (b : NoteBody)
  | source (p : Post) (b : SourceBody)
  | hold (p : Post) (line : Byte)
  | release (p : Post) (line : Byte)
  | configure (p : Post) (line speed window gap : Byte)
  | role (p : Post) (line role : Byte)
  | limits (p : Post) (b : LimitsBody)
  | lend (p : Post)
  | query (p : Post) (b : QueryBody)
  | clock (p : Post) (b : ClockBody)
  | gapExpiry (line : Fin 4)
  | idleWaitExpiry (line : Fin 4)
  | settlingExpiry (line : Fin 4)
  | replyFrame (line : Fin 4) (bytes : List Byte)
  | responseWindowExpiry (line : Fin 4)
  | listenFrame (line : Fin 4) (bytes : List Byte)
  | listenLost (station : Nat)
  | replyAgeExpiry (station : Nat)
  | staleExpiry (point : Nat)
  | travelLimitExpiry (valve : Nat)
  | dwellEnd (valve : Nat)
  | realSurveyStart
  | realSurveyCompletion
  | trialStart
  | trialCompletion (stores : List HostStore)
  | deadlineExpiry (slot : Nat)
  | reportWrite
  | flushTimerExpiry
  | pollSent (line : Fin 4)
  | replyFrameBegun (line : Fin 4)
  | warmCharterRead (stores : List HostStore)
  | folioTaken (stores : List HostStore)
deriving DecidableEq, Repr

end Sys2Proof
end

