-- ==== Sys2Proof/Decode.lean ====
section
/-! DEFINITION. The commands a word spells: the table gives no row any bits, so no word spells a command (log 20). -/

namespace Sys2Proof

def decodeTableWord (_nbits _w : Nat) : Option Instr := none

end Sys2Proof
end

