-- ==== Sys2Proof/Machine/State.lean ====
section
/-! DEFINITION. The state of the Selgarn 2680: plain data, every piece of state the spec gives the part, and State.reset (R177). -/

namespace Sys2Proof.Machine

/-- No event of the manual stops the part (an exchange fault or a start fault is a change of mode with a fault code, R163, R180),
so nothing raises a fault: the type has no constructor (log 22). Safe: there is nothing to raise. -/
inductive Fault
deriving DecidableEq, Repr

/-- Why a command has no meaning in the model. -/
inductive Refusal where
  /-- raised by an arm of exec whose command has no meaning yet (none has); safe: nothing is claimed of the command -/
  | notModelled (mnemonic : String)
deriving DecidableEq, Repr

/-! ## Codes -/

/-- R149, spec/10: the five run modes. -/
inductive Mode where
  | halted | starting | running | halting | detached
deriving DecidableEq, Repr

/-- The fault codes of MODE (spec/11). -/
inductive FaultCode where
  | none | badLink | cursorDisturbed | memory | signature | version | size | reference
deriving DecidableEq, Repr

/-- The tables a start fault names (spec/11, MODE bits 16 to 19). -/
inductive Table where
  | charter | zones | sources | valves | stations | points
deriving DecidableEq, Repr

/-- Slot states of the incident, plan and outage tables (R79, R107, R131). -/
inductive SlotState where
  | free | inUse | retiring
deriving DecidableEq, Repr

/-- R4. -/
inductive Tier where
  | low | medium | intermediate
deriving DecidableEq, Repr

/-- R5, R65. -/
inductive FedState where
  | fed | unfed
deriving DecidableEq, Repr

/-- R130. -/
inductive Supply where
  | supplied | unfed | repressurised | refedUncontrolled
deriving DecidableEq, Repr

/-- R52, R56. -/
inductive Band where
  | normal | low | lowlow | high | highhigh
deriving DecidableEq, Repr

/-- R52. -/
inductive Quality where
  | unknown | good | suspect | stale | lost
deriving DecidableEq, Repr

/-- R6. -/
inductive SourceState where
  | live | failed | out
deriving DecidableEq, Repr

/-- R7. -/
inductive ValveKind where
  | remote | manual
deriving DecidableEq, Repr

/-- R8: position states. -/
inductive PosState where
  | closed | opened | partOpen | moving | unknown
deriving DecidableEq, Repr

/-- R8. -/
inductive Motion where
  | still | opening | closing
deriving DecidableEq, Repr

/-- R8: the control selector at site. -/
inductive Selector where
  | atSite | remote
deriving DecidableEq, Repr

/-- R109: where a valve stands in its current step. -/
inductive StepState where
  | none | staged | sent | travelling | dwell
deriving DecidableEq, Repr

/-- R14. -/
inductive Passing where
  | passing | notPassing
deriving DecidableEq, Repr

/-- R42. -/
inductive StationKind where
  | pressure | valve | combined
deriving DecidableEq, Repr

/-- R42. -/
inductive PollClass where
  | fast | slow
deriving DecidableEq, Repr

/-- R42. -/
inductive Status where
  | unknown | online | backoff | lost | siteOut
deriving DecidableEq, Repr

/-- R17. -/
inductive Role where
  | master | listen
deriving DecidableEq, Repr

/-- The line states of spec/02. -/
inductive LineState where
  | idle | await | gap | holding | held | settling
deriving DecidableEq, Repr

/-- R18: the six rates. -/
inductive Speed where
  | b1200 | b2400 | b4800 | b9600 | b19200 | b38400
deriving DecidableEq, Repr

/-- R80. -/
inductive IncidentKind where
  | escape | damage | pressureLow | pressureHigh | supplyLoss
deriving DecidableEq, Repr

/-- R80. -/
inductive IncidentState where
  | opened | attending | safe | closed
deriving DecidableEq, Repr

/-- R84. -/
inductive CallKind where
  | smellInside | smellOutside | audible | damage | noSupply | lowPressure
deriving DecidableEq, Repr

/-- The plan states of spec/06. -/
inductive PlanState where
  | checking | active | holding | blocked | abandoning | abandoned | complete
deriving DecidableEq, Repr

/-- R108. -/
inductive EntryState where
  | waiting | running | hold | blocked | done | cancelled
deriving DecidableEq, Repr

/-- R121. -/
inductive BlockReason where
  | atSite | stationLost | travelFault | stepRefused | unplannedMove | lineUnavailable
deriving DecidableEq, Repr

/-- R132. -/
inductive OutageCause where
  | planned | sourceLoss | unplanned
deriving DecidableEq, Repr

/-- R132. -/
inductive OutageState where
  | isolated | restoring | restored
deriving DecidableEq, Repr

/-! ## Records -/

/-- A record named by slot and serial. -/
structure Ref where
  slot : Nat
  serial : Half
deriving DecidableEq, Repr

/-- A slot of the incident, plan or outage table; the record is absent exactly while the slot is FREE. -/
structure Slot (α : Type) where
  state : SlotState
  serial : Half
  record : Option α
deriving DecidableEq, Repr

/-- R4, R5, R2 (valve list). -/
structure Zone where
  customers : Nat
  tier : Tier
  gridX : Nat
  gridY : Nat
  points : List Nat
  valves : List Nat
  fed : FedState
  supply : Supply
  outage : Option Ref
  summary : Option Band
deriving DecidableEq, Repr

/-- R6, R2 (valve list). `initial` is LIVE or OUT. -/
structure Source where
  point : Option Nat
  initial : SourceState
  valves : List Nat
  state : SourceState
deriving DecidableEq, Repr

/-- R109: the step next to be entered, or waiting at its hold. Entries and steps are counted from 0 (log 33); the dwell is in seconds. -/
structure Staged where
  entry : Nat
  step : Nat
  target : Nat
  dwell : Nat
  awaiting : Bool
deriving DecidableEq, Repr

/-- R109: the step entered into a command list and not yet arrived. -/
structure StepInFlight where
  entry : Nat
  step : Nat
  tag : Byte
  target : Nat
  accepted : Option Time
  unverified : Bool
deriving DecidableEq, Repr

/-- R7 (static), R8 (dynamic), R14 (passing state, the survey engine's), R109 (claim and step). -/
structure Valve where
  nodeA : Nat
  nodeB : Nat
  kind : ValveKind
  station : Option Nat
  travelLimit : Nat
  initialPosition : Option Nat
  position : Option Nat
  posState : PosState
  motion : Option Motion
  closedLimit : Option Bool
  openLimit : Option Bool
  selector : Option Selector
  movedUnplanned : Bool
  noted : Bool
  positionTime : Option Time
  passing : Passing
  claim : Option Ref
  staged : Option Staged
  inFlight : Option StepInFlight
  dwellEnd : Option Time
  stopPending : Bool
  settleNext : Bool
deriving DecidableEq, Repr

/-- R42; `lastHeard` is the line controller's last-heard time of the station (spec/02, "Line state"). -/
structure Station where
  line : Fin 4
  address : Byte
  kind : StationKind
  pollClass : PollClass
  points : List Nat
  valve : Option Nat
  status : Status
  silent : Nat
  busy : Nat
  backoff : Nat
  resume : Status
  lastReply : Option Time
  replyRef : Time
  lastHeard : Option Time
deriving DecidableEq, Repr

/-- R52: the settable fields; also what LIMITS carries (R58). -/
structure Settings where
  ll : Nat
  l : Nat
  h : Nat
  hh : Nat
  deadband : Nat
  confirm : Nat
  stale : Nat
deriving DecidableEq, Repr

/-- R52: a LOW or HIGH awaiting its confirm delay. -/
structure PendingBand where
  band : Band
  since : Time
deriving DecidableEq, Repr

/-- R52. -/
structure Point where
  station : Nat
  slot : Nat
  zone : Nat
  settings : Settings
  value : Option Nat
  quality : Quality
  band : Band
  pendingBand : Option PendingBand
  freshSince : Time
deriving DecidableEq, Repr

/-- A command listed on a line (spec/02, "The command list"). -/
inductive LineCommand where
  | step (tag : Byte) (target : Nat)
  | stop
deriving DecidableEq, Repr

/-- An entry of a command list. -/
structure Listed where
  station : Nat
  command : LineCommand
deriving DecidableEq, Repr

/-- R22: the four functions. -/
inductive PollFunction where
  | read | continue_ | step (tag : Byte) (target : Nat) | stop
deriving DecidableEq, Repr

/-- R22: the poll sent and not yet ended, with the frame it was sent as (R188). -/
structure LineExchange where
  station : Nat
  function : PollFunction
  frame : List Byte
deriving DecidableEq, Repr

/-- R18, R35: speed, response window in 10 ms units, gap in ms. -/
structure LineParams where
  speed : Speed
  window : Nat
  gap : Nat
deriving DecidableEq, Repr

/-- The line state table of spec/02, with the moments its timers are measured from (log 12). -/
structure Line where
  role : Role
  strapRole : Role
  state : LineState
  params : LineParams
  listenTimeout : Nat
  permit : Bool
  reconfigured : Bool
  orderHold : Bool
  pollCycle : Half
  roundRobin : Option Nat
  idleWait : Option Time
  tagCounter : Byte
  commands : List Listed
  continuation : Option Nat
  exchange : Option LineExchange
  windowSince : Option Time
  frameBegun : Bool
  since : Time
  readThisCycle : Bool
  pendingParams : Option LineParams
deriving DecidableEq, Repr

/-- R72: what a trial judges. -/
inductive Subject where
  | plan (ref : Ref)
  | source (id : Nat) (target : SourceState) (outageAccepted refeedAccepted : Bool) (folio : Option Nat)
deriving DecidableEq, Repr

/-- R65: the survey in flight, with the reached zones of the inputs read at its start (R66), one list per prefix for a trial. -/
inductive SurveyInFlight where
  | real (start : BitVec 32) (reached : List Nat)
  | trial (start : BitVec 32) (reached : List (List Nat))
deriving DecidableEq, Repr

/-- R71: a completion the outage unit could not yet apply. -/
structure HeldCompletion where
  start : BitVec 32
  reached : List Nat
deriving DecidableEq, Repr

/-- R65, R135: a valve in the change set with its noted claim. -/
structure ChangedValve where
  valve : Nat
  claim : Option Ref
deriving DecidableEq, Repr

/-- R65. -/
structure Survey where
  generation : BitVec 32
  pendingReal : Bool
  changeValves : List ChangedValve
  changeSources : List Nat
  queue : List Subject
  inFlight : Option SurveyInFlight
  held : Option HeldCompletion
deriving DecidableEq, Repr

/-- R108: a step of a plan; the dwell is in seconds. -/
structure PlanStep where
  target : Nat
  dwell : Nat
  hold : Bool
deriving DecidableEq, Repr

/-- R108: an entry; `current` counts steps from 0 (log 33). -/
structure PlanEntry where
  valve : Nat
  steps : List PlanStep
  state : EntryState
  current : Nat
deriving DecidableEq, Repr

/-- R121. -/
structure Block where
  reason : BlockReason
  valve : Nat
deriving DecidableEq, Repr

/-- R108; `running` counts entries from 0 (log 33). -/
structure Plan where
  incident : Ref
  outageAccepted : Bool
  refeedAccepted : Bool
  state : PlanState
  entries : List PlanEntry
  running : Option Nat
  block : Option Block
  expectedLosses : List Nat
  folio : Option Nat
  acceptedTime : Option Time
  endedTime : Option Time
deriving DecidableEq, Repr

/-- R80: an entry of an incident's call list. -/
structure CallEntry where
  ref : BitVec 32
  kind : CallKind
  gridX : Nat
  gridY : Nat
  time : Time
deriving DecidableEq, Repr

/-- R80; the serial is the slot's. -/
structure Incident where
  kind : IncidentKind
  cls : Nat
  zone : Nat
  anchorX : Nat
  anchorY : Nat
  opened : Time
  lastCall : Option Time
  deadline : Time
  state : IncidentState
  overdue : Bool
  missed : Bool
  late : Bool
  escalated : Bool
  calls : List CallEntry
  further : Nat
  points : List Nat
  plans : List Ref
  reservations : Nat
  outage : Option Ref
  armed : Bool
deriving DecidableEq, Repr

/-- R81: deadlines and window in minutes. -/
structure IncidentParams where
  class1 : Nat
  class2 : Nat
  class3 : Nat
  window : Nat
  radius : Nat
  escalation : Nat
deriving DecidableEq, Repr

/-- R132: a held zone. -/
structure HeldZone where
  zone : Nat
  customers : Nat
  relit : Nat
deriving DecidableEq, Repr

/-- R132; the serial is the slot's. -/
structure Outage where
  sequence : BitVec 32
  cause : OutageCause
  incident : Option Ref
  state : OutageState
  start : Time
  restored : Option Time
  held : List HeldZone
  customersOff : Nat
deriving DecidableEq, Repr

/-! ## Reports -/

/-- R166: a reported record, as a mark names it. -/
inductive RecordName where
  | zone (n : Nat) | source (n : Nat) | valve (n : Nat) | station (n : Nat) | point (n : Nat) | line (l : Fin 4)
  | incident (slot : Nat) | plan (slot : Nat) | outage (slot : Nat)
deriving DecidableEq, Repr

/-- R167. -/
inductive MarkKind where
  | urgent | ordinary
deriving DecidableEq, Repr

/-- R166: the two mark lists. -/
structure Marks where
  urgent : List RecordName
  ordinary : List RecordName
deriving DecidableEq, Repr

/-- A byte the part writes, or one it leaves as it stands (an unread field, spec/11). -/
abbrev OutByte := Option Byte

/-- R166: an entry of the folio contents. -/
structure ContentsEntry where
  record : RecordName
  list : MarkKind
  closing : Bool
deriving DecidableEq, Repr

/-- R166, R170, R187: a report that runs on beyond the folio being filled; `rest` holds the content records still to write. -/
structure ReportInProgress where
  record : RecordName
  list : MarkKind
  closing : Bool
  serial : Half
  time : Time
  rest : List (List OutByte)
  part : Nat
  parts : Nat
deriving DecidableEq, Repr

/-- R166: a RETIRING slot and the folio that holds its closing report. -/
structure Retiring where
  record : RecordName
  folio : Nat
deriving DecidableEq, Repr

/-- R166, without the mark lists; `drained` is R175's word to the HALTING operation. -/
structure ReportUnit where
  filling : Option Nat
  count : Nat
  contents : List ContentsEntry
  flush : Option Time
  urgentOwed : Bool
  inProgress : Option ReportInProgress
  retiring : List Retiring
  flushInterval : Nat
  drained : Bool
deriving DecidableEq, Repr

/-! ## The exchange unit -/

/-- R155, R159: the order the cursor is stalled on. -/
inductive Stalled where
  | plan (folio : Nat)
  | source (folio id : Nat) (target : SourceState) (outageAccepted refeedAccepted : Bool)
deriving DecidableEq, Repr

/-- R157: which header a running sweep reads next. -/
inductive SweepPhase where
  /-- step 1: the chain start folio -/
  | atStart
  /-- step 4: the folio the cursor folio links to -/
  | atLink (folio : Nat)
  /-- step 3 found the link NONE: the sweep is to end -/
  | ending
deriving DecidableEq, Repr

/-- R179, R183: which STARTING operation runs. -/
inductive StartOp where
  /-- a cold start, reading and checking -/
  | cold
  /-- a warm start reading its charter; a failure returns to `mode` and puts cursor and base back (R183, log 16) -/
  | warmReading (mode : Mode) (cursor : Option Nat) (base : Nat)
  /-- a warm start waiting for the lines it holds, with the mode it came from -/
  | warmWaiting (mode : Mode)
deriving DecidableEq, Repr

/-- R149, R153, R155, R156, R160. -/
structure Exchange where
  xbase : Word
  cause : Word
  causeen : Word
  faultCode : FaultCode
  faultTable : Table
  faultEntry : Nat
  base : Nat
  folioCount : Nat
  chainStart : Nat
  sweepInterval : Nat
  cursor : Option Nat
  stall : Option Stalled
  sweep : Option SweepPhase
  sweepOwed : Bool
  sweepTimer : Option Time
  lent : List Nat
  reachable : Bool
  startOp : Option StartOp
deriving DecidableEq, Repr

/-! ## The whole -/

/-- The network and every block that keeps records of it, with the run mode and the run clock all of them read, and the mark lists they
fill. The exchange unit's registers and host memory stand outside it: no block reaches them but through answers and reports. -/
structure Net where
  mode : Mode
  now : Time
  valid : Bool
  zones : List Zone
  sources : List Source
  valves : List Valve
  stations : List Station
  points : List Point
  lines : Quad Line
  survey : Survey
  plans : List (Slot Plan)
  incidents : List (Slot Incident)
  params : IncidentParams
  outages : List (Slot Outage)
  outageSeq : BitVec 32
  marks : Marks
deriving DecidableEq, Repr

/-- Host memory: (address, byte) pairs in canonical form (Memory.wf); an unlisted address reads as 0 (log 1). -/
abbrev Memory := List Host.Cell

/-- The part, the host memory it reaches, and the queue of commands waiting. -/
structure State where
  pending : List Instr
  mem : Memory
  exch : Exchange
  report : ReportUnit
  tod : Nat
  timeUnset : Bool
  net : Net
deriving DecidableEq, Repr

/-! ## Reset values -/

/-- R17: a high strap gives MASTER. -/
def roleOfStrap (high : Bool) : Role := if high then .master else .listen

/-- R17: a line after hardware reset. -/
def Line.atReset (strapHigh : Bool) : Line where
  role := roleOfStrap strapHigh
  strapRole := roleOfStrap strapHigh
  state := .held
  params := { speed := .b9600, window := Config.windowDefault, gap := Config.gapDefault }
  listenTimeout := Config.listenTimeoutDefault
  permit := false
  reconfigured := false
  orderHold := false
  pollCycle := 0
  roundRobin := none
  idleWait := none
  tagCounter := 0
  commands := []
  continuation := none
  exchange := none
  windowSince := none
  frameBegun := false
  since := 0
  readThisCycle := false
  pendingParams := none

/-- R65: the survey engine after hardware reset and at the start of a cold start. -/
def Survey.atReset : Survey where
  generation := 0
  pendingReal := false
  changeValves := []
  changeSources := []
  queue := []
  inFlight := none
  held := none

/-- R81's defaults: DESIGN CHOICE as reset value (log 21). -/
def IncidentParams.defaults : IncidentParams where
  class1 := Config.class1Default
  class2 := Config.class2Default
  class3 := Config.class3Default
  window := Config.correlationWindowDefault
  radius := Config.correlationRadiusDefault
  escalation := Config.escalationDefault

/-- R166. -/
def ReportUnit.atReset : ReportUnit where
  filling := none
  count := 0
  contents := []
  flush := none
  urgentOwed := false
  inProgress := none
  retiring := []
  flushInterval := Config.flushIntervalDefault
  drained := false

/-- R177, with R149, R155, R160; what the spec leaves open is in log 21. -/
def Exchange.atReset : Exchange where
  xbase := 0
  cause := 0
  causeen := 0
  faultCode := .none
  faultTable := .charter
  faultEntry := 0
  base := 0
  folioCount := 0
  chainStart := 0
  sweepInterval := Config.sweepIntervalDefault
  cursor := none
  stall := none
  sweep := none
  sweepOwed := false
  sweepTimer := none
  lent := []
  reachable := false
  startOp := none

/-- R3, R177: tables INVALID, no record, no slot. -/
def Net.atReset (straps : Quad Bool) : Net where
  mode := .halted
  now := 0
  valid := false
  zones := []
  sources := []
  valves := []
  stations := []
  points := []
  lines := ⟨Line.atReset straps.q0, Line.atReset straps.q1, Line.atReset straps.q2, Line.atReset straps.q3⟩
  survey := Survey.atReset
  plans := []
  incidents := []
  params := IncidentParams.defaults
  outages := []
  outageSeq := 0
  marks := ⟨[], []⟩

/-- The part right after its first hardware reset (R177, R178), all straps high (log 6). -/
def State.reset : State where
  pending := []
  mem := []
  exch := Exchange.atReset
  report := ReportUnit.atReset
  tod := 0
  timeUnset := true
  net := Net.atReset ⟨true, true, true, true⟩

end Sys2Proof.Machine
end

