-- ==== Sys2Proof/Machine/Ops.lean ====
section
/-! DEFINITION. Named operations over memory, tables, slots, mark lists and lines that every block uses. -/

namespace Sys2Proof

/-- The item of line `l`. -/
def Quad.get {α : Type} (q : Quad α) (l : Fin 4) : α :=
  match l with
  | 0 => q.q0
  | 1 => q.q1
  | 2 => q.q2
  | 3 => q.q3

/-- The four items with that of line `l` replaced. -/
def Quad.set {α : Type} (q : Quad α) (l : Fin 4) (x : α) : Quad α :=
  match l with
  | 0 => { q with q0 := x }
  | 1 => { q with q1 := x }
  | 2 => { q with q2 := x }
  | 3 => { q with q3 := x }

def Quad.map {α β : Type} (f : α → β) (q : Quad α) : Quad β := ⟨f q.q0, f q.q1, f q.q2, f q.q3⟩

def Quad.toList {α : Type} (q : Quad α) : List α := [q.q0, q.q1, q.q2, q.q3]

/-- The four lines in order. -/
def allLines : List (Fin 4) := [0, 1, 2, 3]

/-! ## Byte order -/

/-- `w` little-endian bytes of `n` (host memory and registers, spec/11). -/
def leBytes : Nat → Nat → List Byte
  | 0, _ => []
  | w + 1, n => BitVec.ofNat 8 n :: leBytes w (n / 256)

/-- The number little-endian bytes give. -/
def leNat : List Byte → Nat
  | [] => 0
  | b :: bs => b.toNat + 256 * leNat bs

/-- Two big-endian bytes (field lines, spec/11). -/
def beHalf (h l : Byte) : Nat := 256 * h.toNat + l.toNat

namespace Machine

/-! ## Host memory -/

/-- The byte at an address; an unlisted one reads as 0 (log 1). -/
def Memory.read (m : Memory) (a : Nat) : Byte :=
  match m with
  | [] => 0
  | (b, v) :: t => if a = b then v else Memory.read t a

/-- A non-zero byte put at its place in the rising order. -/
def Memory.insert (m : Memory) (a : Nat) (v : Byte) : Memory :=
  match m with
  | [] => [(a, v)]
  | (b, w) :: t =>
    if a = b then (a, v) :: t
    else if a < b then (a, v) :: (b, w) :: t
    else (b, w) :: Memory.insert t a v

/-- One byte written; 0 removes the entry, since an unlisted byte reads as 0. -/
def Memory.write (m : Memory) (a : Nat) (v : Byte) : Memory :=
  if v = 0 then m.filter (fun c => c.1 ≠ a) else Memory.insert m a v

/-- The canonical form: addresses strictly rising, no byte 0 listed. -/
def Memory.wf (m : Memory) : Bool :=
  match m with
  | [] => true
  | (_, v) :: [] => decide (v ≠ 0)
  | (a, v) :: (b, w) :: t => decide (v ≠ 0) && decide (a < b) && Memory.wf ((b, w) :: t)

/-- `n` bytes from an address on. -/
def Memory.bytes (m : Memory) (a : Nat) : Nat → List Byte
  | 0 => []
  | n + 1 => m.read a :: Memory.bytes m (a + 1) n

/-- Bytes written from an address on; `none` leaves a byte as it stands. -/
def Memory.writeOut (m : Memory) (a : Nat) : List OutByte → Memory
  | [] => m
  | none :: bs => Memory.writeOut m (a + 1) bs
  | some b :: bs => Memory.writeOut (m.write a b) (a + 1) bs

def Memory.writeBytes (m : Memory) (a : Nat) : List Byte → Memory
  | [] => m
  | b :: bs => Memory.writeBytes (m.write a b) (a + 1) bs

/-- The host's stores since the part last read host memory (log 2). -/
def Memory.store (m : Memory) (stores : List HostStore) : Memory :=
  stores.foldl (fun m st => m.writeBytes st.addr st.bytes) m

def State.store (stores : List HostStore) (s : State) : State := { s with mem := s.mem.store stores }

/-- A little-endian number of `w` bytes in host memory. -/
def Memory.number (m : Memory) (a w : Nat) : Nat := leNat (m.bytes a w)

/-! ## Naming by slot and serial -/

/-- R82, R107, R131: the record a slot and serial name: the slot IN-USE or RETIRING, its serial the one named. -/
def findRecord {α : Type} (slots : List (Slot α)) (r : Ref) : Option α :=
  match slots[r.slot]? with
  | some sl => if sl.state ≠ .free ∧ sl.serial = r.serial then sl.record else none
  | none => none

/-- The lowest-numbered FREE slot (R83, R111, R136). -/
def freeSlot {α : Type} (slots : List (Slot α)) : Option Nat :=
  slots.findIdx? (fun sl => sl.state = .free)

/-- R83, R111, R136: a record placed in a slot: serial incremented, wrapping, slot IN-USE. -/
def Slot.take {α : Type} (sl : Slot α) (x : α) : Slot α :=
  { state := .inUse, serial := sl.serial + 1, record := some x }

/-- A slot with its record changed. -/
def Slot.update {α : Type} (f : α → α) (sl : Slot α) : Slot α := { sl with record := sl.record.map f }

/-- `n` FREE slots of serial 0 (R79, R107, R131). -/
def freeSlots (α : Type) (n : Nat) : List (Slot α) := List.replicate n { state := .free, serial := 0, record := none }

def refOf (slot : Nat) (serial : Half) : Ref := { slot := slot, serial := serial }

/-! ## Marking -/

/-- R167: a mark of a record, by the table of its place before. -/
def Marks.add (m : Marks) (k : MarkKind) (r : RecordName) : Marks :=
  match k with
  | .urgent => if r ∈ m.urgent then m else { urgent := m.urgent ++ [r], ordinary := m.ordinary.filter (fun x => x ≠ r) }
  | .ordinary => if r ∈ m.urgent ∨ r ∈ m.ordinary then m else { m with ordinary := m.ordinary ++ [r] }

def Net.mark (k : MarkKind) (r : RecordName) (n : Net) : Net := { n with marks := n.marks.add k r }

/-- A mark taken when a reported field has changed. -/
def Net.markIf (changed : Bool) (r : RecordName) (n : Net) : Net := if changed then n.mark .ordinary r else n

/-! ## Derived fields -/

/-- R109: the step state follows the other items. -/
def Valve.stepState (v : Valve) : StepState :=
  match v.staged, v.inFlight, v.dwellEnd with
  | some _, _, _ => .staged
  | none, some f, _ => if f.accepted.isSome then .travelling else .sent
  | none, none, some _ => .dwell
  | none, none, none => .none

/-- R41: RUNNING for IDLE, AWAIT and GAP (none here), otherwise the line state itself. -/
def Line.reportedState (l : Line) : Option LineState :=
  match l.state with
  | .idle | .await | .gap => none
  | st => some st

/-- R15: the fields whose change marks a zone. -/
def Zone.reported (z : Zone) : FedState × Supply × Option Ref × Option Band := (z.fed, z.supply, z.outage, z.summary)

/-- R15: the fields whose change marks a valve. -/
def Valve.reported (v : Valve) : (Option Nat × PosState × Option Selector) × (Bool × Bool) × Option Ref × StepState :=
  ((v.position, v.posState, v.selector), (v.movedUnplanned, v.noted), v.claim, v.stepState)

/-- R64: the fields whose change marks a point. -/
def Point.reported (p : Point) : Quality × Band × Settings := (p.quality, p.band, p.settings)

/-- R41: the fields whose change marks a line. -/
def Line.reported (l : Line) : Role × Option LineState × LineParams × Nat × Bool × Bool :=
  (l.role, l.reportedState, l.params, l.listenTimeout, l.permit, l.orderHold)

/-- R129: the fields whose change marks a plan. -/
def Plan.reported (p : Plan) : PlanState × Option Nat × List (EntryState × Nat) × Option Block :=
  (p.state, p.running, p.entries.map (fun e => (e.state, e.current)), p.block)

/-- R104: every field but the deadline timer and the plan reservations. -/
def Incident.reported (i : Incident) : Incident := { i with armed := false, reservations := 0 }

/-- R146: the fields whose change marks an outage. -/
def Outage.reported (o : Outage) : Option Ref × OutageState × List HeldZone × Nat := (o.incident, o.state, o.held, o.customersOff)

/-! ## Updates of one record, marked as its owner's rule gives -/

/-- Identifiers, with their records, of the records that satisfy a test, in ascending order. -/
def idsWhere {α : Type} (xs : List α) (p : α → Bool) : List Nat :=
  (List.range xs.length).filter (fun i => (xs[i]?).any p)

def Net.setZone (i : Nat) (f : Zone → Zone) (n : Net) : Net := { n with zones := n.zones.modify i f }
def Net.setSource (i : Nat) (f : Source → Source) (n : Net) : Net := { n with sources := n.sources.modify i f }
def Net.setValve (i : Nat) (f : Valve → Valve) (n : Net) : Net := { n with valves := n.valves.modify i f }
def Net.setStation (i : Nat) (f : Station → Station) (n : Net) : Net := { n with stations := n.stations.modify i f }
def Net.setPoint (i : Nat) (f : Point → Point) (n : Net) : Net := { n with points := n.points.modify i f }
def Net.setLine (l : Fin 4) (f : Line → Line) (n : Net) : Net := { n with lines := n.lines.set l (f (n.lines.get l)) }
def Net.setPlan (i : Nat) (f : Plan → Plan) (n : Net) : Net := { n with plans := n.plans.modify i (Slot.update f) }
def Net.setIncident (i : Nat) (f : Incident → Incident) (n : Net) : Net :=
  { n with incidents := n.incidents.modify i (Slot.update f) }
def Net.setOutage (i : Nat) (f : Outage → Outage) (n : Net) : Net := { n with outages := n.outages.modify i (Slot.update f) }

def Net.line (n : Net) (l : Fin 4) : Line := n.lines.get l

/-- The record in a slot, if it holds one. -/
def slotRecord {α : Type} (slots : List (Slot α)) (i : Nat) : Option α := (slots[i]?).bind (·.record)

def Net.updateZone (i : Nat) (f : Zone → Zone) (n : Net) : Net :=
  (n.setZone i f).markIf ((n.zones[i]?).any (fun z => (f z).reported ≠ z.reported)) (.zone i)

def Net.updateValve (i : Nat) (f : Valve → Valve) (n : Net) : Net :=
  (n.setValve i f).markIf ((n.valves[i]?).any (fun v => (f v).reported ≠ v.reported)) (.valve i)

def Net.updatePoint (i : Nat) (f : Point → Point) (n : Net) : Net :=
  (n.setPoint i f).markIf ((n.points[i]?).any (fun p => (f p).reported ≠ p.reported)) (.point i)

def Net.updateLine (l : Fin 4) (f : Line → Line) (n : Net) : Net :=
  (n.setLine l f).markIf (decide ((f (n.line l)).reported ≠ (n.line l).reported)) (.line l)

/-- R111, R129: a plan in CHECKING is not marked. -/
def Net.updatePlan (i : Nat) (f : Plan → Plan) (n : Net) : Net :=
  (n.setPlan i f).markIf
    ((slotRecord n.plans i).any (fun p => (f p).reported ≠ p.reported ∧ (f p).state ≠ .checking)) (.plan i)

def Net.updateIncident (i : Nat) (f : Incident → Incident) (n : Net) : Net :=
  (n.setIncident i f).markIf ((slotRecord n.incidents i).any (fun x => (f x).reported ≠ x.reported)) (.incident i)

def Net.updateOutage (i : Nat) (f : Outage → Outage) (n : Net) : Net :=
  (n.setOutage i f).markIf ((slotRecord n.outages i).any (fun x => (f x).reported ≠ x.reported)) (.outage i)

/-- A net operation on the whole state. -/
def State.onNet (f : Net → Net) (s : State) : State := { s with net := f s.net }

/-- An operation repeated over a list, from its head. -/
def overEach {α β : Type} (f : α → β → β) (xs : List α) (b : β) : β := xs.foldl (fun b x => f x b) b

/-- The stations of a line, in ascending order of identifier (R20). -/
def Net.lineStations (n : Net) (l : Fin 4) : List Nat := idsWhere n.stations (fun st => st.line = l)

/-- The station at an address of a line. -/
def Net.stationAt (n : Net) (l : Fin 4) (address : Byte) : Option Nat :=
  n.stations.findIdx? (fun st => st.line = l ∧ st.address = address)

def Net.statusOf (n : Net) (st : Nat) : Status := ((n.stations[st]?).map (·.status)).getD .unknown

/-- R51, R114: a station out of reach. -/
def Status.unreachable (st : Status) : Bool := st = .lost ∨ st = .siteOut

/-- R55, R93, R117, R118, R182, R183: the modes in which deadlines, travel limits, dwells and stale ages are taken. -/
def Mode.timersRun (m : Mode) : Bool :=
  match m with
  | .running | .halting | .detached => true
  | .halted | .starting => false

end Machine
end Sys2Proof
end

