-- ==== Sys2Proof/Machine/Flags.lean ====
section
/-! DEFINITION. The computations of state from values: position and passing states, bands, causes and the notice line, codes of spec/11. -/

namespace Sys2Proof.Machine

/-! ## Valves -/

/-- R11: the position state of an applied reading, first matching row. -/
def posStateOfReading (motion : Motion) (closedMade openMade : Bool) (position : Nat) : PosState :=
  match motion with
  | .opening | .closing => .moving
  | .still =>
    if closedMade && openMade then .unknown
    else if closedMade then .closed
    else if openMade then .opened
    else if position = Config.positionMax then .opened
    else .partOpen

/-- R12: the position state of a position set without a reading. -/
def posStateOfPosition (position : Nat) : PosState :=
  if position = 0 then .closed else if position = Config.positionMax then .opened else .partOpen

/-- R14. -/
def passingOf : PosState → Passing
  | .closed => .notPassing
  | .opened | .partOpen | .moving | .unknown => .passing

/-- R116: whether a still valve has reached its step's target. -/
def targetReached (target position : Nat) (ps : PosState) : Bool :=
  if target = 0 then ps = .closed
  else decide (position ≤ target + Config.positionTolerance ∧ target ≤ position + Config.positionTolerance)

/-- R124: whether a reading shows that the valve has moved, from the fields before and after it. -/
def hasMoved (before after : Valve) : Bool :=
  match before.position, after.position with
  | some p, some q =>
    !before.noted &&
      (after.motion = some .opening || after.motion = some .closing ||
        decide (p + Config.positionTolerance < q ∨ q + Config.positionTolerance < p) ||
        decide ((before.posState = .closed) ≠ (after.posState = .closed)))
  | _, _ => false

/-! ## Bands -/

/-- R56. -/
def rawBand (s : Settings) (v : Nat) : Band :=
  if v ≤ s.ll then .lowlow
  else if v ≤ s.l then .low
  else if v < s.h then .normal
  else if v < s.hh then .high
  else .highhigh

/-- R56: a sum above 65535 is taken as 65535. -/
def addSat (a b : Nat) : Nat := min (a + b) 65535

/-- R56: the candidate band, from the value and the band held. A difference below 0 is 0. -/
def candidateBand (s : Settings) (held : Band) (v : Nat) : Band :=
  match held with
  | .normal => rawBand s v
  | .lowlow =>
    if v ≤ addSat s.ll s.deadband then .lowlow
    else if v ≤ addSat s.l s.deadband then .low
    else rawBand s v
  | .low =>
    if rawBand s v = .lowlow then .lowlow
    else if v ≤ addSat s.l s.deadband then .low
    else rawBand s v
  | .highhigh =>
    if s.hh - s.deadband ≤ v then .highhigh
    else if s.h - s.deadband ≤ v then .high
    else rawBand s v
  | .high =>
    if rawBand s v = .highhigh then .highhigh
    else if s.h - s.deadband ≤ v then .high
    else rawBand s v

/-- R57: confirmation of an entry into LOW or HIGH, from the band `b` that stands meanwhile. -/
def confirmEntry (now : Time) (s : Settings) (cand b : Band) (pb : Option PendingBand) : Band × Option PendingBand :=
  match pb with
  | some p =>
    if p.band = cand then
      if p.since + 1000 * s.confirm ≤ now then (cand, none) else (b, some p)
    else if s.confirm = 0 then (cand, none) else (b, some { band := cand, since := now })
  | none => if s.confirm = 0 then (cand, none) else (b, some { band := cand, since := now })

/-- R57: the band moves toward the candidate, first matching row. -/
def moveBand (now : Time) (s : Settings) (cand held : Band) (pb : Option PendingBand) : Band × Option PendingBand :=
  if cand = held then (held, none)
  else
    match cand, held with
    | .lowlow, _ | .highhigh, _ | .normal, _ => (cand, none)
    | .low, .lowlow => (.low, none)
    | .high, .highhigh => (.high, none)
    | .low, _ | .high, _ => confirmEntry now s cand .normal pb

/-- R59: LOWLOW, HIGHHIGH, LOW, HIGH, NORMAL from worst to least. -/
def bandRank : Band → Nat
  | .lowlow => 4
  | .highhigh => 3
  | .low => 2
  | .high => 1
  | .normal => 0

def worseBand (a b : Band) : Band := if bandRank a < bandRank b then b else a

/-- R59: the worst of some bands, absent when there is none. -/
def worstBand : List Band → Option Band
  | [] => none
  | b :: bs => some (bs.foldl worseBand b)

/-- R52, R58: what LIMITS and the point image test. -/
def Settings.ok (s : Settings) : Bool :=
  decide (s.ll < s.l ∧ s.l < s.h ∧ s.h < s.hh ∧ s.hh ≤ 65535 ∧ 2 * s.deadband < s.h - s.l ∧ s.confirm ≤ 60 ∧ 10 ≤ s.stale ∧
    s.stale ≤ 3600)

/-! ## Causes and the notice line -/

/-- The six causes of CAUSE (R151). -/
inductive Cause where
  | answer | return_ | urgent | starved | fault | halted
deriving DecidableEq, Repr

/-- The position of a cause in CAUSE and CAUSEEN (spec/11). -/
def Cause.position : Cause → Nat
  | .answer => 0
  | .return_ => 1
  | .urgent => 2
  | .starved => 3
  | .fault => 4
  | .halted => 5

def Cause.bit (c : Cause) : Word := BitVec.ofNat 64 (2 ^ c.position)

/-- The six positions that name a cause. -/
def causeMask : Word := 0x3F

/-- R151: a cause latched. -/
def State.latch (c : Cause) (s : State) : State := { s with exch := { s.exch with cause := s.exch.cause ||| c.bit } }

def State.latched (c : Cause) (s : State) : Bool := s.exch.cause &&& c.bit ≠ 0

/-- R152: asserted while at least one cause is both latched and enabled. -/
def State.noticeLine (s : State) : Bool := s.exch.cause &&& s.exch.causeen &&& causeMask ≠ 0

/-! ## Codes of spec/11 -/

def Mode.code : Mode → Nat
  | .halted => 0
  | .starting => 1
  | .running => 2
  | .halting => 3
  | .detached => 4

def FaultCode.code : FaultCode → Nat
  | .none => 0
  | .badLink => 1
  | .cursorDisturbed => 2
  | .memory => 3
  | .signature => 4
  | .version => 5
  | .size => 6
  | .reference => 7

def Table.code : Table → Nat
  | .charter => 0
  | .zones => 1
  | .sources => 2
  | .valves => 3
  | .stations => 4
  | .points => 5

def Tier.ofCode : Nat → Option Tier
  | 0 => some .low
  | 1 => some .medium
  | 2 => some .intermediate
  | _ => none

def Tier.code : Tier → Nat
  | .low => 0
  | .medium => 1
  | .intermediate => 2

def Speed.ofCode : Nat → Option Speed
  | 0 => some .b1200
  | 1 => some .b2400
  | 2 => some .b4800
  | 3 => some .b9600
  | 4 => some .b19200
  | 5 => some .b38400
  | _ => none

def Speed.code : Speed → Nat
  | .b1200 => 0
  | .b2400 => 1
  | .b4800 => 2
  | .b9600 => 3
  | .b19200 => 4
  | .b38400 => 5

/-- R18: bits a second. -/
def Speed.rate : Speed → Nat
  | .b1200 => 1200
  | .b2400 => 2400
  | .b4800 => 4800
  | .b9600 => 9600
  | .b19200 => 19200
  | .b38400 => 38400

/-- R18: 20 character times of ten bits, in whole milliseconds of the run clock (log 11). -/
def Speed.settling (s : Speed) : Time := Config.settlingCharacters * 10000 / s.rate

def StationKind.ofCode : Nat → Option StationKind
  | 0 => some .pressure
  | 1 => some .valve
  | 2 => some .combined
  | _ => none

def StationKind.code : StationKind → Nat
  | .pressure => 0
  | .valve => 1
  | .combined => 2

def PollClass.ofCode : Nat → Option PollClass
  | 0 => some .fast
  | 1 => some .slow
  | _ => none

def PollClass.code : PollClass → Nat
  | .fast => 0
  | .slow => 1

/-- An image's initial state, and the target of a SOURCE order: 0 LIVE, 1 OUT. -/
def SourceState.ofCode : Nat → Option SourceState
  | 0 => some .live
  | 1 => some .out
  | _ => none

def ValveKind.ofCode : Nat → Option ValveKind
  | 0 => some .remote
  | 1 => some .manual
  | _ => none

def ValveKind.code : ValveKind → Nat
  | .remote => 0
  | .manual => 1

def PosState.code : PosState → Nat
  | .closed => 0
  | .opened => 1
  | .partOpen => 2
  | .moving => 3
  | .unknown => 4

def Motion.ofCode : Nat → Option Motion
  | 0 => some .still
  | 1 => some .opening
  | 2 => some .closing
  | _ => none

def Role.ofCode : Nat → Option Role
  | 0 => some .master
  | 1 => some .listen
  | _ => none

def Role.code : Role → Nat
  | .master => 0
  | .listen => 1

def LineState.code : LineState → Nat
  | .idle => 0
  | .await => 1
  | .gap => 2
  | .holding => 3
  | .held => 4
  | .settling => 5

def CallKind.ofCode : Nat → Option CallKind
  | 1 => some .smellInside
  | 2 => some .smellOutside
  | 3 => some .audible
  | 4 => some .damage
  | 5 => some .noSupply
  | 6 => some .lowPressure
  | _ => none

def CallKind.code : CallKind → Nat
  | .smellInside => 1
  | .smellOutside => 2
  | .audible => 3
  | .damage => 4
  | .noSupply => 5
  | .lowPressure => 6

def IncidentKind.code : IncidentKind → Nat
  | .escape => 1
  | .damage => 2
  | .pressureLow => 3
  | .pressureHigh => 4
  | .supplyLoss => 5

def IncidentState.code : IncidentState → Nat
  | .opened => 0
  | .attending => 1
  | .safe => 2
  | .closed => 3

def Supply.code : Supply → Nat
  | .supplied => 0
  | .unfed => 1
  | .repressurised => 2
  | .refedUncontrolled => 3

def OutageState.code : OutageState → Nat
  | .isolated => 0
  | .restoring => 1
  | .restored => 2

/-! Codes the manual does not give; they follow the order in which its tables name the values (log 9, log 25). -/

def FedState.code : FedState → Nat
  | .fed => 0
  | .unfed => 1

def SourceState.code : SourceState → Nat
  | .live => 0
  | .out => 1
  | .failed => 2

def Band.code : Band → Nat
  | .normal => 0
  | .low => 1
  | .lowlow => 2
  | .high => 3
  | .highhigh => 4

def Quality.code : Quality → Nat
  | .unknown => 0
  | .good => 1
  | .suspect => 2
  | .stale => 3
  | .lost => 4

def Status.code : Status → Nat
  | .unknown => 0
  | .online => 1
  | .backoff => 2
  | .lost => 3
  | .siteOut => 4

def Motion.code : Motion → Nat
  | .still => 0
  | .opening => 1
  | .closing => 2

def Selector.code : Selector → Nat
  | .atSite => 0
  | .remote => 1

def StepState.code : StepState → Nat
  | .none => 0
  | .staged => 1
  | .sent => 2
  | .travelling => 3
  | .dwell => 4

def Passing.code : Passing → Nat
  | .passing => 0
  | .notPassing => 1

def PlanState.code : PlanState → Nat
  | .checking => 0
  | .active => 1
  | .holding => 2
  | .blocked => 3
  | .abandoning => 4
  | .abandoned => 5
  | .complete => 6

def EntryState.code : EntryState → Nat
  | .waiting => 0
  | .running => 1
  | .hold => 2
  | .blocked => 3
  | .done => 4
  | .cancelled => 5

/-- 0 stands for no block. -/
def BlockReason.code : BlockReason → Nat
  | .atSite => 1
  | .stationLost => 2
  | .travelFault => 3
  | .stepRefused => 4
  | .unplannedMove => 5
  | .lineUnavailable => 6

def OutageCause.code : OutageCause → Nat
  | .planned => 0
  | .sourceLoss => 1
  | .unplanned => 2

def SlotState.code : SlotState → Nat
  | .free => 0
  | .inUse => 1
  | .retiring => 2

/-- A flag as a number. -/
def bitOf (b : Bool) : Nat := if b then 1 else 0

/-- R19: what a line's driver does. -/
inductive Driver where
  | released | idleLevel | sending
deriving DecidableEq, Repr

/-- R19: released on a HELD line and in LISTEN role, idle level in IDLE, GAP and SETTLING; in AWAIT and HOLDING the poll is sent until its
last stop bit, then the driver is released (log 11). -/
def Line.driver (l : Line) : Driver :=
  match l.role with
  | .listen => .released
  | .master =>
    match l.state with
    | .held => .released
    | .idle | .gap | .settling => .idleLevel
    | .await | .holding => if l.windowSince.isSome then .released else .sending

end Sys2Proof.Machine
end

