-- ==== Sys2Proof/Machine/Answers.lean ====
section
/-! DEFINITION. Answers: the codes of spec/08 and spec/11 and the bodies the part writes over an order. -/

namespace Sys2Proof.Machine

/-- The answer codes of spec/08, with the numbers of spec/11. -/
inductive AnswerCode where
  | done | doneLate | new | attached | attachedOutage | accepted | noSuch | noRoom | badForm | badState | claimed | wouldIsolate
  | wouldRefeed | notMaster | notPermitted | pressureNotNormal | overCount | halted
deriving DecidableEq, Repr

def AnswerCode.code : AnswerCode → Nat
  | .done => 1
  | .doneLate => 2
  | .new => 3
  | .attached => 4
  | .attachedOutage => 5
  | .accepted => 6
  | .noSuch => 7
  | .noRoom => 8
  | .badForm => 9
  | .badState => 10
  | .claimed => 11
  | .wouldIsolate => 12
  | .wouldRefeed => 13
  | .notMaster => 14
  | .notPermitted => 15
  | .pressureNotNormal => 16
  | .overCount => 17
  | .halted => 18

/-- An answer: its code, its body (`none` is an unread byte, not written), and the number of portions of a QUERY. -/
structure Answer where
  code : AnswerCode
  body : List OutByte
  portions : Option Nat
deriving DecidableEq, Repr

/-- An answer with no body. -/
def Answer.plain (c : AnswerCode) : Answer := { code := c, body := [], portions := none }

def Answer.withBody (c : AnswerCode) (b : List OutByte) : Answer := { code := c, body := b, portions := none }

/-- An answer that is due to a folio (R158, R159). -/
structure Reply where
  folio : Nat
  answer : Answer
deriving DecidableEq, Repr

/-- What an owner makes of an order (R158, R159): an answer in the event, a trial to come, or a stall. -/
inductive OrderResult where
  | answered (a : Answer)
  | pending
  | stalled (st : Stalled)
deriving DecidableEq, Repr

/-- R158: the answer comes back in the event of the order. -/
def OrderResult.atOnce : OrderResult → Bool
  | .answered _ => true
  | .pending | .stalled _ => false

/-- `w` little-endian bytes the part writes. -/
def out (w n : Nat) : List OutByte := (leBytes w n).map some

def outHalf (h : Half) : List OutByte := out 2 h.toNat

/-- An optional identifier of two bytes, 65535 for absent. -/
def outOptHalf (x : Option Nat) : List OutByte := out 2 (x.getD Config.noneHalf)

/-- An optional byte, 255 for absent. -/
def outOptByte (x : Option Nat) : List OutByte := out 1 (x.getD Config.noneByte)

/-- An optional slot and serial: slot 255 and serial 0 for absent (log 9). -/
def outOptRef (r : Option Ref) : List OutByte :=
  match r with
  | some r => out 1 r.slot ++ outHalf r.serial
  | none => out 1 Config.noneByte ++ out 2 0

/-- An optional run-clock time: 6 bytes of ones for absent (log 9). -/
def outOptTime (t : Option Time) : List OutByte := out 6 (t.getD (Config.runClockModulus - 1))

/-- The flags of an incident (spec/11, CALL answer). -/
def Incident.flags (i : Incident) : Nat := bitOf i.overdue + 2 * bitOf i.missed + 4 * bitOf i.late + 8 * bitOf i.escalated

/-- R90: the calls attached, as the sum R80 gives. -/
def Incident.attachedCalls (i : Incident) : Nat := i.calls.length + i.further

/-- The CALL answer body, 24 bytes (R91, spec/11). -/
def callBody (slot : Nat) (serial : Half) (i : Incident) (time : Time) : List OutByte :=
  out 1 slot ++ out 1 i.kind.code ++ outHalf serial ++ out 1 i.cls ++ out 1 i.state.code ++ out 1 i.flags ++ [none] ++
    out 6 i.deadline ++ out 4 i.attachedCalls ++ out 6 time

/-- The INCIDENT-ACT answer body (spec/11). -/
def actAnswerBody (i : Incident) : List OutByte :=
  out 1 i.state.code ++ out 1 i.cls ++ out 1 i.flags ++ [none] ++ out 6 i.deadline

/-- The body of a trial's result: slot or source, entry at fault, serial, zones (spec/11). -/
def trialBody (slot entry : Nat) (serial : Half) (zones : List Nat) : List OutByte :=
  out 1 slot ++ out 1 entry ++ outHalf serial ++ out 1 zones.length ++ (zones.map (out 1)).flatten

/-- The LINE answer body (spec/11). -/
def lineBody (l : Line) : List OutByte := out 1 l.role.code ++ out 1 l.state.code

/-- The VALVE-NOTE answer body (spec/11). -/
def noteBody (v : Valve) : List OutByte :=
  outOptByte v.position ++ out 1 v.posState.code ++ out 1 (bitOf v.movedUnplanned + 2 * bitOf v.noted)

/-- The RESTORE answer body (spec/11). -/
def restoreBody (o : Outage) (repressurised supplied : Nat) : List OutByte :=
  out 1 o.state.code ++ out 3 o.customersOff ++ out 1 repressurised ++ out 1 supplied

/-- The RELIGHT answer body; the outage is the one that held the zone when the order was taken (spec/11). -/
def relightBody (supply : Supply) (relit customers : Nat) (o : Option Outage) : List OutByte :=
  out 1 supply.code ++ out 2 relit ++ out 2 customers ++
    (match o with
     | some o => out 1 o.state.code ++ out 3 o.customersOff
     | none => out 1 Config.noneByte ++ out 3 0)

/-- The PROCEED answer body: plan state, block reason, block valve (log 25). -/
def proceedAnswerBody (p : Plan) : List OutByte :=
  out 1 p.state.code ++ out 1 ((p.block.map (·.reason.code)).getD 0) ++ outOptByte (p.block.map (·.valve))

end Sys2Proof.Machine
end

