-- ==== Sys2Proof/Machine/Survey.lean ====
section
/-! DEFINITION. The survey engine (spec/04): the generation and the change set, reachability, trials and their judgement. -/

namespace Sys2Proof.Machine

/-! ## The generation and the change set -/

/-- R67, R135: a valve entered in the change set, or changed again there; a current claim replaces the noted one, no claim leaves it. -/
def noteValve (cs : List ChangedValve) (v : Nat) (claim : Option Ref) : List ChangedValve :=
  if cs.any (fun c => c.valve = v) then
    cs.map (fun c => if c.valve = v then { c with claim := claim.orElse (fun _ => c.claim) } else c)
  else cs ++ [{ valve := v, claim := claim }]

def noteSource (cs : List Nat) (i : Nat) : List Nat := if i ∈ cs then cs else cs ++ [i]

def Net.setSurvey (f : Survey → Survey) (n : Net) : Net := { n with survey := f n.survey }

/-- R67: one event's changes of passing state; one step of the generation however many valves it names. -/
def Net.passingChanged (vs : List Nat) (n : Net) : Net :=
  if vs = [] then n
  else n.setSurvey (fun s =>
    { s with
      generation := s.generation + 1
      pendingReal := true
      changeValves := vs.foldl (fun cs v => noteValve cs v ((n.valves[v]?).bind (·.claim))) s.changeValves })

/-- R67: one event's changes of source state. -/
def Net.sourcesChanged (is : List Nat) (n : Net) : Net :=
  if is = [] then n
  else n.setSurvey (fun s =>
    { s with generation := s.generation + 1, pendingReal := true, changeSources := is.foldl noteSource s.changeSources })

/-- R67: a plan has taken or released claims; nothing is pended and nothing enters the change set. -/
def Net.claimsChanged (n : Net) : Net := n.setSurvey (fun s => { s with generation := s.generation + 1 })

/-- R14: a valve's position state has gone from `before` to the one it holds now: a different passing state is handed on. -/
def Net.handPassing (v : Nat) (before : PosState) (n : Net) : Net :=
  match n.valves[v]? with
  | some x =>
    if passingOf x.posState ≠ passingOf before then
      (n.setValve v (fun x => { x with passing := passingOf x.posState })).passingChanged [v]
    else n
  | none => n

/-! ## Reachability (R66) -/

/-- A source's node (R1). -/
def sourceNode (i : Nat) : Nat := Config.zoneMax + i

/-- One passing valve joins a node to a set that holds its other end. A source enters only as LIVE, at the start. -/
def joinEdge (zones : Nat) (r : List Nat) (e : Nat × Nat) : List Nat :=
  if e.1 ∈ r ∧ e.2 < zones ∧ e.2 ∉ r then e.2 :: r
  else if e.2 ∈ r ∧ e.1 < zones ∧ e.1 ∉ r then e.1 :: r
  else r

/-- One pass over the passing valves. -/
def reachPass (zones : Nat) (edges : List (Nat × Nat)) (r : List Nat) : List Nat := edges.foldl (joinEdge zones) r

def reachIter (zones : Nat) (edges : List (Nat × Nat)) : Nat → List Nat → List Nat
  | 0, r => r
  | k + 1, r => reachIter zones edges k (reachPass zones edges r)

/-- R66: the reachable set, from the LIVE sources. A pass that adds no zone ends the growth, so as many passes as zones settle it. -/
def reachSet (zones : Nat) (edges : List (Nat × Nat)) (live : List Nat) : List Nat :=
  reachIter zones edges zones (live.map sourceNode)

/-- The reached zones, ascending. -/
def reachedZones (zones : Nat) (edges : List (Nat × Nat)) (live : List Nat) : List Nat :=
  (List.range zones).filter (fun z => z ∈ reachSet zones edges live)

/-- The two ends of a valve. -/
def Valve.ends (v : Valve) : Nat × Nat := (v.nodeA, v.nodeB)

/-- R66: a real survey's result, from the source and passing states as they stand. -/
def Net.realResult (n : Net) : List Nat :=
  reachedZones n.zones.length ((n.valves.filter (fun v => v.passing = .passing)).map Valve.ends)
    (idsWhere n.sources (fun s => s.state = .live))

/-! ## Trials (R73, R74) -/

/-- The target of the last step of the last entry that names a valve. -/
def finalTarget (entries : List PlanEntry) (v : Nat) : Option Nat :=
  ((entries.filter (fun e => e.valve = v)).getLast?).bind (fun e => (e.steps.getLast?).map (·.target))

/-- R73: a live plan. -/
def PlanState.live : PlanState → Bool
  | .active | .holding | .blocked => true
  | .checking | .abandoning | .abandoned | .complete => false

/-- The entries of a subject's first `k` prefixes; none for a SOURCE. -/
def Net.subjectEntries (n : Net) (sub : Subject) (k : Nat) : List PlanEntry :=
  match sub with
  | .plan r => ((findRecord n.plans r).map (fun p => p.entries.take k)).getD []
  | .source .. => []

/-- R73: whether a valve counts as passing in prefix `k` of a subject, first rule that applies. -/
def Net.trialPassing (n : Net) (sub : Subject) (k v : Nat) : Bool :=
  match finalTarget (n.subjectEntries sub k) v with
  | some t => decide (t ≠ 0)
  | none =>
    let other := ((n.valves[v]?).bind (·.claim)).bind (fun r =>
      if sub = .plan r then none
      else (findRecord n.plans r).bind (fun p => if p.state.live then finalTarget p.entries v else none))
    match other with
    | some t => decide (t ≠ 0)
    | none => (n.valves[v]?).any (fun x => x.passing = .passing)

/-- R73: the sources counted LIVE. -/
def Net.trialLive (n : Net) (sub : Subject) : List Nat :=
  (List.range n.sources.length).filter (fun i =>
    match sub with
    | .source j target _ _ _ => if i = j then target = .live else (n.sources[i]?).any (fun s => s.state = .live)
    | .plan _ => (n.sources[i]?).any (fun s => s.state = .live))

/-- R73: a plan of n entries has n prefixes, a SOURCE order one. -/
def Net.prefixCount (n : Net) (sub : Subject) : Nat :=
  match sub with
  | .plan r => ((findRecord n.plans r).map (fun p => p.entries.length)).getD 0
  | .source .. => 1

/-- The reached zones of one prefix. -/
def Net.trialPrefix (n : Net) (sub : Subject) (k : Nat) : List Nat :=
  reachedZones n.zones.length
    (((List.range n.valves.length).filter (n.trialPassing sub k)).filterMap (fun v => (n.valves[v]?).map Valve.ends))
    (n.trialLive sub)

/-- A trial's result: the reached zones of every prefix, from the inputs as they stand. -/
def Net.trialResult (n : Net) (sub : Subject) : List (List Nat) :=
  (List.range (n.prefixCount sub)).map (fun k => n.trialPrefix sub (k + 1))

/-- R74: what a trial answers. -/
inductive Verdict where
  | accepted (losses : List Nat)
  | wouldIsolate (zones : List Nat)
  | wouldRefeed (zones : List Nat)
deriving DecidableEq, Repr

/-- R74: the flags OUTAGE-ACCEPTED and REFEED-ACCEPTED of a subject. -/
def Net.subjectFlags (n : Net) (sub : Subject) : Bool × Bool :=
  match sub with
  | .plan r => ((findRecord n.plans r).map (fun p => (p.outageAccepted, p.refeedAccepted))).getD (false, false)
  | .source _ _ o r _ => (o, r)

/-- R74: zones that lose feed in a prefix. -/
def Net.losesFeed (n : Net) (reached : List Nat) : List Nat :=
  idsWhere n.zones (fun z => z.fed = .fed) |>.filter (fun i => i ∉ reached)

/-- R74: zones that gain feed in a prefix. -/
def Net.gainsFeed (n : Net) (reached : List Nat) : List Nat :=
  idsWhere n.zones (fun z => z.fed = .unfed) |>.filter (fun i => i ∈ reached)

/-- R74: whether the outage record that holds a zone is RESTORING. -/
def Net.zoneRestoring (n : Net) (i : Nat) : Bool :=
  (((n.zones[i]?).bind (·.outage)).bind (findRecord n.outages)).any (fun o => o.state = .restoring)

/-- R74: the prefixes judged in order; `losses` gathers the zones that lose feed. -/
def Net.judge (n : Net) (flags : Bool × Bool) (losses : List Nat) : List (List Nat) → Verdict
  | [] => .accepted ((List.range n.zones.length).filter (fun z => z ∈ losses))
  | reached :: rest =>
    let lost := n.losesFeed reached
    let refed := (n.gainsFeed reached).filter (fun i => !(flags.2 && n.zoneRestoring i))
    if lost ≠ [] ∧ flags.1 = false then .wouldIsolate lost
    else if refed ≠ [] then .wouldRefeed refed
    else n.judge flags (losses ++ lost) rest

/-! ## Choosing and queueing -/

/-- R68: no survey in flight and no completion held. -/
def Survey.idle (s : Survey) : Bool := s.inFlight.isNone && s.held.isNone

/-- R68: the modes in which a survey starts. -/
def Mode.surveys (m : Mode) : Bool := m = .running ∨ m = .detached

/-- R72: a trial offered: queued at the tail, or refused QUEUE-FULL. -/
def Net.offerTrial (sub : Subject) (n : Net) : Option Net :=
  if n.survey.queue.length < Config.trialMax then some (n.setSurvey (fun s => { s with queue := s.queue ++ [sub] })) else none

/-- R158: the folio recorded by a queued SOURCE trial is lost to it. -/
def Subject.loseFolio (i : Nat) : Subject → Subject
  | .source s t o r (some f) => .source s t o r (if f = i then none else some f)
  | sub => sub

end Sys2Proof.Machine
end

