-- ==== Sys2Proof/Machine/Incidents.lean ====
section
/-! DEFINITION. The incident unit (spec/05): making and naming incidents, attachment, escalation, deadlines, excursions, links, and the
bodies of CALL and INCIDENT-ACT. -/

namespace Sys2Proof.Machine

/-- R81: the deadline of a class, in milliseconds. -/
def IncidentParams.deadline (p : IncidentParams) (c : Nat) : Time :=
  60000 * (if c = 1 then p.class1 else if c = 2 then p.class2 else p.class3)

/-- R92: a deadline given a value; a different value arms the timer. -/
def Incident.setDeadline (d : Time) (i : Incident) : Incident := if d = i.deadline then i else { i with deadline := d, armed := true }

/-- R83: the fields of a new record. -/
def newIncident (n : Net) (kind : IncidentKind) (cls zone x y : Nat) : Incident where
  kind := kind
  cls := cls
  zone := zone
  anchorX := x
  anchorY := y
  opened := n.now
  lastCall := none
  deadline := n.now + n.params.deadline cls
  state := .opened
  overdue := false
  missed := false
  late := false
  escalated := false
  calls := []
  further := 0
  points := []
  plans := []
  reservations := 0
  outage := none
  armed := true

/-- R83: a new incident in the lowest FREE slot, not marked yet; `none` when no slot is FREE. -/
def Net.openIncident (kind : IncidentKind) (cls zone x y : Nat) (n : Net) : Option (Net × Nat) :=
  (freeSlot n.incidents).map (fun i =>
    ({ n with incidents := n.incidents.modify i (fun sl => sl.take (newIncident n kind cls zone x y)) }, i))

/-- R83: a new incident marked by its class. -/
def Net.makeIncident (kind : IncidentKind) (cls zone x y : Nat) (n : Net) : Option (Net × Nat) :=
  (n.openIncident kind cls zone x y).map (fun q => (q.1.mark (if cls = 1 then .urgent else .ordinary) (.incident q.2), q.2))

/-- The record of a slot that is not FREE. -/
def heldRecord {α : Type} (slots : List (Slot α)) (i : Nat) : Option α :=
  (slots[i]?).bind (fun sl => if sl.state = .free then none else sl.record)

/-- R83, R104: the mark of an incident from its fields before: URGENT when the record is new in class 1 or has been raised to it. -/
def Net.markIncident (before : Net) (i : Nat) (n : Net) : Net :=
  match heldRecord before.incidents i, heldRecord n.incidents i with
  | some x, some y =>
    let n1 := n.markIf (decide (x.reported ≠ y.reported)) (.incident i)
    if x.cls ≠ 1 ∧ y.cls = 1 then n1.mark .urgent (.incident i) else n1
  | none, some y => n.mark (if y.cls = 1 then .urgent else .ordinary) (.incident i)
  | _, none => n

/-- The slot and serial a slot's record is named by. -/
def slotRef {α : Type} (slots : List (Slot α)) (i : Nat) : Ref := refOf i (((slots[i]?).map (·.serial)).getD 0)

/-! ## Deadlines -/

/-- R93: the expiry of a slot's deadline is taken. -/
def Net.takeExpiry (i : Nat) (n : Net) : Net :=
  match slotRecord n.incidents i with
  | some x =>
    if x.state = .opened then
      (n.setIncident i (fun x => { x with armed := false, overdue := true, missed := true })).mark .urgent (.incident i)
    else n.setIncident i (fun x => { x with armed := false })
  | none => n

/-- R93: the timer of a slot is ARMED and the run clock has reached its deadline. -/
def Net.deadlineDue (n : Net) (i : Nat) : Bool := (slotRecord n.incidents i).any (fun x => x.armed && decide (x.deadline ≤ n.now))

/-- R92: an expiry taken in the event that set a deadline already reached. -/
def Net.expireIfDue (i : Nat) (n : Net) : Net := if n.deadlineDue i then n.takeExpiry i else n

/-! ## Attachment -/

/-- R90: escalation judged after an attachment. -/
def Incident.escalate (p : IncidentParams) (time : Time) (i : Incident) : Incident :=
  if p.escalation ≤ i.attachedCalls ∧ i.cls ≠ 1 then
    Incident.setDeadline (min i.deadline (time + p.deadline 1)) { i with cls := 1, escalated := true }
  else i

/-- R89: the steps of an attachment. -/
def Incident.attach (p : IncidentParams) (e : CallEntry) (cls : Nat) (i : Incident) : Incident :=
  let i1 : Incident :=
    if i.calls.length < Config.callListMax then { i with calls := i.calls ++ [e] } else { i with further := min (i.further + 1) 65535 }
  let i2 : Incident := { i1 with lastCall := some e.time, cls := min i1.cls cls }
  (i2.setDeadline (min i2.deadline (e.time + p.deadline i2.cls))).escalate p e.time

/-- R89, R90, R104: a call attached to a slot's incident; marked, URGENT when its class is raised to 1. -/
def Net.attachCall (i : Nat) (e : CallEntry) (cls : Nat) (n : Net) : Net :=
  match slotRecord n.incidents i with
  | some x =>
    let n1 := (n.setIncident i (Incident.attach n.params e cls)).mark .ordinary (.incident i)
    if x.cls ≠ 1 ∧ (x.attach n.params e cls).cls = 1 then n1.mark .urgent (.incident i) else n1
  | none => n

/-! ## Finding incidents -/

/-- Slots IN-USE whose record satisfies a test, ascending. -/
def Net.incidentsWhere (n : Net) (p : Incident → Bool) : List Nat :=
  idsWhere n.incidents (fun sl => sl.state = .inUse && sl.record.any p)

/-- The slot with the latest time by a key; on a tie the lowest slot (R61, R85, R88). -/
def Net.latestBy (n : Net) (key : Incident → Time) : List Nat → Option Nat
  | [] => none
  | i :: is =>
    match n.latestBy key is with
    | none => some i
    | some j =>
      if ((slotRecord n.incidents i).map key).getD 0 < ((slotRecord n.incidents j).map key).getD 0 then some j else some i

/-- R61, R88: the open incident of a zone and kind with the latest opened time. -/
def Net.openPressure (n : Net) (kind : IncidentKind) (zone : Nat) : Option Nat :=
  n.latestBy (·.opened) (n.incidentsWhere (fun i => i.kind = kind ∧ i.zone = zone ∧ i.state ≠ .closed))

def absDiff (a b : Nat) : Nat := (a - b) + (b - a)

/-- R85: the grid distance, the larger of the two differences. -/
def gridDistance (x y u v : Nat) : Nat := max (absDiff x u) (absDiff y v)

/-- R85: a candidate for an escape-group call. -/
def Incident.candidate (p : IncidentParams) (zone x y : Nat) (time : Time) (i : Incident) : Bool :=
  decide (i.state ≠ .closed) && decide (i.kind = .escape ∨ i.kind = .damage) && decide (i.zone = zone) &&
    decide (gridDistance i.anchorX i.anchorY x y ≤ p.radius) && i.lastCall.any (fun t => decide (time - t ≤ 60000 * p.window))

/-! ## Excursions (R61, R101) -/

/-- The two sides of an excursion. -/
def excursionKind (b : Band) : IncidentKind := if b = .lowlow then .pressureLow else .pressureHigh

/-- R61: a point attached to an incident. -/
def Incident.addExcursion (p : IncidentParams) (now : Time) (point : Nat) (i : Incident) : Incident :=
  let i1 : Incident :=
    if point ∉ i.points ∧ i.points.length < Config.pointRefMax then { i with points := i.points ++ [point] } else i
  Incident.setDeadline (min i1.deadline (now + p.deadline 1)) { i1 with cls := 1 }

/-- R61: the incident an excursion attaches to or raises, with its slot, not marked yet; `none` when there is no room. -/
def Net.placeExcursion (point zone : Nat) (band : Band) (n : Net) : Option (Net × Nat) :=
  match n.openPressure (excursionKind band) zone with
  | some i => some (n.setIncident i (Incident.addExcursion n.params n.now point), i)
  | none =>
    let z := n.zones[zone]?
    (n.openIncident (excursionKind band) 1 zone ((z.map (·.gridX)).getD 0) ((z.map (·.gridY)).getD 0)).map (fun q =>
      (q.1.setIncident q.2 (fun x => { x with points := [point] }), q.2))

/-- R61: attach, raise, or no room, with the mark of the incident. -/
def Net.takeExcursion (point zone : Nat) (band : Band) (n : Net) : Net :=
  match n.placeExcursion point zone band with
  | some (n1, i) => Net.markIncident n i n1
  | none => n

/-! ## Links (R100, R102) -/

/-- R100: the four verdicts on a plan's place. -/
inductive Place where
  | unknown | closed | full | reserved
deriving DecidableEq, Repr

def Net.placeFor (n : Net) (r : Ref) : Place :=
  match findRecord n.incidents r with
  | none => .unknown
  | some i =>
    if i.state = .closed then .closed
    else if Config.planLinkMax ≤ i.plans.length + i.reservations then .full
    else .reserved

/-- R100: a reservation taken. -/
def Net.reserve (r : Ref) (n : Net) : Net := n.setIncident r.slot (fun i => { i with reservations := i.reservations + 1 })

/-- R100: a reservation taken back; the record it stands on is the one named. -/
def Net.unreserve (r : Ref) (n : Net) : Net :=
  if (findRecord n.incidents r).isSome then n.setIncident r.slot (fun i => { i with reservations := i.reservations - 1 }) else n

/-- R100: an accepted plan's reservation becomes a link. -/
def Net.linkPlan (r plan : Ref) (n : Net) : Net :=
  if (findRecord n.incidents r).isSome then
    n.updateIncident r.slot (fun i => { i with reservations := i.reservations - 1, plans := i.plans ++ [plan] })
  else n

/-- R102: an incident's outage link set. -/
def Net.linkOutage (i : Nat) (outage : Ref) (n : Net) : Net := n.updateIncident i (fun x => { x with outage := some outage })

/-! ## The CALL order (R84 to R91) -/

/-- R84: the class of a call kind. -/
def CallKind.cls : CallKind → Nat
  | .smellInside | .audible | .damage => 1
  | .smellOutside => 2
  | .noSupply | .lowPressure => 3

/-- R84: the group of a call kind. -/
def CallKind.escapeGroup : CallKind → Bool
  | .smellInside | .audible | .damage | .smellOutside => true
  | .noSupply | .lowPressure => false

/-- R91: the answer from the record as it stands at the end of the event. -/
def Net.callAnswer (n : Net) (c : AnswerCode) (i : Nat) (time : Time) : Answer :=
  match slotRecord n.incidents i with
  | some x => .withBody c (callBody i (slotRef n.incidents i).serial x time)
  | none => .plain c

/-- The call attached to a slot and answered. -/
def Net.attachAndAnswer (c : AnswerCode) (i : Nat) (e : CallEntry) (n : Net) : Net × Answer :=
  let n1 := n.attachCall i e e.kind.cls
  (n1, n1.callAnswer c i e.time)

/-- A new incident for a call, which then attaches to it; NO-ROOM when no slot is FREE (R86, R88). -/
def Net.newForCall (kind : IncidentKind) (cls zone : Nat) (points : List Nat) (e : CallEntry) (n : Net) : Net × Answer :=
  match n.makeIncident kind cls zone e.gridX e.gridY with
  | some (n1, i) => (n1.setIncident i (fun x => { x with points := points })).attachAndAnswer .new i e
  | none => (n, .plain .noRoom)

/-- R85, R86. -/
def Net.escapeCall (zone : Nat) (e : CallEntry) (n : Net) : Net × Answer :=
  match n.latestBy (fun i => i.lastCall.getD 0)
      (n.incidentsWhere (Incident.candidate n.params zone e.gridX e.gridY e.time)) with
  | some i => n.attachAndAnswer .attached i e
  | none => n.newForCall (if e.kind = .damage then .damage else .escape) e.kind.cls zone [] e

/-- R88 case 2: GOOD points of a zone in LOW or LOWLOW, ascending. -/
def Net.lowPoints (n : Net) (z : Zone) : List Nat :=
  z.points.filter (fun i => (n.points[i]?).any (fun p => p.quality = .good ∧ (p.band = .low ∨ p.band = .lowlow)))

/-- R88. -/
def Net.unlinkedSupplyCall (zone : Nat) (z : Zone) (e : CallEntry) (n : Net) : Net × Answer :=
  match n.openPressure .pressureLow zone with
  | some i => n.attachAndAnswer .attached i e
  | none =>
    match n.lowPoints z with
    | p :: _ => n.newForCall .pressureLow 2 zone [p] e
    | [] => n.newForCall .supplyLoss 3 zone [] e

/-- R87: the outage of a zone names no incident: a new one, linked with the outage both ways (R102, R144). -/
def Net.repairOutageLink (zone : Nat) (outage : Ref) (e : CallEntry) (n : Net) : Net × Answer :=
  match n.makeIncident .supplyLoss 1 zone e.gridX e.gridY with
  | some (n1, i) =>
    let n2 := n1.attachCall i e e.kind.cls
    let n3 := (n2.linkOutage i outage).updateOutage outage.slot (fun o => { o with incident := some (slotRef n2.incidents i) })
    (n3, n3.callAnswer .new i e.time)
  | none => (n, .plain .noRoom)

/-- R87: a supply-group call for a zone with an outage link (log 28 for an incident no longer found). -/
def Net.outageCall (zone : Nat) (outage : Ref) (e : CallEntry) (n : Net) : Net × Answer :=
  match (findRecord n.outages outage).bind (·.incident) with
  | some r =>
    if (findRecord n.incidents r).isSome then n.attachAndAnswer .attachedOutage r.slot e else n.repairOutageLink zone outage e
  | none => n.repairOutageLink zone outage e

/-- R84: the order checked, kind and grid before the zone (log 38), stamped and routed by its group. -/
def Net.takeCall (b : CallBody) (n : Net) : Net × Answer :=
  match CallKind.ofCode b.kind.toNat with
  | none => (n, .plain .badForm)
  | some k =>
    if Config.gridMax < b.gridX.toNat ∨ Config.gridMax < b.gridY.toNat then (n, .plain .badForm)
    else
      match n.zones[b.zone.toNat]? with
      | none => (n, .plain .noSuch)
      | some z =>
        let e : CallEntry := { ref := b.ref, kind := k, gridX := b.gridX.toNat, gridY := b.gridY.toNat, time := n.now }
        if k.escapeGroup then n.escapeCall b.zone.toNat e
        else
          match z.outage with
          | some r => n.outageCall b.zone.toNat r e
          | none => n.unlinkedSupplyCall b.zone.toNat z e

/-! ## INCIDENT-ACT (R94 to R99) -/

def bodyRef (b : RefBody) : Ref := refOf b.slot.toNat b.serial

/-- The answer of an action, from the record after it. -/
def Net.actAnswer (n : Net) (c : AnswerCode) (i : Nat) : Answer :=
  match slotRecord n.incidents i with
  | some x => .withBody c (actAnswerBody x)
  | none => .plain c

/-- R94: checks 2 and 3, then the rule of the action, given the record as it stands. -/
def Net.onIncident (r : Ref) (rule : Incident → Net → Net × AnswerCode) (n : Net) : Net × Answer :=
  match findRecord n.incidents r with
  | none => (n, .plain .noSuch)
  | some x =>
    if x.state = .closed then (n, n.actAnswer .badState r.slot)
    else
      let q := rule x n
      (q.1, q.1.actAnswer q.2 r.slot)

/-- R95. -/
def attendRule (i : Nat) (x : Incident) (n : Net) : Net × AnswerCode :=
  if x.state = .opened then
    (n.updateIncident i (fun x => { x with state := .attending, late := x.late || x.missed }),
      if x.missed then .doneLate else .done)
  else (n, .badState)

/-- R96. -/
def safeRule (i : Nat) (x : Incident) (n : Net) : Net × AnswerCode :=
  if x.state = .attending then (n.updateIncident i (fun x => { x with state := .safe }), .done) else (n, .badState)

/-- R97: a plan link that names a finished plan, or a slot that no longer holds the linked serial. -/
def Net.planLinkDone (n : Net) (r : Ref) : Bool :=
  match findRecord n.plans r with
  | some p => p.state = .complete ∨ p.state = .abandoned
  | none => true

/-- R97: the outage link absent, RESTORED, or no longer held. -/
def Net.outageLinkDone (n : Net) (r : Option Ref) : Bool :=
  match r.bind (findRecord n.outages) with
  | some o => o.state = .restored
  | none => true

/-- R97: whether an incident in SAFE may close. -/
def Net.mayClose (n : Net) (x : Incident) : Bool :=
  x.plans.all n.planLinkDone && n.outageLinkDone x.outage && decide (x.reservations = 0)

/-- R97. -/
def closeRule (i : Nat) (x : Incident) (n : Net) : Net × AnswerCode :=
  if x.state = .safe ∧ n.mayClose x = true then
    (n.updateIncident i (fun x => { x with state := .closed, armed := false }), .done)
  else (n, .badState)

/-- R98: the new fields of a reclassified record. -/
def Incident.reclass (p : IncidentParams) (cls : Nat) (x : Incident) : Incident :=
  Incident.setDeadline (x.opened + p.deadline cls) { x with cls := cls, escalated := if cls = 1 then x.escalated else false }

/-- R98. -/
def reclassRule (i cls : Nat) (x : Incident) (n : Net) : Net × AnswerCode :=
  let n1 := (n.setIncident i (Incident.reclass n.params cls)).mark .ordinary (.incident i)
  let n2 := if x.cls ≠ 1 ∧ cls = 1 then n1.mark .urgent (.incident i) else n1
  (n2.expireIfDue i, .done)

/-- R99. -/
def ackRule (i : Nat) (_x : Incident) (n : Net) : Net × AnswerCode :=
  (n.updateIncident i (fun x => { x with overdue := false }), .done)

/-- R94: check 1, then the action. -/
def Net.takeAct (b : ActBody) (n : Net) : Net × Answer :=
  let r := refOf b.slot.toNat b.serial
  match b.action.toNat with
  | 1 => n.onIncident r (attendRule r.slot)
  | 2 => n.onIncident r (safeRule r.slot)
  | 3 => n.onIncident r (closeRule r.slot)
  | 4 =>
    if 1 ≤ b.cls.toNat ∧ b.cls.toNat ≤ 3 then n.onIncident r (reclassRule r.slot b.cls.toNat) else (n, .plain .badForm)
  | 5 => n.onIncident r (ackRule r.slot)
  | _ => (n, .plain .badForm)

end Sys2Proof.Machine
end

