-- ==== Sys2Proof/Machine/Lines.lean ====
section
/-! DEFINITION. The command list of a line (spec/02, R29 to R32) and the command outcomes it hands to the plan engine. -/

namespace Sys2Proof.Machine

/-- R115: outcomes of a STEP. -/
inductive StepOutcome where
  | taken | notTaken | refused | stationLost | lineUnavailable | notListed
deriving DecidableEq, Repr

/-- R126: outcomes of a STOP. -/
inductive StopOutcome where
  | taken | refused | stationLost | lineUnavailable
deriving DecidableEq, Repr

/-- What a line hands the plan engine for a command it settles (R25 to R32, R36). -/
inductive CommandOutcome where
  | step (tag : Byte) (o : StepOutcome)
  | stop (o : StopOutcome)
deriving DecidableEq, Repr

/-- The command listed for a station. -/
def listedCommand (cs : List Listed) (st : Nat) : Option LineCommand := (cs.find? (fun c => c.station = st)).map (·.command)

def unlist (cs : List Listed) (st : Nat) : List Listed := cs.filter (fun c => c.station ≠ st)

/-- R29: a STEP goes to the tail, in place of an earlier STEP of its station; behind a listed STOP it is not listed. -/
def placeStep (cs : List Listed) (st : Nat) (tag : Byte) (target : Nat) : List Listed :=
  if listedCommand cs st = some .stop then cs else unlist cs st ++ [{ station := st, command := .step tag target }]

/-- R30: a STOP takes the place of a listed STEP, leaves a listed STOP, or goes to the tail. -/
def placeStop (cs : List Listed) (st : Nat) : List Listed :=
  if (listedCommand cs st).isSome then cs.map (fun c => if c.station = st then { c with command := .stop } else c)
  else cs ++ [{ station := st, command := .stop }]

/-- R26, R31: the STEP of a station is removed if it still carries the tag. -/
def withdrawStep (cs : List Listed) (st : Nat) (tag : Byte) : List Listed :=
  cs.filter (fun c =>
    match c.command with
    | .step t _ => !(decide (c.station = st) && decide (t = tag))
    | .stop => true)

/-- R32, R36: why a command entered for a station of the line is removed at entry. -/
inductive EntryRemoval where
  | stationLost | lineUnavailable
deriving DecidableEq, Repr

def Net.entryRemoval (n : Net) (l : Fin 4) (st : Nat) : Option EntryRemoval :=
  if (n.line l).role = .listen then some .lineUnavailable
  else if (n.statusOf st).unreachable then some .stationLost
  else none

def EntryRemoval.stepOutcome : EntryRemoval → StepOutcome
  | .stationLost => .stationLost
  | .lineUnavailable => .lineUnavailable

def EntryRemoval.stopOutcome : EntryRemoval → StopOutcome
  | .stationLost => .stationLost
  | .lineUnavailable => .lineUnavailable

/-- R29: the line after a STEP is entered: the tag is spent in every case. -/
def Line.enterStep (st target : Nat) (l : Line) : Line :=
  { l with tagCounter := l.tagCounter + 1, commands := placeStep l.commands st l.tagCounter target }

def Line.unlist (st : Nat) (l : Line) : Line := { l with commands := Machine.unlist l.commands st }

/-- R29, R32, R36: a STEP entered on a line: the net after it and the outcome, if entry itself gives one. The tag is the counter before. -/
def Net.enterStep (l : Fin 4) (st target : Nat) (n : Net) : Net × Option StepOutcome :=
  if listedCommand (n.line l).commands st = some .stop then (n.setLine l (Line.enterStep st target), some .notListed)
  else
    match n.entryRemoval l st with
    | some r => ((n.setLine l (Line.enterStep st target)).setLine l (Line.unlist st), some r.stepOutcome)
    | none => (n.setLine l (Line.enterStep st target), none)

/-- R30, R32, R36: a STOP entered on a line. -/
def Net.enterStop (l : Fin 4) (st : Nat) (n : Net) : Net × Option StopOutcome :=
  match n.entryRemoval l st with
  | some r => (n.setLine l (Line.unlist st), some r.stopOutcome)
  | none => (n.setLine l (fun x => { x with commands := placeStop x.commands st }), none)

/-- R31. -/
def Net.withdrawStep (l : Fin 4) (st : Nat) (tag : Byte) (n : Net) : Net :=
  n.setLine l (fun x => { x with commands := Machine.withdrawStep x.commands st tag })

/-- R32: the outcome handed over for a removed command. -/
def removedOutcome (c : LineCommand) (r : EntryRemoval) : CommandOutcome :=
  match c with
  | .step tag _ => .step tag r.stepOutcome
  | .stop => .stop r.stopOutcome

/-- R32: a station made LOST or SITE-OUT loses its command and its continuation; the outcome to hand on, if a command was listed. -/
def Net.removeStation (l : Fin 4) (st : Nat) (n : Net) : Net × Option CommandOutcome :=
  (n.setLine l (fun x =>
      { x with commands := Machine.unlist x.commands st, continuation := if x.continuation = some st then none else x.continuation }),
    (listedCommand (n.line l).commands st).map (fun c => removedOutcome c .stationLost))

end Sys2Proof.Machine
end

