-- ==== Sys2Proof/Machine/Plans.lean ====
section
/-! DEFINITION. The plan engine (spec/06): intake, steps and their outcomes, blocks, PROCEED, ABANDON, VALVE-NOTE, the judgement of valve
readings, and warm start. -/

namespace Sys2Proof.Machine

/-! ## Reading plans and valves -/

def Plan.runningEntry (p : Plan) : Option PlanEntry := p.running.bind (fun e => p.entries[e]?)

/-- A step of an entry. -/
def Plan.stepAt (p : Plan) (e k : Nat) : Option PlanStep := (p.entries[e]?).bind (fun x => x.steps[k]?)

/-- The plan that claims a valve, with its slot. -/
def Net.claimPlan (n : Net) (v : Nat) : Option (Nat × Plan) :=
  ((n.valves[v]?).bind (·.claim)).bind (fun r => (findRecord n.plans r).map (fun p => (r.slot, p)))

/-- Whether a valve belongs to the running entry of a plan. -/
def Plan.runs (p : Plan) (v : Nat) : Bool := p.runningEntry.any (fun e => e.valve = v)

/-- The line and station of a REMOTE valve. -/
def Net.valveLine (n : Net) (v : Nat) : Option (Fin 4 × Nat) :=
  ((n.valves[v]?).bind (·.station)).bind (fun st => (n.stations[st]?).map (fun s => (s.line, st)))

/-- The valve of a station. -/
def Net.stationValve (n : Net) (st : Nat) : Option Nat := (n.stations[st]?).bind (·.valve)

/-- R109: the valves a plan has claimed, ascending. -/
def Net.claimedBy (n : Net) (r : Ref) : List Nat := idsWhere n.valves (fun v => v.claim = some r)

/-- A valve's update that is marked whatever it changes (R113, R118, R124). -/
def Net.updateValveMarked (v : Nat) (f : Valve → Valve) (n : Net) : Net := (n.setValve v f).mark .ordinary (.valve v)

def Plan.setEntry (e : Nat) (f : PlanEntry → PlanEntry) (p : Plan) : Plan := { p with entries := p.entries.modify e f }

/-! ## Blocks (R121) -/

/-- A step in flight staged again, not awaiting PROCEED. -/
def restaged (p : Plan) (f : StepInFlight) : Staged where
  entry := f.entry
  step := f.step
  target := f.target
  dwell := ((p.stepAt f.entry f.step).map (·.dwell)).getD 0
  awaiting := false

/-- R121, second part: the running entry's valve loses its step in flight, which is staged again; a SENT step's listed STEP is withdrawn. -/
def Net.restage (p : Plan) (v : Nat) (n : Net) : Net :=
  match (n.valves[v]?).bind (·.inFlight) with
  | none => n
  | some f =>
    let n1 := n.updateValve v (fun x => { x with inFlight := none, staged := some (restaged p f) })
    if f.accepted.isNone then
      match n.valveLine v with
      | some (l, st) => n1.withdrawStep l st f.tag
      | none => n1
    else n1

/-- R121: the running entry of an ACTIVE or HOLDING plan blocked; `moved` names the valve of an UNPLANNED-MOVE. -/
def Net.blockPlan (slot : Nat) (reason : BlockReason) (moved : Option Nat) (n : Net) : Net :=
  match slotRecord n.plans slot with
  | none => n
  | some p =>
    if p.state = .active ∨ p.state = .holding then
      match p.running, p.runningEntry with
      | some e, some ent =>
        ((n.setPlan slot (fun p =>
          { p.setEntry e (fun x => { x with state := .blocked }) with
            state := .blocked, block := some { reason := reason, valve := moved.getD ent.valve } })).mark .urgent (.plan slot)).restage
          p ent.valve
      | _, _ => n
    else n

/-- The plan that claims a valve blocked. -/
def Net.blockClaim (v : Nat) (reason : BlockReason) (moved : Option Nat) (n : Net) : Net :=
  match n.claimPlan v with
  | some (slot, _) => n.blockPlan slot reason moved
  | none => n

/-! ## Outcomes and the entry of steps (R113 to R115) -/

/-- R115. -/
def Net.stepOutcome (st : Nat) (tag : Byte) (o : StepOutcome) (n : Net) : Net :=
  match n.stationValve st with
  | none => n
  | some v =>
    match (n.valves[v]?).bind (·.inFlight) with
    | none => n
    | some f =>
      if f.tag = tag ∧ f.unverified = false then
        match o with
        | .taken => n.updateValveMarked v (fun x => { x with inFlight := some { f with accepted := some n.now } })
        | .notTaken => n
        | .refused => n.blockClaim v .stepRefused none
        | .stationLost => n.blockClaim v .stationLost none
        | .lineUnavailable => n.blockClaim v .lineUnavailable none
        | .notListed =>
          match n.claimPlan v with
          | some (_, p) => n.updateValve v (fun x => { x with inFlight := none, staged := some (restaged p f) })
          | none => n
      else n

/-- R114: the first condition that fails. -/
def Net.stepCondition (n : Net) (v : Nat) : Option BlockReason :=
  match n.valveLine v with
  | none => none
  | some (l, st) =>
    if (n.line l).role = .listen then some .lineUnavailable
    else if (n.statusOf st).unreachable then some .stationLost
    else if (n.valves[v]?).any (fun x => x.selector = some .atSite) then some .atSite
    else none

/-- R114: the staged step of a REMOTE valve entered, or its entry blocked, or left staged behind a pending STOP. -/
def Net.enterStaged (slot v : Nat) (n : Net) : Net :=
  match n.valves[v]?, n.valveLine v with
  | some x, some (l, st) =>
    match x.staged with
    | none => n
    | some s =>
      match n.stepCondition v with
      | some reason => n.blockPlan slot reason none
      | none =>
        if x.stopPending then n
        else
          let tag := (n.line l).tagCounter
          let q := n.enterStep l st s.target
          let n1 := q.1.updateValve v (fun x =>
            { x with
              staged := none
              inFlight := some
                { entry := s.entry, step := s.step, tag := tag, target := s.target, accepted := none, unverified := false } })
          match q.2 with
          | some o => n1.stepOutcome st tag o
          | none => n1
  | _, _ => n

/-- R113: the current step of entry `e` staged, then held for PROCEED or entered. -/
def Net.stageStep (slot e : Nat) (n : Net) : Net :=
  match slotRecord n.plans slot with
  | none => n
  | some p =>
    match p.entries[e]? with
    | none => n
    | some ent =>
      match ent.steps[ent.current]?, n.valves[ent.valve]? with
      | some st, some x =>
        let awaiting := st.hold || decide (x.kind = .manual)
        let n1 := n.updateValveMarked ent.valve (fun x =>
          { x with
            movedUnplanned := false
            staged := some { entry := e, step := ent.current, target := st.target, dwell := st.dwell, awaiting := awaiting } })
        if awaiting then
          let n2 := n1.updatePlan slot (fun p => { p.setEntry e (fun y => { y with state := .hold }) with state := .holding })
          match n2.stepCondition ent.valve with
          | some reason => n2.blockPlan slot reason none
          | none => n2
        else n1.enterStaged slot ent.valve
      | _, _ => n

/-- R113: an entry starts. -/
def Net.startEntry (slot e : Nat) (n : Net) : Net :=
  (n.updatePlan slot (fun p =>
    { p.setEntry e (fun y => { y with state := .running }) with state := .active, running := some e })).stageStep slot e

/-! ## Completion and release of claims (R109, R118) -/

/-- R109: the claims of a plan released: each valve marked, one claim change handed on. -/
def Net.releaseClaims (r : Ref) (n : Net) : Net :=
  (overEach (fun v n => n.updateValve v (fun x => { x with claim := none })) (n.claimedBy r) n).claimsChanged

/-- R118, R126: a plan's last state, marked as a closing record. -/
def Net.endPlan (slot : Nat) (final : PlanState) (n : Net) : Net :=
  ((n.setPlan slot (fun p => { p with state := final, running := none, endedTime := some n.now })).mark .ordinary (.plan slot)).releaseClaims
    (slotRef n.plans slot)

/-- R118: the step of the running entry's valve is done. -/
def Net.stepDone (slot v : Nat) (n : Net) : Net :=
  match slotRecord n.plans slot with
  | none => n
  | some p =>
    match p.running, p.runningEntry with
    | some e, some ent =>
      let n1 := n.updateValveMarked v (fun x => { x with dwellEnd := none })
      if ent.current + 1 < ent.steps.length then
        (n1.updatePlan slot (fun p => p.setEntry e (fun y => { y with current := y.current + 1 }))).stageStep slot e
      else
        let n2 := n1.updatePlan slot (fun p => p.setEntry e (fun y => { y with state := .done }))
        if e + 1 < p.entries.length then n2.startEntry slot (e + 1) else n2.endPlan slot .complete
    | _, _ => n

/-- R118: the dwell of a valve whose entry is RUNNING has ended by the run clock, in a mode that takes dwells. -/
def Net.dwellDue (n : Net) (v : Nat) : Bool :=
  n.mode.timersRun && (n.valves[v]?).any (fun x => x.dwellEnd.any (fun t => decide (t ≤ n.now))) &&
    (n.claimPlan v).any (fun q => q.2.runs v && q.2.runningEntry.any (fun e => e.state = .running))

/-- R118: the dwell end of a valve taken, when due. -/
def Net.takeDwellEnd (v : Nat) (n : Net) : Net :=
  if n.dwellDue v then
    match n.claimPlan v with
    | some (slot, _) => n.stepDone slot v
    | none => n
  else n

/-- R116, R120: a dwell begun; one of 0 ends at once. -/
def Net.startDwell (v dwell : Nat) (n : Net) : Net :=
  (n.updateValveMarked v (fun x => { x with dwellEnd := some (n.now + 1000 * dwell) })).takeDwellEnd v

/-! ## STOPs (R126) -/

/-- R126: an ABANDONING plan none of whose valves has a STOP pending is finished. -/
def Net.finishAbandon (slot : Nat) (n : Net) : Net :=
  match slotRecord n.plans slot with
  | some p =>
    if p.state = .abandoning ∧ (n.claimedBy (slotRef n.plans slot)).all (fun v => (n.valves[v]?).all (fun x => !x.stopPending)) then
      n.endPlan slot .abandoned
    else n
  | none => n

/-- R126: what follows the settling of a valve's STOP. -/
def Net.afterStop (v : Nat) (n : Net) : Net :=
  match n.claimPlan v with
  | none => n
  | some (slot, p) =>
    if p.state = .active ∧ p.runs v ∧ p.runningEntry.any (fun e => e.state = .running) ∧
        (n.valves[v]?).any (fun x => x.staged.any (fun s => !s.awaiting)) then
      n.enterStaged slot v
    else n.finishAbandon slot

/-- R126. -/
def Net.stopOutcome (st : Nat) (o : StopOutcome) (n : Net) : Net :=
  match n.stationValve st with
  | none => n
  | some v =>
    if (n.valves[v]?).any (·.stopPending) then
      (n.setValve v (fun x =>
        { x with stopPending := false, settleNext := x.settleNext || decide (o = .taken ∨ o = .refused) })).afterStop v
    else n

/-- A command outcome reaches the plan engine (R115, R126). -/
def Net.commandOutcome (st : Nat) (o : CommandOutcome) (n : Net) : Net :=
  match o with
  | .step tag o => n.stepOutcome st tag o
  | .stop o => n.stopOutcome st o

/-- R117, R125: a STOP entered for a valve's station; stop pending stands already. -/
def Net.sendStop (v : Nat) (n : Net) : Net :=
  match n.valveLine v with
  | none => n
  | some (l, st) =>
    let q := n.enterStop l st
    match q.2 with
    | some o => q.1.stopOutcome st o
    | none => q.1

/-- R117: the travel limit of a TRAVELLING valve is reached, in a mode that takes it. -/
def Net.travelDue (n : Net) (v : Nat) : Bool :=
  n.mode.timersRun &&
    (n.valves[v]?).any (fun x => (x.inFlight.bind (·.accepted)).any (fun t => decide (t + 1000 * x.travelLimit ≤ n.now)))

/-- R117. -/
def Net.takeTravelLimit (v : Nat) (n : Net) : Net :=
  if n.travelDue v then ((n.blockClaim v .travelFault none).setValve v (fun x => { x with stopPending := true })).sendStop v else n

/-! ## Station and line notices (R122) -/

/-- R122: a station notice for the valve of a station. -/
def Net.stationNotice (st : Nat) (status : Status) (n : Net) : Net :=
  if status.unreachable then
    match n.stationValve st with
    | none => n
    | some v =>
      match n.claimPlan v with
      | some (slot, p) => if p.runs v then n.blockPlan slot .stationLost none else n
      | none => n
  else n

/-- R122: the running entries of a line that took ROLE LISTEN. -/
def Net.blockLine (l : Fin 4) (n : Net) : Net :=
  overEach (fun slot n =>
    match (slotRecord n.plans slot).bind (·.runningEntry) with
    | some e => if (n.valveLine e.valve).any (fun q => q.1 = l) then n.blockPlan slot .lineUnavailable none else n
    | none => n) (List.range n.plans.length) n

/-! ## Valve readings (R10, R11, R14, R116, R124, R128) -/

/-- A valve part whose codes all have a meaning (R10). -/
structure ValveReading where
  position : Nat
  motion : Motion
  closedMade : Bool
  openMade : Bool
  selector : Selector
deriving DecidableEq, Repr

/-- R11: the fields copied and the position state derived. -/
def Valve.applyReading (now : Time) (r : ValveReading) (v : Valve) : Valve :=
  { v with
    position := some r.position
    motion := some r.motion
    closedLimit := some r.closedMade
    openLimit := some r.openMade
    selector := some r.selector
    positionTime := some now
    noted := false
    posState := posStateOfReading r.motion r.closedMade r.openMade r.position }

/-- R116 step 1: the selector turned to LOCAL on a valve of a RUNNING or HOLD running entry. -/
def selectorBlocks (p : Plan) (v : Nat) (x : Valve) : Bool :=
  decide (x.selector = some .atSite) && p.runs v && p.runningEntry.any (fun e => e.state = .running ∨ e.state = .hold)

/-- R116 step 2: the reading's motion is STILL and the target is reached. -/
def arrives (f : StepInFlight) (x : Valve) : Bool :=
  decide (x.motion = some .still) && x.position.any (fun p => targetReached f.target p x.posState)

/-- R116: an arrival. -/
def Net.arrive (v : Nat) (p : Plan) (f : StepInFlight) (n : Net) : Net :=
  (n.updateValveMarked v (fun x => { x with inFlight := none })).startDwell v (((p.stepAt f.entry f.step).map (·.dwell)).getD 0)

/-- R128: the first reading of an unverified valve, its selector judged already. -/
def Net.judgeUnverified (slot v : Nat) (p : Plan) (f : StepInFlight) (x : Valve) (n : Net) : Net :=
  if x.selector = some .atSite then n
  else if arrives f x then n.arrive v p f
  else (n.updateValve v (fun x => { x with inFlight := none, staged := some (restaged p f) })).enterStaged slot v

/-- R116: the judgement of a valve claimed by an ACTIVE, HOLDING or BLOCKED plan; `moved` is R124's finding. -/
def Net.judgeClaimed (slot v : Nat) (p : Plan) (x : Valve) (moved : Bool) (n : Net) : Net :=
  if selectorBlocks p v x then n.blockPlan slot .atSite none
  else
    match x.inFlight with
    | some f =>
      if f.unverified then n.judgeUnverified slot v p f x
      else if f.accepted.isSome && arrives f x then n.arrive v p f
      else n
    | none => if moved then n.blockPlan slot .unplannedMove (some v) else n

/-- R116: the reading judged, from the valve's fields before it and after it. An unclaimed valve that has moved is marked, MOVED-UNPLANNED
set before or not (R124; R15 has a reading of motion alone mark nothing, log 35). -/
def Net.judgeReading (v : Nat) (before : Valve) (n : Net) : Net :=
  match n.valves[v]? with
  | none => n
  | some x =>
    let moved := hasMoved before x && !x.settleNext
    let n1 := n.setValve v (fun x => { x with settleNext := false })
    match x.claim with
    | none => if moved then n1.updateValveMarked v (fun x => { x with movedUnplanned := true }) else n1
    | some _ =>
      match n.claimPlan v with
      | some (slot, p) => if p.state.live then n1.judgeClaimed slot v p x moved else n1
      | none => n1

/-- R11, R14, R116: a reading applied to a valve. -/
def Net.takeReading (v : Nat) (r : ValveReading) (n : Net) : Net :=
  match n.valves[v]? with
  | none => n
  | some x => ((n.updateValve v (Valve.applyReading n.now r)).handPassing v x.posState).judgeReading v x

/-! ## Positions set without a reading (R12) -/

def Valve.setPosition (now : Time) (position : Nat) (v : Valve) : Valve :=
  { v with position := some position, positionTime := some now, posState := posStateOfPosition position }

/-- R12: what a VALVE-NOTE adds for a REMOTE valve. -/
def Valve.note (now : Time) (position : Nat) (v : Valve) : Valve :=
  match v.kind with
  | .manual => v.setPosition now position
  | .remote => { v.setPosition now position with noted := true, motion := none, closedLimit := none, openLimit := none }

/-! ## PLAN intake (R110, R111) -/

/-- The entries as ordered, with the steps their counts read. -/
def entryOf (b : EntryBody) : PlanEntry where
  valve := b.valve.toNat
  steps := (b.steps.toList.take b.stepCount.toNat).map
    (fun (s : StepBody) => { target := s.target.toNat, dwell := s.dwell.toNat, hold := decide ((s.hold : Byte) ≠ 0) })
  state := .waiting
  current := 0

/-- R110 check 1, for one entry. -/
def entryFormOk (b : EntryBody) : Bool :=
  decide (1 ≤ b.stepCount.toNat ∧ b.stepCount.toNat ≤ Config.stepMax) &&
    (entryOf b).steps.all (fun s => decide (s.target ≤ Config.positionMax ∧ s.dwell ≤ 3600))

/-- R110 check 4, for one entry. -/
def Net.lineMaster (n : Net) (v : Nat) : Bool := (n.valveLine v).all (fun q => (n.line q.1).role = .master)

/-- The entries at fault are numbered from 1 in an answer. -/
def firstFault (entries : List EntryBody) (ok : EntryBody → Bool) : Option Nat :=
  (entries.findIdx? (fun e => !ok e)).map (· + 1)

/-- R110, checks 1 to 4: the first that fails, with its entry; 0 for an entry count at fault. -/
def Net.planFault (n : Net) (b : PlanBody) : Option (AnswerCode × Nat) :=
  if b.entryCount = 0 ∨ Config.entryMax < b.entryCount.toNat then some (.badForm, 0)
  else
    match firstFault b.entries entryFormOk with
    | some e => some (.badForm, e)
    | none =>
      match firstFault b.entries (fun e => decide (e.valve.toNat < n.valves.length)) with
      | some e => some (.noSuch, e)
      | none =>
        match firstFault b.entries (fun e => (n.valves[e.valve.toNat]?).all (fun x => x.claim.isNone)) with
        | some e => some (.claimed, e)
        | none => (firstFault b.entries (fun e => n.lineMaster e.valve.toNat)).map (fun e => (.notMaster, e))

/-- R111: the plan made at intake. -/
def checkingPlan (b : PlanBody) (folio : Nat) : Plan where
  incident := refOf b.slot.toNat b.serial
  outageAccepted := b.flags.getLsbD 0
  refeedAccepted := b.flags.getLsbD 1
  state := .checking
  entries := b.entries.map entryOf
  running := none
  block := none
  expectedLosses := []
  folio := some folio
  acceptedTime := none
  endedTime := none

/-- R111: a CHECKING plan's trial offered, or its order stalled. -/
def Net.offerPlan (r : Ref) (folio : Nat) (n : Net) : Net × OrderResult :=
  match n.offerTrial (.plan r) with
  | some n1 => (n1, .pending)
  | none => (n, .stalled (.plan folio))

/-- R110 checks 5 and 6, and R111. -/
def Net.admitPlan (b : PlanBody) (folio : Nat) (n : Net) : Net × OrderResult :=
  match freeSlot n.plans with
  | none => (n, .answered (.plain .noRoom))
  | some i =>
    match n.placeFor (refOf b.slot.toNat b.serial) with
    | .unknown => (n, .answered (.plain .noSuch))
    | .closed => (n, .answered (.plain .badState))
    | .full => (n, .answered (.plain .noRoom))
    | .reserved =>
      let n1 := { n with plans := n.plans.modify i (fun sl => sl.take (checkingPlan b folio)) }.reserve (refOf b.slot.toNat b.serial)
      n1.offerPlan (slotRef n1.plans i) folio

/-- R110, R111. -/
def Net.takePlan (b : PlanBody) (folio : Nat) (n : Net) : Net × OrderResult :=
  match n.planFault b with
  | some (c, 0) => (n, .answered (.plain c))
  | some (c, e) => (n, .answered (.withBody c (out 1 e)))
  | none => n.admitPlan b folio

/-- R111: the CHECKING plan of a folio. -/
def Net.planOfFolio (n : Net) (folio : Nat) : Option Nat :=
  n.plans.findIdx? (fun sl => sl.record.any (fun p => p.state = .checking ∧ p.folio = some folio))

/-! ## Trial results (R112) -/

/-- The plan left CHECKING without acceptance: its reservation taken back, its slot FREE. -/
def Net.freePlan (r : Ref) (n : Net) : Net :=
  match findRecord n.plans r with
  | none => n
  | some p =>
    { n with plans := n.plans.modify r.slot (fun sl => { sl with state := .free, record := none }) }.unreserve p.incident

/-- R112, first case. -/
def Net.acceptPlan (r : Ref) (losses : List Nat) (n : Net) : Net :=
  match findRecord n.plans r with
  | none => n
  | some p =>
    let n1 := n.updatePlan r.slot (fun p =>
      { p with state := .active, expectedLosses := losses, folio := none, acceptedTime := some n.now })
    let n2 := overEach (fun v n => n.updateValve v (fun x => { x with claim := some r }))
      ((List.range n.valves.length).filter (fun v => p.entries.any (fun e => e.valve = v))) n1
    (n2.claimsChanged.linkPlan p.incident r).startEntry r.slot 0

/-- R112: the first entry whose valve is claimed meanwhile, numbered from 1. -/
def Net.claimedEntry (n : Net) (p : Plan) : Option Nat :=
  (p.entries.findIdx? (fun e => (n.valves[e.valve]?).any (fun x => x.claim.isSome))).map (· + 1)

/-- R112: the result of a plan's trial, with the answer to its folio, if one is recorded. -/
def Net.planResult (r : Ref) (v : Verdict) (n : Net) : Net × Option Reply :=
  match findRecord n.plans r with
  | none => (n, none)
  | some p =>
    let reply (c : AnswerCode) (entry : Nat) (zones : List Nat) : Option Reply :=
      p.folio.map (fun f => { folio := f, answer := .withBody c (trialBody r.slot entry r.serial zones) })
    match v with
    | .accepted losses =>
      match n.claimedEntry p with
      | none => (n.acceptPlan r losses, reply .accepted 0 losses)
      | some e => (n.freePlan r, reply .claimed e [])
    | .wouldIsolate zones => (n.freePlan r, reply .wouldIsolate 0 zones)
    | .wouldRefeed zones => (n.freePlan r, reply .wouldRefeed 0 zones)

/-! ## PROCEED (R119, R120, R123) -/

/-- The answer DONE of a PROCEED, from the plan after it. -/
def Net.proceedDone (slot : Nat) (n : Net) : Net × Answer :=
  (n, match slotRecord n.plans slot with
      | some p => .withBody .done (proceedAnswerBody p)
      | none => .plain .done)

/-- The running entry returned to RUNNING and the plan to ACTIVE. -/
def Net.resumeRunning (slot e : Nat) (n : Net) : Net :=
  n.updatePlan slot (fun p => { p.setEntry e (fun y => { y with state := .running }) with state := .active, block := none })

/-- R119, case 6: a hold of a REMOTE step released. -/
def Net.releaseHold (slot e v : Nat) (n : Net) : Net :=
  ((n.updateValve v (fun x => { x with staged := x.staged.map (fun s => { s with awaiting := false }) })).resumeRunning slot e).enterStaged
    slot v

/-- R120: a MANUAL step completed at the crew's position. -/
def Net.crewReport (slot e v position : Nat) (n : Net) : Net :=
  match n.valves[v]? with
  | none => n
  | some x =>
    let n1 := (n.updateValve v (Valve.setPosition n.now position)).handPassing v x.posState
    let n2 := (n1.updateValve v (fun x => { x with staged := none })).resumeRunning slot e
    n2.startDwell v ((x.staged.map (·.dwell)).getD 0)

/-- R123: whether the cause has cleared for one valve. -/
def Net.causeCleared (n : Net) (v : Nat) : Bool :=
  match n.valves[v]? with
  | none => true
  | some x =>
    match x.kind with
    | .manual => true
    | .remote =>
      decide (x.selector ≠ some .atSite) && !x.stopPending &&
        (n.valveLine v).all (fun q => n.statusOf q.2 = .online ∧ (n.line q.1).role = .master)

/-- R123: the running entry resumed from what the block kept. -/
def Net.resume (slot e v : Nat) (n : Net) : Net :=
  match (n.valves[v]?).bind (·.staged) with
  | some s =>
    if s.awaiting then
      n.updatePlan slot (fun p => { p.setEntry e (fun y => { y with state := .hold }) with state := .holding, block := none })
    else (n.resumeRunning slot e).enterStaged slot v
  | none => (n.resumeRunning slot e).takeDwellEnd v

/-- R123. -/
def Net.proceedBlocked (slot e v : Nat) (p : Plan) (n : Net) : Net × Answer :=
  if n.causeCleared v && (p.block.all (fun b => n.causeCleared b.valve)) then (n.resume slot e v).proceedDone slot
  else (n, .plain .badState)

/-- R119, cases 5 and 6. -/
def Net.proceedHolding (slot e v position : Nat) (n : Net) : Net × Answer :=
  if (n.valves[v]?).any (fun x => x.kind = .manual) then
    if position = Config.noneByte then (n, .plain .badForm) else (n.crewReport slot e v position).proceedDone slot
  else (n.releaseHold slot e v).proceedDone slot

/-- R119. -/
def Net.takeProceed (b : ProceedBody) (n : Net) : Net × Answer :=
  if Config.positionMax < b.position.toNat ∧ b.position.toNat ≠ Config.noneByte then (n, .plain .badForm)
  else
    match findRecord n.plans (refOf b.slot.toNat b.serial) with
    | none => (n, .plain .noSuch)
    | some p =>
      match p.running, p.runningEntry with
      | some e, some ent =>
        if p.state = .blocked then n.proceedBlocked b.slot.toNat e ent.valve p
        else if p.state = .holding then n.proceedHolding b.slot.toNat e ent.valve b.position.toNat
        else (n, .plain .badState)
      | _, _ => (n, .plain .badState)

/-! ## ABANDON (R125) -/

/-- R125: a valve of an abandoned plan: nothing staged, no dwell, no step in flight; a step in flight leaves a STOP pending. -/
def Valve.abandon (v : Valve) : Valve :=
  { v with staged := none, dwellEnd := none, inFlight := none, stopPending := v.stopPending || v.inFlight.isSome }

/-- R125: the plan's fields. -/
def Plan.abandon (p : Plan) : Plan :=
  { p with
    state := .abandoning
    block := none
    entries := p.entries.map (fun e => if e.state = .done then e else { e with state := .cancelled }) }

/-- R125: a live plan abandoned. -/
def Net.abandonPlan (slot : Nat) (n : Net) : Net :=
  let vs := n.claimedBy (slotRef n.plans slot)
  let stops := vs.filter (fun v => (n.valves[v]?).any (fun x => x.inFlight.isSome && !x.stopPending))
  let n1 := n.updatePlan slot Plan.abandon
  let n2 := overEach (fun v n => n.updateValve v Valve.abandon) vs n1
  (overEach Net.sendStop stops n2).finishAbandon slot

/-- R125. -/
def Net.takeAbandon (r : Ref) (n : Net) : Net × Answer :=
  match findRecord n.plans r with
  | none => (n, .plain .noSuch)
  | some p => if p.state.live then (n.abandonPlan r.slot, .plain .done) else (n, .plain .badState)

/-! ## VALVE-NOTE (R127) -/

/-- R127 check 4: a REMOTE valve whose station can still report it. -/
def Net.stationReports (n : Net) (v : Nat) : Bool := (n.valveLine v).any (fun q => !(n.statusOf q.2).unreachable)

/-- R127; that CLAIMED and NOT-PERMITTED carry no body, as BAD-FORM and NO-SUCH, is the model's choice (log 25). -/
def Net.takeNote (b : NoteBody) (n : Net) : Net × Answer :=
  if Config.positionMax < b.position.toNat then (n, .plain .badForm)
  else
    match n.valves[b.valve.toNat]? with
    | none => (n, .plain .noSuch)
    | some x =>
      if x.claim.isSome then (n, .plain .claimed)
      else if n.stationReports b.valve.toNat then (n, .plain .notPermitted)
      else
        let n1 := (n.updateValveMarked b.valve.toNat (Valve.note n.now b.position.toNat)).handPassing b.valve.toNat x.posState
        (n1, match n1.valves[b.valve.toNat]? with
             | some y => .withBody .done (noteBody y)
             | none => .plain .done)

/-! ## Halt and warm start (R112, R128) -/

/-- R112: every CHECKING plan answered HALTED and freed, in slot order. -/
def Net.haltPlan (r : Ref) (n : Net) : Net × Option Reply :=
  match findRecord n.plans r with
  | none => (n, none)
  | some p => (n.freePlan r, p.folio.map (fun f => { folio := f, answer := .plain .halted }))

/-- R128: a valve SENT or TRAVELLING made unverified (R8). -/
def Valve.unverify (v : Valve) : Valve :=
  match v.inFlight with
  | none => v
  | some f =>
    { v with
      inFlight := some { f with accepted := none, unverified := true }
      position := none
      posState := .unknown
      motion := none
      closedLimit := none
      openLimit := none
      passing := passingOf .unknown }

/-- R128: one valve at RUN-WARM: its listed STEP withdrawn, its fields cleared, marked. -/
def Net.unverify (v : Nat) (n : Net) : Net :=
  match (n.valves[v]?).bind (·.inFlight) with
  | none => n
  | some f =>
    let n1 := n.updateValveMarked v Valve.unverify
    match n.valveLine v with
    | some (l, st) => n1.withdrawStep l st f.tag
    | none => n1

/-- R8, R14, R128: the valves SENT or TRAVELLING, ascending; the passing changes of the event handed on together (log 13). -/
def Net.unverifyAll (n : Net) : Net :=
  let vs := idsWhere n.valves (fun x => x.inFlight.isSome)
  let changed := vs.filter (fun v => (n.valves[v]?).any (fun x => passingOf x.posState ≠ passingOf .unknown))
  (overEach Net.unverify vs n).passingChanged changed

/-- R128: every dwell end already reached, ascending. -/
def Net.takeDwellEnds (n : Net) : Net := overEach Net.takeDwellEnd (List.range n.valves.length) n

end Sys2Proof.Machine
end

