-- ==== Sys2Proof/Machine/Stations.lean ====
section
/-! DEFINITION. The point unit (spec/03): station outcomes, payloads, point readings, excursions, source failures, stale and reply age. -/

namespace Sys2Proof.Machine

/-- A point reading of a payload (R53, spec/11). -/
structure PointReading where
  slot : Nat
  fault : Bool
  value : Nat
deriving DecidableEq, Repr

/-- A DATA or PART payload; the valve part is the two bytes as sent, `reading` below gives them a meaning. -/
structure Payload where
  echo : Option Byte
  readings : List PointReading
  valve : Option (Byte × Byte)
deriving DecidableEq, Repr

/-- R10, spec/11: the valve part read, `none` when a code or the position has no meaning. -/
def readValvePart (b : Byte × Byte) : Option ValveReading :=
  match Motion.ofCode (b.2.toNat % 4) with
  | some m =>
    if b.1.toNat ≤ Config.positionMax then
      some
        { position := b.1.toNat
          motion := m
          closedMade := b.2.getLsbD 2
          openMade := b.2.getLsbD 3
          selector := if b.2.getLsbD 4 then .remote else .atSite }
    else none
  | none => none

/-- R25: the station outcomes of an exchange; LISTEN-LOST is R48's alone. -/
inductive StationOutcome where
  | data (p : Payload)
  | part (p : Payload)
  | busy | readRefused | commandRefused | silent
deriving DecidableEq, Repr

/-! ## Summaries (R59) -/

/-- R59: the bands of a zone's GOOD points. -/
def Net.goodBands (n : Net) (z : Zone) : List Band :=
  z.points.filterMap (fun i => (n.points[i]?).bind (fun p => if p.quality = .good then some p.band else none))

def Net.recompute (z : Nat) (n : Net) : Net :=
  match n.zones[z]? with
  | some x => n.updateZone z (fun y => { y with summary := worstBand (n.goodBands x) })
  | none => n

/-- The zones of some points, ascending. -/
def Net.zonesOf (n : Net) (points : List Nat) : List Nat :=
  (List.range n.zones.length).filter (fun z => points.any (fun i => (n.points[i]?).any (fun p => p.zone = z)))

/-! ## Excursions and source failures (R60 to R63) -/

/-- R60. -/
def Net.suppressed (n : Net) (zone : Nat) : Bool := (n.zones[zone]?).any (fun z => z.supply ≠ .supplied)

/-- R61: LOWLOW or HIGHHIGH. -/
def Band.extreme (b : Band) : Bool := b = .lowlow ∨ b = .highhigh

/-- R61, R62: an excursion of a point marked URGENT and handed to the incident unit. -/
def Net.excursion (i : Nat) (p : Point) (n : Net) : Net := (n.mark .urgent (.point i)).takeExcursion i p.zone p.band

/-- R62, R134 step 5: the same, the incident to be marked at step 6. -/
def Net.unmarkedExcursion (i : Nat) (p : Point) (n : Net) : Net :=
  let n1 := n.mark .urgent (.point i)
  ((n1.placeExcursion i p.zone p.band).map (·.1)).getD n1

/-- R61: a band change judged; a suppressed entry keeps the ORDINARY mark of its change. -/
def Net.judgeExcursion (i : Nat) (before : Band) (n : Net) : Net :=
  match n.points[i]? with
  | some p => if p.band.extreme ∧ p.band ≠ before ∧ n.suppressed p.zone = false then n.excursion i p else n
  | none => n

/-- R63: the LIVE sources that name a point. -/
def Net.sourcesAt (n : Net) (i : Nat) : List Nat := idsWhere n.sources (fun s => s.state = .live && decide (s.point = some i))

/-- R63: each fails and is marked URGENT; one change is handed to the survey engine for the reading (log 13). -/
def Net.failSources (is : List Nat) (n : Net) : Net :=
  (overEach (fun i n => (n.setSource i (fun s => { s with state := .failed })).mark .urgent (.source i)) is n).sourcesChanged is

/-- R63: a point's entry into LOWLOW. -/
def Net.judgeSources (i : Nat) (before : Band) (n : Net) : Net :=
  match n.points[i]? with
  | some p => if p.band = .lowlow ∧ before ≠ .lowlow then n.failSources (n.sourcesAt i) else n
  | none => n

/-- R62: a zone made SUPPLIED: its GOOD points in LOWLOW or HIGHHIGH, each handed to `take`, by rising identifier, which is the model's choice
(log 44). -/
def Net.judgePoints (take : Nat → Point → Net → Net) (z : Nat) (n : Net) : Net :=
  match n.zones[z]? with
  | some x =>
    overEach (fun i n =>
      match n.points[i]? with
      | some p => if p.quality = .good ∧ p.band.extreme then take i p n else n
      | none => n) x.points n
  | none => n

/-- R62: the points of a zone that an order made SUPPLIED. -/
def Net.judgeSupplied (z : Nat) (n : Net) : Net := n.judgePoints Net.excursion z

/-! ## Point readings (R53, R54) -/

/-- R54: a point's fields after a reading. -/
def Point.applyReading (now : Time) (r : PointReading) (p : Point) : Point :=
  if r.fault then { p with value := some r.value, quality := .suspect, pendingBand := none }
  else
    let q := moveBand now p.settings (candidateBand p.settings p.band r.value) p.band p.pendingBand
    { p with value := some r.value, quality := .good, freshSince := now, band := q.1, pendingBand := q.2 }

/-- R54, R61, R63: a reading applied to a point. -/
def Net.applyReading (i : Nat) (r : PointReading) (n : Net) : Net :=
  match n.points[i]? with
  | some p => ((n.updatePoint i (Point.applyReading n.now r)).judgeExcursion i p.band).judgeSources i p.band
  | none => n

/-- R53: the point of a station that a slot names. -/
def Net.pointAt (n : Net) (st slot : Nat) : Option Nat :=
  ((n.stations[st]?).map (·.points)).bind (fun ps => ps.find? (fun i => (n.points[i]?).any (fun p => p.slot = slot)))

/-- R53: one reading of a payload; a slot without a point is discarded. -/
def Net.takePointReading (st : Nat) (r : PointReading) (n : Net) : Net :=
  match n.pointAt st r.slot with
  | some i => n.applyReading i r
  | none => n

/-- R9: the valve part of a payload, for a VALVE or COMBINED station that has a valve. -/
def Net.deliverValvePart (st : Nat) (p : Payload) (n : Net) : Net :=
  match n.stations[st]?, p.valve with
  | some x, some b =>
    match x.kind, x.valve, readValvePart b with
    | .valve, some v, some r | .combined, some v, some r => n.takeReading v r
    | _, _, _ => n
  | _, _ => n

/-- R53. -/
def Net.applyPayload (st : Nat) (p : Payload) (n : Net) : Net :=
  let n1 := overEach (Net.takePointReading st) p.readings n
  let n2 := overEach Net.recompute (n1.zonesOf (((n1.stations[st]?).map (·.points)).getD [])) n1
  n2.deliverValvePart st p

/-! ## Status changes (R51) -/

/-- R51: a point of a station that becomes LOST or SITE-OUT. -/
def Point.lose (p : Point) : Point := { p with quality := .lost, pendingBand := none }

/-- R51: a point of a station that leaves LOST or SITE-OUT. -/
def Point.regain (now : Time) (p : Point) : Point :=
  if p.quality = .lost then { p with quality := .unknown, freshSince := now } else p

/-- R51, first part, with R32: the line is told. -/
def Net.tellLine (l : Fin 4) (st : Nat) (old new : Status) (n : Net) : Net :=
  if new.unreachable && !old.unreachable then
    let q := n.removeStation l st
    match q.2 with
    | some o => q.1.commandOutcome st o
    | none => q.1
  else n

/-- R51, the parts for the points and the summaries; the points are marked in the order of the station's point list, ascending by slot (R42),
which is the model's choice (log 14). -/
def Net.changePoints (points : List Nat) (old new : Status) (n : Net) : Net :=
  if new.unreachable = old.unreachable then n
  else
    let f := if new.unreachable then Point.lose else Point.regain n.now
    let n1 := overEach (fun i n => n.updatePoint i f) points n
    overEach Net.recompute (n1.zonesOf points) n1

/-- R51: the consequences of a status change, in order. -/
def Net.statusChanged (l : Fin 4) (points : List Nat) (st : Nat) (old new : Status) (n : Net) : Net :=
  ((((n.tellLine l st old new).stationNotice st new).changePoints points old new)).mark .ordinary (.station st)

/-- A station's fields changed by R43 to R50, with the consequences of a change of status. -/
def Net.updateStation (st : Nat) (f : Station → Station) (n : Net) : Net :=
  match n.stations[st]? with
  | none => n
  | some x =>
    let n1 := n.setStation st f
    if (f x).status = x.status then n1 else n1.statusChanged x.line x.points st x.status (f x).status

/-! ## Station outcomes (R43 to R48) -/

/-- R43. -/
def Station.heardData (now : Time) (x : Station) : Station :=
  { x with status := .online, silent := 0, busy := 0, backoff := 0, lastReply := some now, replyRef := now }

/-- A station made LOST: both counts and the backoff remaining cleared (R44, R46, R48, R49). -/
def Station.lose (x : Station) : Station := { x with status := .lost, silent := 0, busy := 0, backoff := 0 }

/-- R44. -/
def Station.answerBusy (x : Station) : Station :=
  let y := { x with busy := min (x.busy + 1) Config.busyLimit, silent := 0 }
  match x.status with
  | .lost | .siteOut => y
  | .unknown | .online | .backoff =>
    if y.busy = Config.busyLimit then x.lose
    else if x.status = .backoff then { y with backoff := Config.backoffCycles }
    else { y with status := .backoff, resume := x.status, backoff := Config.backoffCycles }

/-- R46. -/
def Station.beSilent (x : Station) : Station :=
  let y := { x with silent := min (x.silent + 1) Config.silentLimit, busy := 0 }
  match x.status with
  | .lost | .siteOut => y
  | .unknown | .online | .backoff => if y.silent = Config.silentLimit then x.lose else y

/-- R47: READ-REFUSED. -/
def Station.refuseRead (x : Station) : Station := { x with status := .siteOut, silent := 0, busy := 0 }

/-- R47: COMMAND-REFUSED. -/
def Station.refuseCommand (x : Station) : Station := { x with silent := 0, busy := 0 }

/-- R43 to R47: a station outcome applied. -/
def Net.stationOutcome (st : Nat) (o : StationOutcome) (n : Net) : Net :=
  match o with
  | .data p | .part p => (n.updateStation st (Station.heardData n.now)).applyPayload st p
  | .busy => n.updateStation st Station.answerBusy
  | .silent => n.updateStation st Station.beSilent
  | .readRefused => n.updateStation st Station.refuseRead
  | .commandRefused => n.updateStation st Station.refuseCommand

/-! ## Backoff, reply age, RELEASE (R45, R49, R50) -/

/-- R45: one cycle close for one station. -/
def Station.countBackoff (x : Station) : Station :=
  if x.status = .backoff then
    if x.backoff ≤ 1 then { x with backoff := 0, status := x.resume } else { x with backoff := x.backoff - 1 }
  else x

/-- R45: a cycle close of a line. -/
def Net.countBackoffs (l : Fin 4) (n : Net) : Net := overEach (fun st n => n.updateStation st Station.countBackoff) (n.lineStations l) n

/-- R49: the reply age limit, in seconds. -/
def Net.replyAgeLimit (n : Net) (x : Station) : Nat :=
  if x.points = [] then Config.replyAgeNoPoints
  else (x.points.filterMap (fun i => (n.points[i]?).map (·.settings.stale))).foldl max 0

/-- R49: the four conditions of the expiry. -/
def Net.replyAgeDue (n : Net) (st : Nat) : Bool :=
  match n.stations[st]? with
  | none => false
  | some x =>
    let l := n.line x.line
    decide (x.replyRef + 1000 * n.replyAgeLimit x ≤ n.now) &&
      decide (x.status = .unknown ∨ x.status = .online ∨ x.status = .backoff) &&
      decide (l.role = .master) && decide (l.state = .idle ∨ l.state = .await ∨ l.state = .gap) &&
      decide (l.exchange.all (fun e => e.station ≠ st))

def Net.takeReplyAge (st : Nat) (n : Net) : Net := if n.replyAgeDue st then n.updateStation st Station.lose else n

/-- R50: one station at a reconfiguring release. -/
def Station.makeUnknown (x : Station) : Station :=
  { x with status := .unknown, resume := .unknown, silent := 0, busy := 0, backoff := 0 }

def Net.makeUnknown (l : Fin 4) (n : Net) : Net := overEach (fun st n => n.updateStation st Station.makeUnknown) (n.lineStations l) n

/-! ## Stale points and LIMITS (R55, R58) -/

/-- R55: the run clock has reached the end of a point's stale age; a STALE point made SUSPECT keeps the age it had (log 36). -/
def Net.staleDue (n : Net) (i : Nat) : Bool :=
  (n.points[i]?).any (fun p =>
    decide (p.freshSince + 1000 * p.settings.stale ≤ n.now) &&
      decide (p.quality = .unknown ∨ p.quality = .good ∨ p.quality = .suspect))

/-- R55, R59: a point becomes STALE when its age is reached. -/
def Net.takeStale (i : Nat) (n : Net) : Net :=
  if n.staleDue i then
    let n1 := n.updatePoint i (fun p => { p with quality := .stale, pendingBand := none })
    overEach Net.recompute (n1.zonesOf [i]) n1
  else n

/-- The settings a LIMITS body carries. -/
def limitsSettings (b : LimitsBody) : Settings where
  ll := b.ll.toNat
  l := b.l.toNat
  h := b.h.toNat
  hh := b.hh.toNat
  deadband := b.deadband.toNat
  confirm := b.confirm.toNat
  stale := b.stale.toNat

/-- R58; the point is checked before its values, which is the model's choice (log 38). -/
def Net.takeLimits (b : LimitsBody) (n : Net) : Net × Answer :=
  if n.points.length ≤ b.point.toNat then (n, .plain .noSuch)
  else if (limitsSettings b).ok then
    (((n.setPoint b.point.toNat (fun p =>
        { p with settings := limitsSettings b, pendingBand := p.pendingBand.map (fun q => { q with since := n.now }) })).mark
      .ordinary (.point b.point.toNat)).takeStale b.point.toNat, .plain .done)
  else (n, .plain .badForm)

end Sys2Proof.Machine
end

