-- ==== Sys2Proof/Machine/Frames.lean ====
section
/-! DEFINITION. Field frames (spec/11, "Field frames", R188): the check, the polls sent and the replies read. -/

namespace Sys2Proof.Machine

/-! ## The check -/

/-- x^16 + x^12 + x^5 + 1, without its highest power. -/
def crcPolynomial : BitVec 16 := 0x1021

/-- One bit of the division: the register shifted left, the polynomial taken when a one falls out. -/
def crcShift (c : BitVec 16) : BitVec 16 := if c.msb then (c <<< 1) ^^^ crcPolynomial else c <<< 1

def crcShifts : Nat → BitVec 16 → BitVec 16
  | 0, c => c
  | k + 1, c => crcShifts k (crcShift c)

/-- One byte, most significant bit first. -/
def crcByte (c : BitVec 16) (b : Byte) : BitVec 16 := crcShifts 8 (c ^^^ (b.zeroExtend 16 <<< 8))

/-- R188: initial value all ones, no final inversion. -/
def crc16 (bytes : List Byte) : BitVec 16 := bytes.foldl crcByte 0xFFFF

/-- The two bytes of the check, high byte first. -/
def crcBytes (bytes : List Byte) : List Byte := [(crc16 bytes).extractLsb' 8 8, (crc16 bytes).extractLsb' 0 8]

/-- A frame with its check. -/
def withCheck (bytes : List Byte) : List Byte := bytes ++ crcBytes bytes

/-! ## Polls -/

/-- The function byte of a poll, and what follows it. -/
def PollFunction.bytes : PollFunction → List Byte
  | .read => [1]
  | .continue_ => [2]
  | .step tag target => [3, tag, BitVec.ofNat 8 target]
  | .stop => [4]

/-- A poll frame. -/
def pollFrame (address : Byte) (f : PollFunction) : List Byte :=
  withCheck ([1, address, BitVec.ofNat 8 f.bytes.length] ++ f.bytes)

/-! ## Replies -/

/-- The four reply kinds (R23). -/
inductive ReplyKind where
  | data (p : Payload)
  | part (p : Payload)
  | busy | refuse
deriving DecidableEq, Repr

/-- A reply frame that passes every check of R188. -/
structure ReplyFrame where
  address : Byte
  kind : ReplyKind
deriving DecidableEq, Repr

/-- `k` readings of three bytes and what follows them. -/
def parseReadings : Nat → List Byte → Option (List PointReading × List Byte)
  | 0, bs => some ([], bs)
  | k + 1, a :: h :: l :: bs =>
    (parseReadings k bs).map (fun q => ({ slot := a.toNat % 8, fault := a.getLsbD 7, value := beHalf h l } :: q.1, q.2))
  | _ + 1, _ => none

/-- The valve flag and the valve part, which end the payload. -/
def parseValvePart : List Byte → Option (Option (Byte × Byte))
  | [f] => if f = 0 then some none else none
  | [f, a, b] => if f = 1 then some (some (a, b)) else none
  | _ => none

/-- A DATA or PART reply behind its kind byte. -/
def parsePayload : List Byte → Option Payload
  | echo :: tag :: count :: bs =>
    if 1 < echo.toNat ∨ 8 < count.toNat then none
    else
      match parseReadings count.toNat bs with
      | none => none
      | some (rs, rest) =>
        (parseValvePart rest).map (fun v => { echo := if echo = 1 then some tag else none, readings := rs, valve := v })
  | _ => none

/-- The bytes the length byte counts. -/
def parseKind : List Byte → Option ReplyKind
  | [] => none
  | k :: bs =>
    match k.toNat with
    | 1 => (parsePayload bs).map .data
    | 2 => (parsePayload bs).map .part
    | 3 => if bs = [] then some .busy else none
    | 4 => if bs = [] then some .refuse else none
    | _ => none

/-- R23, R188: a frame read as a reply: type 2, the check agrees, the length byte equals the bytes the kind needs. -/
def parseReply (frame : List Byte) : Option ReplyFrame :=
  match frame with
  | t :: a :: len :: rest =>
    if t = 2 ∧ rest.length = len.toNat + 2 ∧ rest.drop len.toNat = crcBytes (t :: a :: len :: rest.take len.toNat) then
      (parseKind (rest.take len.toNat)).map (fun k => { address := a, kind := k })
    else none
  | _ => none

/-! ## Replies as a station sends them -/

def PointReading.bytes (r : PointReading) : List Byte :=
  [BitVec.ofNat 8 (r.slot % 8 + if r.fault then 128 else 0), BitVec.ofNat 8 (r.value / 256), BitVec.ofNat 8 r.value]

def Payload.bytes (p : Payload) : List Byte :=
  (match p.echo with
   | some tag => [1, tag]
   | none => [0, 0]) ++ [BitVec.ofNat 8 p.readings.length] ++ (p.readings.map PointReading.bytes).flatten ++
    (match p.valve with
     | some (a, b) => [1, a, b]
     | none => [0])

def ReplyKind.bytes : ReplyKind → List Byte
  | .data p => 1 :: p.bytes
  | .part p => 2 :: p.bytes
  | .busy => [3]
  | .refuse => [4]

/-- The reply frame a station sends (spec/11). -/
def ReplyFrame.bytes (r : ReplyFrame) : List Byte :=
  withCheck ([2, r.address, BitVec.ofNat 8 r.kind.bytes.length] ++ r.kind.bytes)

/-- What spec/11 allows in a payload. -/
def Payload.ok (p : Payload) : Bool :=
  decide (p.readings.length ≤ 8) && p.readings.all (fun r => decide (r.slot < 8 ∧ r.value < 65536))

def ReplyKind.ok : ReplyKind → Bool
  | .data p | .part p => p.ok
  | .busy | .refuse => true

end Sys2Proof.Machine
end

