-- ==== Sys2Proof/Machine/FieldLines.lean ====
section
/-! DEFINITION. The line controllers (spec/02): the arbiter, the exchange and its ending, listening, and the LINE order. -/

namespace Sys2Proof.Machine

/-! ## The READ rotation and the arbiter (R20 to R22) -/

/-- R20: a station due in a cycle. -/
def Station.due (cycle : Half) (x : Station) : Bool :=
  decide (x.status ≠ .backoff) && (decide (x.pollClass = .fast) || decide (cycle.toNat % Config.slowEvery = 0))

/-- R20: the next station to read, after the round-robin position. -/
def Net.nextRead (n : Net) (l : Fin 4) : Option Nat :=
  (n.lineStations l).find? (fun st =>
    (n.line l).roundRobin.all (fun r => decide (r < st)) && (n.stations[st]?).any (Station.due (n.line l).pollCycle))

/-- R21 candidate 1: the oldest STOP whose station is not in BACKOFF. -/
def Net.nextStop (n : Net) (l : Fin 4) : Option Nat :=
  ((n.line l).commands.find? (fun c => c.command = .stop ∧ n.statusOf c.station ≠ .backoff)).map (·.station)

/-- R21 candidate 3: whether a STEP to a station may be sent. -/
def Net.stepReady (n : Net) (st : Nat) : Bool :=
  decide (n.statusOf st = .online) &&
    (n.stationValve st).all (fun v => (n.valves[v]?).all (fun x => x.selector ≠ some .atSite))

/-- R21 candidate 3: the oldest STEP that may be sent. -/
def Net.nextStep (n : Net) (l : Fin 4) : Option (Nat × PollFunction) :=
  (n.line l).commands.findSome? (fun c =>
    match c.command with
    | .step tag target => if n.stepReady c.station then some (c.station, .step tag target) else none
    | .stop => none)

/-- R21: candidates 1 to 3. -/
def Net.commandCandidate (n : Net) (l : Fin 4) : Option (Nat × PollFunction) :=
  match n.nextStop l with
  | some st => some (st, .stop)
  | none =>
    match (n.line l).continuation with
    | some st => some (st, .continue_)
    | none => n.nextStep l

/-- R22: the chosen exchange becomes the exchange in flight and its poll is sent; a READ moves the round-robin position. -/
def Net.sendPoll (l : Fin 4) (st : Nat) (f : PollFunction) (n : Net) : Net :=
  n.setLine l (fun x =>
    { x with
      state := .await
      exchange := some { station := st, function := f, frame := pollFrame (((n.stations[st]?).map (·.address)).getD 0) f }
      windowSince := none
      frameBegun := false
      roundRobin := if f = .read then some st else x.roundRobin
      readThisCycle := x.readThisCycle || decide (f = .read) })

/-- R20, R45: a cycle closes; without a READ in it an idle wait of one response window starts. -/
def Net.closeCycle (l : Fin 4) (n : Net) : Net :=
  (n.setLine l (fun x =>
    { x with
      pollCycle := x.pollCycle + 1
      roundRobin := none
      readThisCycle := false
      idleWait := if x.readThisCycle then none else some (n.now + 10 * x.params.window) })).countBackoffs l

/-- R21: one choice; a closed cycle leads to another, at most twice: the second close has sent no READ. -/
def Net.choose (l : Fin 4) : Nat → Net → Net
  | 0, n => n
  | k + 1, n =>
    match n.commandCandidate l with
    | some (st, f) => n.sendPoll l st f
    | none =>
      if (n.line l).idleWait.isSome ∨ n.lineStations l = [] then n
      else
        match n.nextRead l with
        | some st => n.sendPoll l st .read
        | none => (n.closeCycle l).choose l k

/-- R21: a MASTER line in IDLE with no exchange in flight chooses. -/
def Net.arbitrate (l : Fin 4) (n : Net) : Net :=
  if (n.line l).role = .master ∧ (n.line l).state = .idle ∧ (n.line l).exchange = none then n.choose l 3 else n

/-- The choices due at the end of an event, line by line (log 23). -/
def Net.arbitrateAll (n : Net) : Net := overEach Net.arbitrate allLines n

/-! ## Entering IDLE and HELD -/

/-- R39, R49: a line that enters IDLE from HELD or SETTLING moves the reply references and, in LISTEN role, the last-heard times. -/
def Net.enterIdle (l : Fin 4) (n : Net) : Net :=
  let n1 := n.updateLine l (fun x => { x with state := .idle })
  overEach (fun st n => n.setStation st (fun x =>
    { x with replyRef := n.now, lastHeard := if (n.line l).role = .listen then some n.now else x.lastHeard })) (n1.lineStations l) n1

/-- R34, with R40: the effect of a hold; log 10 for SETTLING. -/
def Line.hold (x : Line) : Line :=
  match x.state with
  | .idle => { x with state := .held, idleWait := none }
  | .gap => { x with state := .held }
  | .await => { x with state := .holding }
  | .holding | .held => x
  | .settling => { x with state := .held, reconfigured := true }

/-- R40: a line that has reached HELD takes the values waiting for it. -/
def Line.takeParams (x : Line) : Line :=
  match x.state, x.pendingParams with
  | .held, some p => { x with params := p, reconfigured := true, pendingParams := none }
  | _, _ => x

/-- R37: a HELD line released; the order hold flag is the caller's. -/
def Net.releaseLine (l : Fin 4) (n : Net) : Net :=
  if (n.line l).reconfigured then
    (n.updateLine l (fun x =>
      { x with state := .settling, reconfigured := false, continuation := none, roundRobin := none, since := n.now })).makeUnknown l
  else n.enterIdle l

/-! ## The ending of an exchange (R25 to R28) -/

/-- R23, R24: a valid reply, or silence. -/
inductive Ending where
  | reply (k : ReplyKind)
  | silent
deriving DecidableEq, Repr

/-- R26: the outcome of a STEP exchange. -/
def stepEnding (tag : Byte) : Ending → Option StepOutcome
  | .reply (.data p) | .reply (.part p) => some (if p.echo = some tag then .taken else .notTaken)
  | .reply .refuse => some .refused
  | .reply .busy | .silent => none

/-- R27: the outcome of a STOP exchange. -/
def stopEnding : Ending → Option StopOutcome
  | .reply (.data _) | .reply (.part _) => some .taken
  | .reply .refuse => some .refused
  | .reply .busy | .silent => none

/-- R26, R27: the command list after an exchange. -/
def settledCommands (e : LineExchange) (x : Ending) (cs : List Listed) : List Listed :=
  match e.function with
  | .step tag _ =>
    match stepEnding tag x with
    | some .taken | some .refused => withdrawStep cs e.station tag
    | _ => cs
  | .stop => if (stopEnding x).isSome ∧ listedCommand cs e.station = some .stop then unlist cs e.station else cs
  | .read | .continue_ => cs

/-- R25 step 1: the command outcome. -/
def endingOutcome (e : LineExchange) (x : Ending) : Option CommandOutcome :=
  match e.function with
  | .step tag _ => (stepEnding tag x).map (.step tag)
  | .stop => (stopEnding x).map .stop
  | .read | .continue_ => none

/-- R28: the continuation after an exchange. -/
def settledContinuation (e : LineExchange) (x : Ending) (c : Option Nat) : Option Nat :=
  match x with
  | .reply (.part _) => some e.station
  | .reply (.data _) | .reply .busy | .reply .refuse | .silent => if e.function = .continue_ then none else c

/-- R25: the station outcome. -/
def endingStation (e : LineExchange) (x : Ending) : StationOutcome :=
  match x with
  | .reply (.data p) => .data p
  | .reply (.part p) => .part p
  | .reply .busy => .busy
  | .reply .refuse =>
    match e.function with
    | .read | .continue_ => .readRefused
    | .step _ _ | .stop => .commandRefused
  | .silent => .silent

/-- R25 step 4: the exchange cleared; AWAIT goes to GAP, HOLDING to HELD. -/
def Line.endExchange (now : Time) (x : Line) : Line :=
  Line.takeParams
    { x with
      exchange := none
      windowSince := none
      frameBegun := false
      since := now
      state := match x.state with
        | .await => .gap
        | .holding => .held
        | st => st }

/-- R25 step 1, second half: the command outcome handed to the plan engine. -/
def Net.handOutcome (st : Nat) (o : Option CommandOutcome) (n : Net) : Net :=
  match o with
  | some o => n.commandOutcome st o
  | none => n

/-- R25, with the reply age judged again at the end (R49). -/
def Net.endExchange (l : Fin 4) (x : Ending) (n : Net) : Net :=
  match (n.line l).exchange with
  | none => n
  | some e =>
    let n1 := (n.setLine l (fun y => { y with commands := settledCommands e x y.commands })).handOutcome e.station (endingOutcome e x)
    let n2 := n1.setLine l (fun y => { y with continuation := settledContinuation e x y.continuation })
    let n3 := n2.stationOutcome e.station (endingStation e x)
    (n3.updateLine l (Line.endExchange n.now)).takeReplyAge e.station

/-- R23: what a frame assembled during an exchange makes of it. -/
def Net.frameEnding (n : Net) (e : LineExchange) (bytes : List Byte) : Ending :=
  match parseReply bytes with
  | some r => if (n.stations[e.station]?).any (fun x => x.address = r.address) then .reply r.kind else .silent
  | none => .silent

/-- R22 to R24: an exchange whose poll has been sent. -/
def Line.awaitsReply (x : Line) : Bool :=
  decide (x.role = .master) && decide (x.state = .await ∨ x.state = .holding) && x.exchange.isSome && x.windowSince.isSome

/-- R23: a frame assembled on a MASTER line. -/
def Net.takeFrame (l : Fin 4) (bytes : List Byte) (n : Net) : Net :=
  match (n.line l).exchange with
  | some e => if (n.line l).awaitsReply then n.endExchange l (n.frameEnding e bytes) else n
  | none => n

/-- R24: the response window has passed and no frame has begun. -/
def Line.windowOver (now : Time) (x : Line) : Bool :=
  x.awaitsReply && !x.frameBegun && x.windowSince.any (fun t => decide (t + 10 * x.params.window ≤ now))

/-- R22: the poll of the exchange in flight is still being sent. -/
def Line.sendsPoll (x : Line) : Bool :=
  decide (x.role = .master) && decide (x.state = .await ∨ x.state = .holding) && x.exchange.isSome && x.windowSince.isNone

/-! ## Timers of a line -/

/-- R25: the gap is over. -/
def Line.gapOver (now : Time) (x : Line) : Bool := decide (x.state = .gap) && decide (x.since + x.params.gap ≤ now)

/-- R20: the idle wait is over. -/
def Line.idleWaitOver (now : Time) (x : Line) : Bool := x.idleWait.any (fun t => decide (t ≤ now))

/-- R37: the settling time is over. -/
def Line.settled (now : Time) (x : Line) : Bool := decide (x.state = .settling) && decide (x.since + x.params.speed.settling ≤ now)

/-! ## Listening (R38, R39) -/

/-- R38: the station of a valid reply frame. -/
def Net.heardStation (n : Net) (l : Fin 4) (r : ReplyFrame) : Option Nat := n.stationAt l r.address

/-- R38: a frame heard on a LISTEN line in IDLE. -/
def Net.hear (l : Fin 4) (bytes : List Byte) (n : Net) : Net :=
  if (n.line l).role = .listen ∧ (n.line l).state = .idle then
    match parseReply bytes with
    | none => n
    | some r =>
      match n.heardStation l r with
      | none => n
      | some st =>
        let n1 := n.setStation st (fun x => { x with lastHeard := some n.now })
        match r.kind with
        | .data p => n1.stationOutcome st (.data p)
        | .part p => n1.stationOutcome st (.part p)
        | .busy | .refuse => n1
  else n

/-- R39: a station of a LISTEN line in IDLE is unheard and not LOST. -/
def Net.unheard (n : Net) (st : Nat) : Bool :=
  (n.stations[st]?).any (fun x =>
    decide ((n.line x.line).role = .listen ∧ (n.line x.line).state = .idle) && decide (x.status ≠ .lost) &&
      x.lastHeard.any (fun t => decide (t + 1000 * (n.line x.line).listenTimeout ≤ n.now)))

/-- R39, R48. -/
def Net.takeListenLost (st : Nat) (n : Net) : Net := if n.unheard st then n.updateStation st Station.lose else n

/-! ## The LINE order (R33 to R37) -/

/-- The answer of a LINE order: role and line state after it. -/
def Net.lineAnswer (n : Net) (c : AnswerCode) (l : Fin 4) : Answer := .withBody c (lineBody (n.line l))

/-- R34. -/
def Net.lineHold (l : Fin 4) (n : Net) : Net × AnswerCode :=
  (n.updateLine l (fun x => { x.hold with orderHold := true }), .done)

/-- R37. -/
def Net.lineRelease (l : Fin 4) (n : Net) : Net × AnswerCode :=
  if (n.line l).state = .held then ((n.updateLine l (fun x => { x with orderHold := false })).releaseLine l, .done)
  else (n, .badState)

/-- R18, R33: the values a CONFIGURE carries, when in range. -/
def configureParams (b : LineBody) : Option LineParams :=
  match Speed.ofCode b.speed.toNat with
  | some sp =>
    if 2 ≤ b.window.toNat ∧ 2 ≤ b.gap.toNat ∧ b.gap.toNat ≤ 250 then
      some { speed := sp, window := b.window.toNat, gap := b.gap.toNat }
    else none
  | none => none

/-- R35. -/
def Net.lineConfigure (l : Fin 4) (p : LineParams) (n : Net) : Net × AnswerCode :=
  if (n.line l).state = .held then (n.updateLine l (fun x => { x with params := p, reconfigured := true }), .done) else (n, .badState)

/-- R36: a MASTER line made LISTEN: its commands removed and handed over, its plans blocked (R122). -/
def Net.becomeListen (l : Fin 4) (n : Net) : Net :=
  let n1 := n.updateLine l (fun x => { x with role := .listen, reconfigured := true, continuation := none, commands := [] })
  let n2 := overEach (fun c n => n.commandOutcome c.station (removedOutcome c.command .lineUnavailable)) (n.line l).commands n1
  n2.blockLine l

/-- R36. -/
def Net.lineRole (l : Fin 4) (r : Role) (n : Net) : Net × AnswerCode :=
  if (n.line l).role = r then (n, .done)
  else
    match r with
    | .master =>
      if (n.line l).state = .held ∧ (n.line l).permit then
        (n.updateLine l (fun x => { x with role := .master, reconfigured := true }), .done)
      else (n, .notPermitted)
    | .listen => if (n.line l).state = .held then (n.becomeListen l, .done) else (n, .badState)

/-- R33: the operation an order names, when its form is good. -/
def lineOperation (b : LineBody) (l : Fin 4) : Option (Net → Net × AnswerCode) :=
  match b.op.toNat with
  | 1 => some (Net.lineHold l)
  | 2 => some (Net.lineRelease l)
  | 3 => (configureParams b).map (fun p => Net.lineConfigure l p)
  | 4 => (Role.ofCode b.role.toNat).map (fun r => Net.lineRole l r)
  | _ => none

/-- R33: form first, then the line, then the operation. -/
def Net.takeLine (b : LineBody) (n : Net) : Net × Answer :=
  if h : b.line.toNat < 4 then
    match lineOperation b ⟨b.line.toNat, h⟩ with
    | some op => ((op n).1, (op n).1.lineAnswer (op n).2 ⟨b.line.toNat, h⟩)
    | none => (n, n.lineAnswer .badForm ⟨b.line.toNat, h⟩)
  else if (lineOperation b 0).isSome then (n, .plain .noSuch)
  else (n, .plain .badForm)

end Sys2Proof.Machine
end

