-- ==== Sys2Proof/Machine/Outages.lean ====
section
/-! DEFINITION. The outage unit (spec/07): applying a survey result, RESTORE and RELIGHT. -/

namespace Sys2Proof.Machine

/-! ## Held zones -/

/-- R132: customers-off of some held zones. -/
def heldOff (h : List HeldZone) : Nat := (h.map (fun x => x.customers - x.relit)).sum

/-- R132: the held zones replaced, customers-off recomputed. -/
def Outage.setHeld (h : List HeldZone) (o : Outage) : Outage := { o with held := h, customersOff := heldOff h }

/-- The held entry of a zone. -/
def Outage.entry (o : Outage) (z : Nat) : Option HeldZone := o.held.find? (fun h => h.zone = z)

/-- R140, R143: a zone leaves; the last one leaving a RESTORING record makes it RESTORED. -/
def Outage.leave (now : Time) (z : Nat) (o : Outage) : Outage :=
  let o1 := o.setHeld (o.held.filter (fun h => h.zone ≠ z))
  if o1.held = [] ∧ o.state = .restoring then { o1 with state := .restored, restored := some now } else o1

/-- R138, R143: the relit count of a held zone set. -/
def Outage.setRelit (z relit : Nat) (o : Outage) : Outage :=
  o.setHeld (o.held.map (fun h => if h.zone = z then { h with relit := relit } else h))

/-- R136: zones join at the end of the held zones. -/
def Outage.join (hs : List HeldZone) (o : Outage) : Outage := o.setHeld (o.held ++ hs)

/-- The outage that holds a zone, as its link names it. -/
def Net.zoneOutage (n : Net) (z : Nat) : Option (Nat × Outage) :=
  ((n.zones[z]?).bind (·.outage)).bind (fun r => (findRecord n.outages r).map (fun o => (r.slot, o)))

/-- R140, R143: a held zone made SUPPLIED; its points are judged by the caller (R62). -/
def Net.supplyZone (z : Nat) (n : Net) : Net :=
  let n1 := n.setZone z (fun x => { x with supply := .supplied, outage := none })
  match n.zoneOutage z with
  | some (slot, _) => n1.setOutage slot (Outage.leave n.now z)
  | none => n1

/-- R139, R140, R141: a zone made REPRESSURISED; one of 0 customers becomes SUPPLIED at once. -/
def Net.repressurise (z : Nat) (n : Net) : Net :=
  let n1 := n.setZone z (fun x => { x with supply := .repressurised })
  if (n.zones[z]?).any (fun x => x.customers = 0) then n1.supplyZone z else n1

/-! ## Placing losses (R135 to R137) -/

/-- R135: the noted claim of the lowest-numbered valve of the change set that carries one. -/
def notedClaim (cs : List ChangedValve) : Option Ref :=
  ((List.range Config.valveMax).findSome? (fun v => (cs.find? (fun c => c.valve = v)).bind (·.claim)))

/-- R135. -/
def Net.lossCause (n : Net) : OutageCause :=
  if (notedClaim n.survey.changeValves).isSome then .planned
  else if n.survey.changeSources ≠ [] then .sourceLoss
  else .unplanned

/-- R135: the planned incident. -/
def Net.plannedIncident (n : Net) : Option Ref :=
  ((notedClaim n.survey.changeValves).bind (findRecord n.plans)).map (·.incident)

/-- R136: the planned incident's outage, found and not RESTORED. -/
def Net.plannedOutage (n : Net) : Option Nat :=
  (((n.plannedIncident).bind (findRecord n.incidents)).bind (·.outage)).bind (fun r =>
    (findRecord n.outages r).bind (fun o => if o.state = .restored then none else some r.slot))

/-- R137: of two slots, the one whose record has the higher sequence. -/
def laterOutage (slots : List (Slot Outage)) (best : Option Nat) (i : Nat) : Option Nat :=
  match best with
  | none => some i
  | some j =>
    if ((slotRecord slots j).map (·.sequence)).getD 0 < ((slotRecord slots i).map (·.sequence)).getD 0 then some i else some j

/-- R137: the record of highest sequence in a state. -/
def Net.newestOutage (n : Net) (st : OutageState) : Option Nat :=
  (idsWhere n.outages (fun sl => sl.state = .inUse && sl.record.any (fun o => o.state = st))).foldl (laterOutage n.outages) none

/-- R136, R137: where the losses of a completion go. -/
inductive LossPlace where
  | existing (slot : Nat)
  | fresh (slot : Nat)
deriving DecidableEq, Repr

def Net.lossPlace (n : Net) : Option LossPlace :=
  match n.plannedOutage with
  | some i => some (.existing i)
  | none =>
    match freeSlot n.outages with
    | some i => some (.fresh i)
    | none => ((n.newestOutage .isolated).orElse (fun _ => n.newestOutage .restoring)).map .existing

/-- R136: the losing zones as held entries, ascending. -/
def Net.heldEntries (n : Net) (zs : List Nat) : List HeldZone :=
  zs.map (fun z => { zone := z, customers := ((n.zones[z]?).map (·.customers)).getD 0, relit := 0 })

/-- R136: the losing zones join the record of a slot. -/
def Net.joinLosses (slot : Nat) (zs : List Nat) (n : Net) : Net :=
  let hs := n.heldEntries zs
  let r := slotRef n.outages slot
  overEach (fun z n => n.setZone z (fun x => { x with supply := .unfed, outage := some r })) zs (n.setOutage slot (Outage.join hs))

/-- R132, R136: a new record made in a FREE slot. -/
def Net.makeOutage (slot : Nat) (n : Net) : Net :=
  { n with
    outages := n.outages.modify slot (fun sl => sl.take
      { sequence := n.outageSeq, cause := n.lossCause, incident := none, state := .isolated, start := n.now, restored := none, held := []
        customersOff := 0 })
    outageSeq := n.outageSeq + 1 }

/-- R102, R136: a new record and an incident linked to each other. -/
def Net.linkBoth (slot : Nat) (incident : Ref) (n : Net) : Net :=
  (n.setIncident incident.slot (fun x => { x with outage := some (slotRef n.outages slot) })).setOutage slot
    (fun o => { o with incident := some incident })

/-- R136: the linking of a new record; it stands with no link when there is no incident for it. Step 6 of R134 marks both. -/
def Net.linkNew (slot zone : Nat) (n : Net) : Net :=
  match n.lossCause with
  | .planned =>
    match n.plannedIncident with
    | some r => if (findRecord n.incidents r).any (fun i => i.state ≠ .closed) then n.linkBoth slot r else n
    | none => n
  | .sourceLoss | .unplanned =>
    let z := n.zones[zone]?
    match n.openIncident .supplyLoss 1 zone ((z.map (·.gridX)).getD 0) ((z.map (·.gridY)).getD 0) with
    | some (n1, i) => n1.linkBoth slot (slotRef n1.incidents i)
    | none => n

/-- R136, R137: the losses of a completion placed. -/
def Net.placeLosses (p : LossPlace) (zs : List Nat) (n : Net) : Net :=
  match p, zs with
  | _, [] => n
  | .existing slot, zs => n.joinLosses slot zs
  | .fresh slot, z :: zs => ((n.makeOutage slot).joinLosses slot (z :: zs)).linkNew slot z

/-! ## Re-losses and gains (R138, R139) -/

/-- R138. -/
def Net.loseAgain (z : Nat) (n : Net) : Net :=
  let n1 := n.setZone z (fun x => { x with supply := .unfed })
  match n.zoneOutage z with
  | some (slot, _) => n1.setOutage slot (Outage.setRelit z 0)
  | none => n1

/-- R139; a zone whose record is not found counts as held by one not under restoration. -/
def Net.gain (z : Nat) (n : Net) : Net :=
  if (n.zoneOutage z).any (fun q => q.2.state = .restoring) then n.repressurise z
  else n.setZone z (fun x => { x with supply := .refedUncontrolled })

/-! ## Applying a result (R134) -/

/-- R134: the class of a zone, by its supply state and the result. -/
def Net.zonesOfClass (n : Net) (p : Supply → Bool) (reached : Bool) (result : List Nat) : List Nat :=
  (idsWhere n.zones (fun z => p z.supply)).filter (fun i => decide (i ∈ result) = reached)

def Supply.heldFed (s : Supply) : Bool := s = .repressurised ∨ s = .refedUncontrolled

/-- R70: the fed-state a result gives. -/
def fedOf (reached : Bool) : FedState := if reached then .fed else .unfed

/-- R134 step 1: every zone's fed-state written. -/
def Net.writeFed (result : List Nat) (n : Net) : Net :=
  overEach (fun z n => n.setZone z (fun x => { x with fed := fedOf (decide (z ∈ result)) })) (List.range n.zones.length) n

/-- R15, R134 step 6: the mark of a zone from its fields before. -/
def Net.markZone (before : Net) (z : Nat) (n : Net) : Net :=
  match before.zones[z]?, n.zones[z]? with
  | some x, some y =>
    if (y.supply = .refedUncontrolled ∧ x.supply ≠ .refedUncontrolled) ∨ (y.supply = .unfed ∧ x.supply.heldFed) then
      n.mark .urgent (.zone z)
    else n.markIf (decide (x.reported ≠ y.reported)) (.zone z)
  | _, _ => n

/-- R138: an outage record holds a zone lost again since `before`. -/
def Net.holdsRelost (n before : Net) (i : Nat) : Bool :=
  (idsWhere n.zones (fun z => z.supply = .unfed)).any (fun z =>
    (before.zones[z]?).any (fun x => x.supply.heldFed) && (n.zoneOutage z).any (fun q => q.1 = i))

/-- R134 step 6, R138, R146: the mark of an outage record from its fields before; a record in a slot that was FREE is new, URGENT when it
stands with no link, and a re-loss marks its record whatever it changes there. -/
def Net.markOutage (before : Net) (i : Nat) (n : Net) : Net :=
  match heldRecord before.outages i, heldRecord n.outages i with
  | none, some y => n.mark (if y.incident.isSome then .ordinary else .urgent) (.outage i)
  | some x, some y => n.markIf (decide (x.reported ≠ y.reported) || n.holdsRelost before i) (.outage i)
  | _, none => n

/-- R134: the zones made SUPPLIED between two nets. -/
def Net.madeSupplied (before n : Net) : List Nat :=
  (idsWhere n.zones (fun z => z.supply = .supplied)).filter (fun i => (before.zones[i]?).any (fun z => z.supply ≠ .supplied))

/-- R134 step 6: zones, then records, then incidents (log 14). -/
def Net.markOutcome (before n : Net) : Net :=
  overEach (Net.markIncident before) (List.range n.incidents.length)
    (overEach (Net.markOutage before) (List.range n.outages.length) (overEach (Net.markZone before) (List.range n.zones.length) n))

/-- R134, steps 3 to 6, on a net whose losses are placed; no zone, record or incident is marked ahead of step 6. -/
def Net.applyRest (before : Net) (result : List Nat) (n : Net) : Net :=
  let n1 := overEach Net.loseAgain (before.zonesOfClass Supply.heldFed false result) n
  let n2 := overEach Net.gain (before.zonesOfClass (· == .unfed) true result) n1
  Net.markOutcome before (overEach (Net.judgePoints Net.unmarkedExcursion) (Net.madeSupplied before n2) n2)

/-- R134: a whole result applied, or `none` when its losses have no place. -/
def Net.applyResult (result : List Nat) (n : Net) : Option Net :=
  let losses := n.zonesOfClass (· == .supplied) false result
  let n1 := n.writeFed result
  if losses = [] then some (Net.applyRest n result n1)
  else (n.lossPlace).map (fun p => Net.applyRest n result (n1.placeLosses p losses))

/-! ## RESTORE (R141) -/

/-- R141: a record made RESTORING, with its REFED-UNCONTROLLED zones. -/
def Net.restoreOutage (slot : Nat) (o : Outage) (n : Net) : Net :=
  let zs := (o.held.map (·.zone)).filter (fun z => (n.zones[z]?).any (fun x => x.supply = .refedUncontrolled))
  let n1 := (n.setOutage slot (fun o => { o with state := .restoring })).mark .ordinary (.outage slot)
  let n2 := overEach (fun z n => (n.repressurise z).mark .ordinary (.zone z)) zs n1
  overEach Net.judgeSupplied (zs.filter (fun z => (n2.zones[z]?).any (fun x => x.supply = .supplied))) n2

/-- R141: of the zones an order made REPRESSURISED, how many stand in a supply state after it (log 25). -/
def Net.countMade (before n : Net) (s : Supply) : Nat :=
  ((idsWhere n.zones (fun z => z.supply = s)).filter (fun i => (before.zones[i]?).any (fun z => z.supply = .refedUncontrolled))).length

def Net.takeRestore (r : Ref) (n : Net) : Net × Answer :=
  match findRecord n.outages r with
  | none => (n, .plain .noSuch)
  | some o =>
    if o.state = .isolated then
      let n1 := n.restoreOutage r.slot o
      (n1, .withBody .done
        (restoreBody ((slotRecord n1.outages r.slot).getD o) (Net.countMade n n1 .repressurised) (Net.countMade n n1 .supplied)))
    else (n, .plain .badState)

/-! ## RELIGHT (R142, R143) -/

/-- R142 check 4: every point of the zone GOOD and NORMAL. -/
def Net.pressureNormal (n : Net) (z : Zone) : Bool :=
  z.points.all (fun i => (n.points[i]?).any (fun p => p.quality = .good ∧ p.band = .normal))

/-- The relit count of a zone, 0 when no record holds it (spec/11). -/
def Net.relitOf (n : Net) (z : Nat) : Nat := (((n.zoneOutage z).bind (fun q => q.2.entry z)).map (·.relit)).getD 0

/-- R142: the first check that fails, from check 3 on, for a present zone. -/
def Net.relightFault (n : Net) (z : Nat) (x : Zone) (count : Nat) : Option AnswerCode :=
  if x.supply ≠ .repressurised then some .badState
  else if n.pressureNormal x = false then some .pressureNotNormal
  else if x.customers < n.relitOf z + count then some .overCount
  else none

/-- R143: the count taken; a zone fully relit becomes SUPPLIED. -/
def Net.relight (z count : Nat) (x : Zone) (n : Net) : Net :=
  let relit := n.relitOf z + count
  let n1 := match n.zoneOutage z with
    | some (slot, _) => (n.setOutage slot (Outage.setRelit z relit)).mark .ordinary (.outage slot)
    | none => n
  let n2 := n1.mark .ordinary (.zone z)
  if relit = x.customers then (n2.supplyZone z).judgeSupplied z else n2

/-- R142, R143: the answer body, after the order; the outage is the one that held the zone when the order was taken. -/
def relightAnswer (before after : Net) (c : AnswerCode) (z relit : Nat) (x : Zone) : Answer :=
  .withBody c (relightBody (((after.zones[z]?).map (·.supply)).getD x.supply) relit x.customers
    ((before.zoneOutage z).bind (fun q => slotRecord after.outages q.1)))

def Net.takeRelight (b : RelightBody) (n : Net) : Net × Answer :=
  let z := b.zone.toNat
  match n.zones[z]? with
  | none => (n, .plain (if b.count = 0 then .badForm else .noSuch))
  | some x =>
    if b.count = 0 then (n, relightAnswer n n .badForm z (n.relitOf z) x)
    else
      match n.relightFault z x b.count.toNat with
      | some c => (n, relightAnswer n n c z (n.relitOf z) x)
      | none =>
        let n1 := n.relight z b.count.toNat x
        (n1, relightAnswer n n1 .done z (n.relitOf z + b.count.toNat) x)

end Sys2Proof.Machine
end

