-- ==== Sys2Proof/Machine/SurveyRuns.lean ====
section
/-! DEFINITION. The survey engine's runs (spec/04): starting and completing surveys, the held completion, the SOURCE order. -/

namespace Sys2Proof.Machine

/-! ## Starting (R68, R69, R73) -/

/-- R68: the engine may start a survey. -/
def Net.surveyFree (n : Net) : Bool := n.survey.idle && n.mode.surveys

/-- R68, R69: an owed real survey starts. -/
def Net.startReal (n : Net) : Net :=
  if n.surveyFree ∧ n.survey.pendingReal then
    n.setSurvey (fun s => { s with pendingReal := false, inFlight := some (.real s.generation n.realResult) })
  else n

/-- R68, R73: the oldest trial starts when no real survey is owed. -/
def Net.startTrial (n : Net) : Net :=
  if n.surveyFree ∧ n.survey.pendingReal = false then
    match n.survey.queue with
    | sub :: _ => n.setSurvey (fun s => { s with inFlight := some (.trial s.generation (n.trialResult sub)) })
    | [] => n
  else n

/-! ## Real completions (R70, R71) -/

/-- R70: a result applied, with the change set cleared; `none` when the outage unit refuses it. -/
def Net.applyCompletion (result : List Nat) (n : Net) : Option Net :=
  (n.applyResult result).map (fun n1 => n1.setSurvey (fun s => { s with changeValves := [], changeSources := [] }))

/-- R70, R71: a result offered to the outage unit, and held when refused. -/
def Net.offerResult (start : BitVec 32) (result : List Nat) (n : Net) : Net :=
  match n.applyCompletion result with
  | some n1 => n1
  | none => n.setSurvey (fun s => { s with held := some { start := start, reached := result } })

/-- R70: the completion of a real survey. -/
def Net.completeReal (n : Net) : Net :=
  match n.survey.inFlight with
  | some (.real start result) =>
    let n1 := n.setSurvey (fun s => { s with inFlight := none })
    if n.survey.generation = start then n1.offerResult start result else n1.setSurvey (fun s => { s with pendingReal := true })
  | _ => n

/-- R71: an outage slot has become FREE. -/
def Net.outageSlotFreed (n : Net) : Net :=
  match n.survey.held with
  | some h =>
    let n1 := n.setSurvey (fun s => { s with held := none })
    if n.survey.generation = h.start then n1.offerResult h.start h.reached else n1.setSurvey (fun s => { s with pendingReal := true })
  | none => n

/-! ## SOURCE (R76) -/

/-- R76: a source takes the target state of an accepted order. -/
def Net.setSourceState (i : Nat) (target : SourceState) (n : Net) : Net :=
  if (n.sources[i]?).any (fun s => s.state ≠ target) then
    ((n.setSource i (fun s => { s with state := target })).mark .ordinary (.source i)).sourcesChanged [i]
  else n

/-- R76: the result of a SOURCE trial, with the answer to its folio, if one is recorded. -/
def Net.sourceResult (i : Nat) (target : SourceState) (folio : Option Nat) (v : Verdict) (n : Net) : Net × Option Reply :=
  let reply (c : AnswerCode) (zones : List Nat) : Option Reply :=
    folio.map (fun f => { folio := f, answer := .withBody c (trialBody i 0 0 zones) })
  match v with
  | .accepted losses => (n.setSourceState i target, reply .accepted losses)
  | .wouldIsolate zones => (n, reply .wouldIsolate zones)
  | .wouldRefeed zones => (n, reply .wouldRefeed zones)

/-- R72, R76: a SOURCE trial offered, or its order stalled. -/
def Net.offerSource (i : Nat) (target : SourceState) (o r : Bool) (folio : Nat) (n : Net) : Net × OrderResult :=
  match n.offerTrial (.source i target o r (some folio)) with
  | some n1 => (n1, .pending)
  | none => (n, .stalled (.source folio i target o r))

/-- R76: the target code is checked before the source (log 38). -/
def Net.takeSource (b : SourceBody) (folio : Nat) (n : Net) : Net × OrderResult :=
  match SourceState.ofCode b.target.toNat with
  | none => (n, .answered (.plain .badForm))
  | some target =>
    match n.sources[b.source.toNat]? with
    | none => (n, .answered (.plain .noSuch))
    | some s =>
      if s.state = target then (n, .answered (.withBody .accepted (trialBody b.source.toNat 0 0 [])))
      else n.offerSource b.source.toNat target (b.flags.getLsbD 0) (b.flags.getLsbD 1) folio

/-! ## Trial completions (R75) -/

/-- R75: the result of a judged trial handed to its owner. -/
def Net.handVerdict (sub : Subject) (v : Verdict) (n : Net) : Net × Option Reply :=
  match sub with
  | .plan r => n.planResult r v
  | .source i target _ _ folio => n.sourceResult i target folio v

/-- R75: what a trial's completion leaves: the net, an answer due, and whether a place came free in the queue. -/
structure TrialEnd where
  net : Net
  reply : Option Reply
  freed : Bool
deriving DecidableEq, Repr

/-- R74, R75: the completion of a trial. -/
def Net.completeTrial (n : Net) : TrialEnd :=
  match n.survey.inFlight, n.survey.queue with
  | some (.trial start result), sub :: rest =>
    if n.survey.generation = start then
      let n1 := n.setSurvey (fun s => { s with inFlight := none, queue := rest })
      let q := n1.handVerdict sub (n.judge (n.subjectFlags sub) [] result)
      { net := q.1, reply := q.2, freed := true }
    else { net := n.setSurvey (fun s => { s with inFlight := none }), reply := none, freed := false }
  | _, _ => { net := n, reply := none, freed := false }

/-- R159: a stalled order offered again on a free-place notice; `none` when the queue is still full. -/
def Net.reoffer (st : Stalled) (n : Net) : Option Net :=
  match st with
  | .plan folio => (n.planOfFolio folio).bind (fun i => n.offerTrial (.plan (slotRef n.plans i)))
  | .source folio id target o r => n.offerTrial (.source id target o r (some folio))

/-! ## Halt (R77) -/

/-- R77: the owner of a queued trial answers HALTED. -/
def Net.haltSubject (sub : Subject) (n : Net) : Net × Option Reply :=
  match sub with
  | .plan r => n.haltPlan r
  | .source _ _ _ _ folio => (n, folio.map (fun f => { folio := f, answer := .plain .halted }))

/-- R77: the queue emptied, its answers in queue order. -/
def Net.haltQueue : List Subject → Net → Net × List Reply
  | [], n => (n.setSurvey (fun s => { s with queue := [] }), [])
  | sub :: rest, n =>
    let q := n.haltSubject sub
    let q2 := Net.haltQueue rest q.1
    (q2.1, q.2.toList ++ q2.2)

/-- R77: a survey in flight abandoned, a held completion discarded; either way a real survey is owed. -/
def Survey.halt (s : Survey) : Survey :=
  { s with inFlight := none, held := none, pendingReal := s.pendingReal || s.inFlight.isSome || s.held.isSome }

end Sys2Proof.Machine
end

