-- ==== Sys2Proof/Machine/Content.lean ====
section
/-! DEFINITION. The content of reports: what each record carries in its continuation records, in the order of its owner's rule, at the
record counts of spec/11. The byte places inside the content are the model's (log 9). -/

namespace Sys2Proof.Machine

/-! ## Records of 16 bytes -/

/-- Bytes cut to `w`, or padded to it with unread ones: past the owner's last field nothing is written, and host memory keeps what it holds,
which is the model's choice (log 9). -/
def padTo (w : Nat) (bs : List OutByte) : List OutByte := (bs ++ List.replicate w none).take w

/-- `k` pieces of 14 bytes. -/
def pieces : Nat → List OutByte → List (List OutByte)
  | 0, _ => []
  | k + 1, bs => padTo Config.contentBytes bs :: pieces k (bs.drop Config.contentBytes)

/-- As many pieces of 14 bytes as the bytes fill. -/
def allPieces (bs : List OutByte) : List (List OutByte) :=
  pieces ((bs.length + (Config.contentBytes - 1)) / Config.contentBytes) bs

/-- What a head record says (spec/11). -/
structure HeadRecord where
  kind : Nat
  closing : Bool
  urgent : Bool
  records : Nat
  part : Nat
  parts : Nat
  ident : Nat
  serial : Half
  time : Time
deriving DecidableEq, Repr

def HeadRecord.bytes (h : HeadRecord) : List OutByte :=
  out 1 h.kind ++ out 1 (1 + 2 * bitOf h.closing + 4 * bitOf h.urgent) ++ out 1 h.records ++ out 1 h.part ++ out 1 h.parts ++ [none] ++
    out 2 h.ident ++ outHalf h.serial ++ out 6 h.time

/-- A continuation record: bit 0 of byte 1 clear, the sequence in bits 1 to 7. -/
def continuation (kind sequence : Nat) (content : List OutByte) : List OutByte := out 1 kind ++ out 1 (2 * sequence) ++ content

/-- Continuation records numbered from a sequence. -/
def continuations (kind : Nat) : Nat → List (List OutByte) → List OutByte
  | _, [] => []
  | k, c :: cs => continuation kind k c ++ continuations kind (k + 1) cs

/-- A share of a report: its head and its content records. -/
def shareBytes (h : HeadRecord) (contents : List (List OutByte)) : List OutByte := h.bytes ++ continuations h.kind 1 contents

/-! ## Naming -/

/-- spec/11: the record kind codes. -/
def RecordName.kind : RecordName → Nat
  | .zone _ => 1
  | .source _ => 2
  | .valve _ => 3
  | .station _ => 4
  | .point _ => 5
  | .line _ => 6
  | .incident _ => 7
  | .plan _ => 8
  | .outage _ => 9

/-- Identifier or slot. -/
def RecordName.ident : RecordName → Nat
  | .zone n | .source n | .valve n | .station n | .point n | .incident n | .plan n | .outage n => n
  | .line l => l.val

/-- Serial, or 0. -/
def Net.serialOf (n : Net) : RecordName → Half
  | .incident i => (slotRef n.incidents i).serial
  | .plan i => (slotRef n.plans i).serial
  | .outage i => (slotRef n.outages i).serial
  | _ => 0

/-- A closing report: CLOSED, COMPLETE or ABANDONED, RESTORED. -/
def Net.closing (n : Net) : RecordName → Bool
  | .incident i => (slotRecord n.incidents i).any (fun x => x.state = .closed)
  | .plan i => (slotRecord n.plans i).any (fun p => p.state = .complete ∨ p.state = .abandoned)
  | .outage i => (slotRecord n.outages i).any (fun o => o.state = .restored)
  | _ => false

/-! ## Content of each kind -/

/-- R15: fed, supply, link, summary, then the static fields. -/
def zoneContent (z : Zone) : List OutByte :=
  out 1 z.fed.code ++ out 1 z.supply.code ++ outOptRef z.outage ++ outOptByte (z.summary.map Band.code) ++ out 2 z.customers ++
    out 1 z.tier.code ++ out 2 z.gridX ++ out 2 z.gridY

/-- R15. -/
def sourceContent (s : Source) : List OutByte := out 1 s.state.code ++ outOptHalf s.point ++ out 1 s.initial.code

/-- R109: the step of a valve: entry, step (from 1), target, tag, flags, dwell, then the accepted time or the dwell end. -/
def stepContent (v : Valve) : List OutByte :=
  match v.staged, v.inFlight with
  | some s, _ =>
    out 1 (s.entry + 1) ++ out 1 (s.step + 1) ++ out 1 s.target ++ out 1 0 ++ out 1 (bitOf s.awaiting) ++ out 2 s.dwell ++
      outOptTime v.dwellEnd
  | none, some f =>
    out 1 (f.entry + 1) ++ out 1 (f.step + 1) ++ out 1 f.target ++ out 1 f.tag.toNat ++ out 1 (2 * bitOf f.unverified) ++ out 2 0 ++
      outOptTime f.accepted
  | none, none => out 7 0 ++ outOptTime v.dwellEnd

/-- R15, R129. -/
def valveContent (v : Valve) : List OutByte :=
  outOptByte v.position ++ out 1 v.posState.code ++ outOptByte (v.selector.map Selector.code) ++
    out 1 (bitOf v.movedUnplanned + 2 * bitOf v.noted) ++ outOptRef v.claim ++ out 1 v.stepState.code ++ out 1 v.kind.code ++
    out 1 v.nodeA ++ out 1 v.nodeB ++ stepContent v

/-- R64. -/
def stationContent (s : Station) : List OutByte :=
  out 1 s.status.code ++ out 1 s.silent ++ out 1 s.busy ++ outOptTime s.lastReply ++ out 1 s.line.val ++ out 1 s.address.toNat ++
    out 1 s.kind.code ++ out 1 s.pollClass.code

/-- R52: the settings at the widths of LIMITS. -/
def settingsContent (s : Settings) : List OutByte :=
  out 2 s.ll ++ out 2 s.l ++ out 2 s.h ++ out 2 s.hh ++ out 2 s.deadband ++ out 1 s.confirm ++ out 2 s.stale

/-- R64: flags bit 0 suppressed, bit 1 value present. -/
def pointContent (p : Point) (suppressed : Bool) : List OutByte :=
  out 1 p.quality.code ++ out 1 p.band.code ++ settingsContent p.settings ++ out 2 (p.value.getD 0) ++
    out 1 (bitOf suppressed + 2 * bitOf p.value.isSome) ++ out 2 p.station ++ out 1 p.slot ++ out 1 p.zone

/-- R41: 0 stands for RUNNING. -/
def lineContent (l : Line) : List OutByte :=
  out 1 l.role.code ++ out 1 ((l.reportedState.map LineState.code).getD 0) ++ out 1 l.params.speed.code ++ out 1 l.params.window ++
    out 1 l.params.gap ++ out 2 l.listenTimeout ++ out 1 (bitOf l.permit + 2 * bitOf l.orderHold) ++ out 1 l.commands.length ++
    outHalf l.pollCycle

/-- Up to eight point identifiers at nine bits each, in nine bytes. -/
def packPoints (ps : List Nat) : Nat := ps.foldr (fun p acc => p + 512 * acc) 0

/-- A grid cell as two 12-bit numbers in three bytes (spec/11). -/
def cellContent (x y : Nat) : List OutByte := out 3 (x + 4096 * y)

/-- R80, in its order: every field but the call list, whose entries follow; 56 bytes. -/
def incidentContent (i : Incident) : List OutByte :=
  out 1 i.kind.code ++ out 1 i.cls ++ out 1 i.zone ++ cellContent i.anchorX i.anchorY ++ out 6 i.opened ++ outOptTime i.lastCall ++
    out 6 i.deadline ++ out 1 i.state.code ++ out 1 i.flags ++ out 1 i.calls.length ++ out 2 i.further ++ out 1 i.points.length ++
    out 9 (packPoints i.points) ++ (i.plans.map (fun r => outOptRef (some r))).flatten ++
    (List.replicate (Config.planLinkMax - i.plans.length) (outOptRef none)).flatten ++ out 1 i.reservations ++ outOptRef i.outage ++
    out 1 (bitOf i.armed)

/-- spec/11: a call entry fills one continuation record. -/
def callContent (c : CallEntry) : List OutByte :=
  out 4 c.ref.toNat ++ out 1 c.kind.code ++ cellContent c.gridX c.gridY ++ out 6 c.time

/-- R108, in its order: the plan's own fields, its entries following in their records; the time is the ended time, or until then the
accepted time. -/
def planContent (p : Plan) : List OutByte :=
  outOptRef (some p.incident) ++ out 1 (bitOf p.outageAccepted + 2 * bitOf p.refeedAccepted) ++ out 1 p.state.code ++
    out 1 ((p.running.map (· + 1)).getD 0) ++ out 1 ((p.block.map (·.reason.code)).getD 0) ++ outOptByte (p.block.map (·.valve)) ++
    outOptTime (p.endedTime.orElse (fun _ => p.acceptedTime))

/-- R108: a step in 20 bits: target, dwell, hold flag. -/
def packStep (s : PlanStep) : Nat := s.target + 128 * s.dwell + 524288 * bitOf s.hold

/-- R108, in its order: an entry in 14 bytes: valve, steps, entry state, current step counted from 1. -/
def entryContent (e : PlanEntry) : List OutByte :=
  out 1 e.valve ++ out 1 e.steps.length ++ out 10 (e.steps.foldr (fun s acc => packStep s + 1048576 * acc) 0) ++ out 1 e.state.code ++
    out 1 (e.current + 1)

/-- R132, in its order: everything but the held zones. -/
def outageContent (o : Outage) : List OutByte :=
  out 4 o.sequence.toNat ++ out 1 o.cause.code ++ outOptRef o.incident ++ out 1 o.state.code ++ out 6 o.start ++ outOptTime o.restored ++
    out 1 o.held.length ++ out 3 o.customersOff

def heldContent (h : HeldZone) : List OutByte := out 1 h.zone ++ out 2 h.customers ++ out 2 h.relit

/-- Two held zones a record, rounded up. -/
def heldRecords : List HeldZone → List (List OutByte)
  | [] => []
  | [a] => [padTo Config.contentBytes (heldContent a)]
  | a :: b :: hs => padTo Config.contentBytes (heldContent a ++ heldContent b) :: heldRecords hs

/-- The content records of a record's report, at the counts of spec/11; none when the record does not exist. -/
def Net.content (n : Net) : RecordName → List (List OutByte)
  | .zone i => ((n.zones[i]?).map (fun z => pieces 1 (zoneContent z))).getD []
  | .source i => ((n.sources[i]?).map (fun s => pieces 1 (sourceContent s))).getD []
  | .valve i => ((n.valves[i]?).map (fun v => pieces 2 (valveContent v))).getD []
  | .station i => ((n.stations[i]?).map (fun s => pieces 1 (stationContent s))).getD []
  | .point i => ((n.points[i]?).map (fun p => pieces 2 (pointContent p (n.suppressed p.zone)))).getD []
  | .line l => pieces 1 (lineContent (n.line l))
  | .incident i =>
    ((slotRecord n.incidents i).map (fun x => pieces 4 (incidentContent x) ++ x.calls.map callContent)).getD []
  | .plan i => ((slotRecord n.plans i).map (fun p => pieces 1 (planContent p) ++ p.entries.map entryContent)).getD []
  | .outage i => ((slotRecord n.outages i).map (fun o => pieces 2 (outageContent o) ++ heldRecords o.held)).getD []

end Sys2Proof.Machine
end

