-- ==== Sys2Proof/Machine/Query.lean ====
section
/-! DEFINITION. QUERY (R161, R186): the content of the fifteen record kinds and its portions. The byte places of the continuation records
beyond a report's are the model's (log 9). -/

namespace Sys2Proof.Machine

/-! ## Fields a report lacks, by owner -/

def outList (w : Nat) (xs : List Nat) : List OutByte := out 2 xs.length ++ (xs.map (out w)).flatten

/-- R16; that the zone's valve list (R2) is shown behind its point list is the model's choice (log 9). -/
def zoneExtra (z : Zone) : List OutByte := outList 2 z.points ++ outList 1 z.valves

/-- R16; that the source's valve list (R2) is shown is the model's choice (log 9). -/
def sourceExtra (s : Source) : List OutByte := outList 1 s.valves

/-- R16, in its order: the static fields (R7), the dynamic ones (R8, R109), the passing state. -/
def valveExtra (v : Valve) : List OutByte :=
  outOptHalf v.station ++ out 2 v.travelLimit ++ outOptByte v.initialPosition ++ outOptByte (v.motion.map Motion.code) ++
    outOptByte (v.closedLimit.map bitOf) ++ outOptByte (v.openLimit.map bitOf) ++ outOptTime v.positionTime ++
    out 1 (bitOf v.stopPending + 2 * bitOf v.settleNext) ++ out 1 v.passing.code

/-- R64. -/
def stationExtra (s : Station) : List OutByte :=
  outList 2 s.points ++ outOptHalf s.valve ++ out 1 s.backoff ++ out 1 s.resume.code ++ out 6 s.replyRef

/-- R64. -/
def pointExtra (p : Point) : List OutByte :=
  outOptByte (p.pendingBand.map (·.band.code)) ++ outOptTime (p.pendingBand.map (·.since)) ++ out 6 p.freshSince

/-- A STEP is 3 and a STOP 4, as the functions of a poll (spec/11). -/
def listedContent (c : Listed) : List OutByte :=
  out 2 c.station ++
    (match c.command with
     | .step tag target => out 1 3 ++ out 1 tag.toNat ++ out 1 target
     | .stop => out 1 4 ++ out 2 0)

def functionContent : PollFunction → List OutByte
  | .read => out 1 1 ++ out 2 0
  | .continue_ => out 1 2 ++ out 2 0
  | .step tag target => out 1 3 ++ out 1 tag.toNat ++ out 1 target
  | .stop => out 1 4 ++ out 2 0

/-- R41: the items of the line state table (spec/02) that the report lacks, in its order. -/
def Net.lineExtra (n : Net) (l : Fin 4) : List OutByte :=
  let x := n.line l
  out 1 x.strapRole.code ++ out 1 x.state.code ++ out 1 (bitOf x.reconfigured) ++ outOptHalf x.roundRobin ++
    out 1 (bitOf x.idleWait.isSome) ++ out 1 x.tagCounter.toNat ++ out 2 x.commands.length ++ (x.commands.map listedContent).flatten ++
    outOptHalf x.continuation ++
    (match x.exchange with
     | some e => out 2 e.station ++ functionContent e.function
     | none => out 2 Config.noneHalf ++ out 3 0) ++
    ((n.lineStations l).map (fun st => out 2 st ++ outOptTime ((n.stations[st]?).bind (·.lastHeard)))).flatten

/-- R129: a valve of a plan. -/
def Net.planValve (n : Net) (v : Nat) : List OutByte :=
  match n.valves[v]? with
  | some x => out 1 v ++ out 1 x.stepState.code ++ stepContent x ++ outOptTime x.dwellEnd ++ out 1 (bitOf x.stopPending)
  | none => []

/-- R129; that each valve the entries name is shown once, by rising identifier, is the model's choice (log 9). -/
def Net.planExtra (n : Net) (p : Plan) : List OutByte :=
  outList 1 p.expectedLosses ++ outOptHalf p.folio ++ outOptTime p.acceptedTime ++ outOptTime p.endedTime ++
    (((List.range n.valves.length).filter (fun v => p.entries.any (fun e => e.valve = v))).map n.planValve).flatten

/-- R147. -/
def Net.outageExtra (n : Net) (o : Outage) : List OutByte :=
  (o.held.map (fun h => out 1 h.zone ++ outOptByte ((n.zones[h.zone]?).map (·.supply.code)))).flatten

/-! ## Units -/

def slotContent {α : Type} (sl : Slot α) : List OutByte := out 1 sl.state.code ++ outHalf sl.serial

/-- R105. -/
def Net.incidentUnit (n : Net) : List OutByte :=
  out 2 n.params.class1 ++ out 2 n.params.class2 ++ out 2 n.params.class3 ++ out 2 n.params.window ++ out 1 n.params.radius ++
    out 1 n.params.escalation ++ (n.incidents.map slotContent).flatten

/-- R129. -/
def Net.planEngine (n : Net) : List OutByte := (n.plans.map slotContent).flatten

/-- R147. -/
def Net.outageUnit (n : Net) : List OutByte := (n.outages.map slotContent).flatten ++ out 4 n.outageSeq.toNat

/-- A trial's subject: 0 for a plan, 1 for a source; that a SOURCE trial's folio is shown is the model's choice (log 9). -/
def subjectContent : Subject → List OutByte
  | .plan r => out 1 0 ++ outOptRef (some r) ++ out 2 0 ++ out 2 Config.noneHalf
  | .source i target o r folio =>
    out 1 1 ++ out 1 i ++ out 2 0 ++ out 1 target.code ++ out 1 (bitOf o + 2 * bitOf r) ++ outOptHalf folio

/-- R78; that the change set is shown in the order its members entered it, and with each valve's noted claim, is the model's choice (log 9). -/
def Net.surveyEngine (n : Net) : List OutByte :=
  out 4 n.survey.generation.toNat ++ out 1 (bitOf n.survey.pendingReal) ++
    out 2 n.survey.changeValves.length ++ (n.survey.changeValves.map (fun c => out 1 c.valve ++ outOptRef c.claim)).flatten ++
    outList 1 n.survey.changeSources ++ out 2 n.survey.queue.length ++ (n.survey.queue.map subjectContent).flatten ++
    (match n.survey.inFlight with
     | none => out 1 0 ++ out 4 0
     | some (.real g _) => out 1 1 ++ out 4 g.toNat
     | some (.trial g _) => out 1 2 ++ out 4 g.toNat) ++
    out 1 (bitOf n.survey.held.isSome) ++ outList 1 (n.zones.map (fun z => z.fed.code))

/-- R161. -/
def stalledFolio : Stalled → Nat
  | .plan f => f
  | .source f _ _ _ _ => f

/-- R161. -/
def State.exchangeUnit (s : State) : List OutByte :=
  out 1 s.net.mode.code ++ out 1 s.exch.faultCode.code ++ out 8 s.exch.base ++ out 2 s.exch.folioCount ++ out 2 s.exch.chainStart ++
    outOptHalf s.exch.cursor ++ out 1 (bitOf s.exch.stall.isSome) ++ outOptHalf (s.exch.stall.map stalledFolio) ++
    out 2 s.exch.sweepInterval ++ outList 2 s.exch.lent

/-- R162. -/
def State.clockContent (s : State) : List OutByte := out 6 s.net.now ++ out 8 s.tod ++ out 1 (bitOf s.timeUnset)

/-! ## The answer -/

/-- A content: its head's identifier and serial, and its content records. -/
structure QueryContent where
  ident : Nat
  serial : Half
  records : List (List OutByte)
deriving DecidableEq, Repr

/-- A record's report and the fields it lacks. -/
def Net.recordContent (n : Net) (r : RecordName) (extra : List OutByte) : QueryContent where
  ident := r.ident
  serial := n.serialOf r
  records := n.content r ++ allPieces extra

/-- R186: the content of an owner without a report record; the identifier and the serial of its head are 0 (log 42). -/
def unitContent (bs : List OutByte) : QueryContent := { ident := 0, serial := 0, records := allPieces bs }

/-- R161: the content named, an unknown identifier, or an undefined kind. -/
def State.queryContent (s : State) (b : QueryBody) : Except AnswerCode QueryContent :=
  let n := s.net
  let i := b.ident.toNat
  let r := refOf i b.serial
  let found (x : Option QueryContent) : Except AnswerCode QueryContent :=
    match x with
    | some q => .ok q
    | none => .error .noSuch
  match b.kind.toNat with
  | 1 => found ((n.zones[i]?).map (fun z => n.recordContent (.zone i) (zoneExtra z)))
  | 2 => found ((n.sources[i]?).map (fun x => n.recordContent (.source i) (sourceExtra x)))
  | 3 => found ((n.valves[i]?).map (fun x => n.recordContent (.valve i) (valveExtra x)))
  | 4 => found ((n.stations[i]?).map (fun x => n.recordContent (.station i) (stationExtra x)))
  | 5 => found ((n.points[i]?).map (fun x => n.recordContent (.point i) (pointExtra x)))
  | 6 => if h : i < 4 then .ok (n.recordContent (.line ⟨i, h⟩) (n.lineExtra ⟨i, h⟩)) else .error .noSuch
  | 7 => found ((findRecord n.incidents r).map (fun _ => n.recordContent (.incident i) []))
  | 8 => found ((findRecord n.plans r).map (fun x => n.recordContent (.plan i) (n.planExtra x)))
  | 9 => found ((findRecord n.outages r).map (fun x => n.recordContent (.outage i) (n.outageExtra x)))
  | 10 => .ok (unitContent n.incidentUnit)
  | 11 => .ok (unitContent n.planEngine)
  | 12 => .ok (unitContent n.outageUnit)
  | 13 => .ok (unitContent n.surveyEngine)
  | 14 => .ok (unitContent s.exchangeUnit)
  | 15 => .ok (unitContent s.clockContent)
  | _ => .error .badForm

/-- The whole content as bytes: its head, then its continuation records. It is one share, part 0 of 1, neither closing nor URGENT, whatever
the record's state (log 42). -/
def contentBytes (kind : Nat) (time : Time) (q : QueryContent) : List OutByte :=
  shareBytes
    { kind := kind, closing := false, urgent := false, records := q.records.length + 1, part := 0, parts := 1, ident := q.ident
      serial := q.serial, time := time } q.records

/-- R186: the number of portions of 240 bytes. -/
def portionCount (bs : List OutByte) : Nat := (bs.length + (Config.bodyMax - 1)) / Config.bodyMax

def portion (bs : List OutByte) (k : Nat) : List OutByte := (bs.drop (Config.bodyMax * k)).take Config.bodyMax

/-- R161, R186. -/
def State.answerQuery (s : State) (b : QueryBody) : Answer :=
  match s.queryContent b with
  | .error c => .plain c
  | .ok q =>
    let bs := contentBytes b.kind.toNat s.net.now q
    if b.portion.toNat < portionCount bs then
      { code := .done, body := portion bs b.portion.toNat, portions := some (portionCount bs) }
    else .plain .badForm

end Sys2Proof.Machine
end

