-- ==== Sys2Proof/Machine/Operands.lean ====
section
/-! DEFINITION. Order bodies (spec/11, R185): read from a folio's body, and as the host writes them. -/

namespace Sys2Proof.Machine

/-- The fourteen orders (spec/08, R158). -/
inductive Order where
  | call (b : CallBody)
  | act (b : ActBody)
  | plan (b : PlanBody)
  | proceed (b : ProceedBody)
  | abandon (b : RefBody)
  | restore (b : RefBody)
  | relight (b : RelightBody)
  | valveNote (b : NoteBody)
  | source (b : SourceBody)
  | line (b : LineBody)
  | limits (b : LimitsBody)
  | lend
  | query (b : QueryBody)
  | clock (b : ClockBody)
deriving DecidableEq, Repr

/-- spec/11: the kind codes of the folio header. -/
def Order.kind : Order → Byte
  | .call _ => 1
  | .act _ => 2
  | .plan _ => 3
  | .proceed _ => 4
  | .abandon _ => 5
  | .restore _ => 6
  | .relight _ => 7
  | .valveNote _ => 8
  | .source _ => 9
  | .line _ => 10
  | .limits _ => 11
  | .lend => 12
  | .query _ => 13
  | .clock _ => 14

/-! ## Fields -/

/-- A two-byte little-endian field. -/
def half (l h : Byte) : Half := h ++ l

/-- A four-byte little-endian field. -/
def quarterWord (a b c d : Byte) : BitVec 32 := d ++ (c ++ (b ++ a))

def halfBytes (x : Half) : List Byte := [x.extractLsb' 0 8, x.extractLsb' 8 8]

def wordBytes (x : BitVec 32) : List Byte :=
  [x.extractLsb' 0 8, x.extractLsb' 8 8, x.extractLsb' 16 8, x.extractLsb' 24 8]

/-! ## Bodies as the host writes them; an unread byte is 0 -/

def CallBody.bytes (b : CallBody) : List Byte := wordBytes b.ref ++ [b.zone, b.kind] ++ halfBytes b.gridX ++ halfBytes b.gridY

def ActBody.bytes (b : ActBody) : List Byte := [b.slot, b.action] ++ halfBytes b.serial ++ [b.cls]

def StepBody.bytes (b : StepBody) : List Byte := [b.target, b.hold] ++ halfBytes b.dwell

def EntryBody.bytes (b : EntryBody) : List Byte :=
  [b.valve, b.stepCount] ++ StepBody.bytes b.steps.q0 ++ StepBody.bytes b.steps.q1 ++ StepBody.bytes b.steps.q2 ++
    StepBody.bytes b.steps.q3

def PlanBody.bytes (b : PlanBody) : List Byte :=
  [b.slot, b.flags] ++ halfBytes b.serial ++ [b.entryCount, 0] ++ (b.entries.map EntryBody.bytes).flatten

def ProceedBody.bytes (b : ProceedBody) : List Byte := [b.slot, b.position] ++ halfBytes b.serial

def RefBody.bytes (b : RefBody) : List Byte := [b.slot, 0] ++ halfBytes b.serial

def RelightBody.bytes (b : RelightBody) : List Byte := [b.zone, 0] ++ halfBytes b.count

def NoteBody.bytes (b : NoteBody) : List Byte := [b.valve, b.position]

def SourceBody.bytes (b : SourceBody) : List Byte := [b.source, b.target, b.flags]

def LineBody.bytes (b : LineBody) : List Byte := [b.line, b.op, b.speed, b.window, b.gap, b.role]

def LimitsBody.bytes (b : LimitsBody) : List Byte :=
  halfBytes b.point ++ halfBytes b.ll ++ halfBytes b.l ++ halfBytes b.h ++ halfBytes b.hh ++ halfBytes b.deadband ++ [b.confirm, 0] ++
    halfBytes b.stale

def QueryBody.bytes (b : QueryBody) : List Byte := [b.kind, b.portion] ++ halfBytes b.ident ++ halfBytes b.serial

def ClockBody.bytes (b : ClockBody) : List Byte :=
  halfBytes b.year ++ [b.month, b.day, b.hour, b.minute, b.second, 0] ++ halfBytes b.ms

/-- The body of an order. -/
def Order.bytes : Order → List Byte
  | .call b => CallBody.bytes b
  | .act b => ActBody.bytes b
  | .plan b => PlanBody.bytes b
  | .proceed b => ProceedBody.bytes b
  | .abandon b | .restore b => RefBody.bytes b
  | .relight b => RelightBody.bytes b
  | .valveNote b => NoteBody.bytes b
  | .source b => SourceBody.bytes b
  | .line b => LineBody.bytes b
  | .limits b => LimitsBody.bytes b
  | .lend => []
  | .query b => QueryBody.bytes b
  | .clock b => ClockBody.bytes b

/-! ## Bodies read; `none` when the bytes are too few (R185) -/

def readCall : List Byte → Option CallBody
  | r0 :: r1 :: r2 :: r3 :: z :: k :: x0 :: x1 :: y0 :: y1 :: _ =>
    some { ref := quarterWord r0 r1 r2 r3, zone := z, kind := k, gridX := half x0 x1, gridY := half y0 y1 }
  | _ => none

def readAct : List Byte → Option ActBody
  | s :: a :: n0 :: n1 :: c :: _ => some { slot := s, action := a, serial := half n0 n1, cls := c }
  | _ => none

def readRef : List Byte → Option RefBody
  | s :: _ :: n0 :: n1 :: _ => some { slot := s, serial := half n0 n1 }
  | _ => none

def readProceed : List Byte → Option ProceedBody
  | s :: p :: n0 :: n1 :: _ => some { slot := s, position := p, serial := half n0 n1 }
  | _ => none

def readRelight : List Byte → Option RelightBody
  | z :: _ :: n0 :: n1 :: _ => some { zone := z, count := half n0 n1 }
  | _ => none

def readNote : List Byte → Option NoteBody
  | v :: p :: _ => some { valve := v, position := p }
  | _ => none

def readSource : List Byte → Option SourceBody
  | s :: t :: f :: _ => some { source := s, target := t, flags := f }
  | _ => none

def readLine : List Byte → Option LineBody
  | l :: o :: s :: w :: g :: r :: _ => some { line := l, op := o, speed := s, window := w, gap := g, role := r }
  | _ => none

def readLimits : List Byte → Option LimitsBody
  | p0 :: p1 :: a0 :: a1 :: b0 :: b1 :: c0 :: c1 :: d0 :: d1 :: e0 :: e1 :: f :: _ :: g0 :: g1 :: _ =>
    some
      { point := half p0 p1, ll := half a0 a1, l := half b0 b1, h := half c0 c1, hh := half d0 d1, deadband := half e0 e1, confirm := f
        stale := half g0 g1 }
  | _ => none

def readQuery : List Byte → Option QueryBody
  | k :: p :: i0 :: i1 :: n0 :: n1 :: _ => some { kind := k, portion := p, ident := half i0 i1, serial := half n0 n1 }
  | _ => none

def readClock : List Byte → Option ClockBody
  | y0 :: y1 :: mo :: d :: h :: mi :: s :: _ :: m0 :: m1 :: _ =>
    some { year := half y0 y1, month := mo, day := d, hour := h, minute := mi, second := s, ms := half m0 m1 }
  | _ => none

/-- `k` entry records of 18 bytes. -/
def readEntries : Nat → List Byte → Option (List EntryBody)
  | 0, _ => some []
  | k + 1, v :: c :: t0 :: h0 :: a0 :: b0 :: t1 :: h1 :: a1 :: b1 :: t2 :: h2 :: a2 :: b2 :: t3 :: h3 :: a3 :: b3 :: bs =>
    (readEntries k bs).map (fun es =>
      { valve := v, stepCount := c
        steps :=
          { q0 := { target := t0, hold := h0, dwell := half a0 b0 }, q1 := { target := t1, hold := h1, dwell := half a1 b1 }
            q2 := { target := t2, hold := h2, dwell := half a2 b2 }, q3 := { target := t3, hold := h3, dwell := half a3 b3 } } } :: es)
  | _ + 1, _ => none

/-- R185: an entry count of 0 or above 8 is itself at fault, whatever the length; its entries are not read. -/
def readPlan : List Byte → Option PlanBody
  | s :: f :: n0 :: n1 :: k :: _ :: bs =>
    (readEntries (if k.toNat ≤ Config.entryMax then k.toNat else 0) bs).map (fun es =>
      { slot := s, flags := f, serial := half n0 n1, entryCount := k, entries := es })
  | _ => none

/-- R185: an order read from its kind and the bytes its body length covers; `none` is a body shorter than the order needs (log 8), or a kind
that names no order. -/
def readOrder (kind : Byte) (body : List Byte) : Option Order :=
  match kind.toNat with
  | 1 => (readCall body).map .call
  | 2 => (readAct body).map .act
  | 3 => (readPlan body).map .plan
  | 4 => (readProceed body).map .proceed
  | 5 => (readRef body).map .abandon
  | 6 => (readRef body).map .restore
  | 7 => (readRelight body).map .relight
  | 8 => (readNote body).map .valveNote
  | 9 => (readSource body).map .source
  | 10 => (readLine body).map .line
  | 11 => (readLimits body).map .limits
  | 12 => some .lend
  | 13 => (readQuery body).map .query
  | 14 => (readClock body).map .clock
  | _ => none

/-- R158, R185: what a posted folio holds. -/
inductive PostedOrder where
  /-- R158: a kind that names no order, or a body length above 240: refused on its header -/
  | badHeader
  /-- R185: a well-formed header, and a body shorter than its order needs: refused by the order's owner -/
  | shortBody
  | order (o : Order)
deriving DecidableEq, Repr

/-- R185: the order of a well-formed header, its body checked by its owner. -/
def PostedOrder.ofBody : Option Order → PostedOrder
  | some o => .order o
  | none => .shortBody

/-- R158: a header with a kind and a body length that an order can have. -/
def headerOk (kind bodyLen : Byte) : Bool := decide (1 ≤ kind.toNat ∧ kind.toNat ≤ 14 ∧ bodyLen.toNat ≤ Config.bodyMax)

/-- R158, R185: a posted folio read. -/
def readPosted (kind bodyLen : Byte) (body : List Byte) : PostedOrder :=
  if headerOk kind bodyLen then .ofBody (readOrder kind (body.take bodyLen.toNat)) else .badHeader

end Sys2Proof.Machine
end

