-- ==== Sys2Proof/Machine/Reports.lean ====
section
/-! DEFINITION. The report unit (spec/09): writing reports, returning folios, losing a folio, starving, the drain, and the notices that
retire and free slots. -/

namespace Sys2Proof.Machine

/-! ## The exchange area (spec/08) -/

/-- Folio `i` lies at the exchange base plus 1024 plus 256 `i` (log 17). -/
def State.folioAddr (s : State) (i : Nat) : Nat := s.exch.base + Config.charterBytes + Config.folioBytes * i

/-- A write to host memory, made only while the exchange is reachable (R163, R164). -/
def State.put (a : Nat) (bs : List OutByte) (s : State) : State :=
  if s.exch.reachable then { s with mem := s.mem.writeOut a bs } else s

/-- The stamp and its flag: the time of day, or the run clock while TIME-UNSET is set (R158, R171). -/
def State.stamp (s : State) : Nat := if s.timeUnset then s.net.now else s.tod

/-- The flags byte of a folio with bit 1 set or cleared by the part, the host's bits kept. -/
def State.stampedFlags (s : State) (i : Nat) : Byte :=
  let old := s.mem.read (s.folioAddr i + 2)
  if s.timeUnset then old ||| 2 else old &&& 0xFD

/-- spec/11: the turn codes the part writes. -/
def turnTaken : Nat := 2
def turnAnswered : Nat := 3
def turnLent : Nat := 4
def turnFilled : Nat := 5

def State.setTurn (i turn : Nat) (s : State) : State := s.put (s.folioAddr i) (out 1 turn)

def State.setReport (f : ReportUnit → ReportUnit) (s : State) : State := { s with report := f s.report }

def State.setExch (f : Exchange → Exchange) (s : State) : State := { s with exch := f s.exch }

/-! ## Starving (R172) -/

/-- R169: a mark waits, or a report is in progress. -/
def State.hasWork (s : State) : Bool :=
  decide (s.net.marks.urgent ≠ []) || decide (s.net.marks.ordinary ≠ []) || s.report.inProgress.isSome

/-- R169: a folio is being filled, or one is lent. -/
def State.hasFolio (s : State) : Bool := s.report.filling.isSome || decide (s.exch.lent ≠ [])

/-- R172. -/
def State.starving (s : State) : Bool := s.hasWork && !s.hasFolio

/-- R172: STARVED latched in an event in which the report unit is starving; judged at the event's end (log 24). -/
def State.judgeStarved (s : State) : State := if s.starving then s.latch .starved else s

/-- The outcome of every event: the state it leaves, with STARVED judged. No event faults (log 22). -/
def State.concluded (s : State) : Host.Outcome State Fault Refusal := .next s.judgeStarved

/-! ## Notices to the owners of slots (R79, R107, R145, R173, R174) -/

/-- A slot's state changed from one value to another. -/
def shiftSlot {α : Type} (old new : SlotState) (sl : Slot α) : Slot α := if sl.state = old then { sl with state := new } else sl

/-- A RETIRING slot made FREE: its record is gone, its serial kept. -/
def vacate {α : Type} (sl : Slot α) : Slot α := if sl.state = .retiring then { sl with state := .free, record := none } else sl

/-- R173: the closing report of a record has been written. -/
def Net.retire (r : RecordName) (n : Net) : Net :=
  match r with
  | .incident i => { n with incidents := n.incidents.modify i (shiftSlot .inUse .retiring) }
  | .plan i => { n with plans := n.plans.modify i (shiftSlot .inUse .retiring) }
  | .outage i => { n with outages := n.outages.modify i (shiftSlot .inUse .retiring) }
  | _ => n

/-- R174: a closing report was lost with its folio. -/
def Net.unretire (r : RecordName) (n : Net) : Net :=
  match r with
  | .incident i => { n with incidents := n.incidents.modify i (shiftSlot .retiring .inUse) }
  | .plan i => { n with plans := n.plans.modify i (shiftSlot .retiring .inUse) }
  | .outage i => { n with outages := n.outages.modify i (shiftSlot .retiring .inUse) }
  | _ => n

/-- R173: the folio holding a closing report has been returned. -/
def Net.vacate (r : RecordName) (n : Net) : Net :=
  match r with
  | .incident i => { n with incidents := n.incidents.modify i Machine.vacate }
  | .plan i => { n with plans := n.plans.modify i Machine.vacate }
  | .outage i => { n with outages := n.outages.modify i Machine.vacate }
  | _ => n

def RecordName.isOutage : RecordName → Bool
  | .outage _ => true
  | _ => false

/-- R145, R173: the slots that a returned folio frees, all before the notice of a freed outage slot. -/
def Net.freeRetired (rs : List Retiring) (n : Net) : Net :=
  let n1 := overEach (fun (r : Retiring) n => n.vacate r.record) rs n
  if rs.any (fun r => r.record.isOutage) then n1.outageSlotFreed else n1

/-! ## Returning and losing a folio (R171, R174) -/

/-- The header of a returned folio, turn last (R171). -/
def State.writeReturned (i count : Nat) (s : State) : State :=
  (s.put (s.folioAddr i + 2) ([some (s.stampedFlags i), none, none, none] ++ out 1 (16 * count) ++ out 1 count ++ out 8 s.stamp)).setTurn i
    turnFilled

/-- The folio items of R166 as no folio leaves them. -/
def ReportUnit.noFolio (r : ReportUnit) : ReportUnit :=
  { r with filling := none, count := 0, contents := [], flush := none, urgentOwed := false }

/-- R171: the folio being filled returned. -/
def State.returnFolio (s : State) : State :=
  match s.report.filling with
  | none => s
  | some f =>
    let s1 := (s.writeReturned f s.report.count).latch .return_
    let s2 := if s.report.urgentOwed then s1.latch .urgent else s1
    let freed := s.report.retiring.filter (fun r => r.folio = f)
    (s2.setReport (fun r => { r.noFolio with retiring := r.retiring.filter (fun x => x.folio ≠ f) })).onNet (Net.freeRetired freed)

/-- R174: a report in progress ended and its record marked again. -/
def State.endInProgress (s : State) : State :=
  match s.report.inProgress with
  | some p => (s.setReport (fun r => { r with inProgress := none })).onNet (Net.mark p.list p.record)
  | none => s

/-- R174: the folio being filled lost: its reports marked again, its closing slots IN-USE again. With none being filled nothing is lost, and
a report in progress between two shares stands (log 40). -/
def State.loseFolio (s : State) : State :=
  match s.report.filling with
  | none => s
  | some f =>
    let lost := s.report.retiring.filter (fun r => r.folio = f)
    let s1 := s.onNet (overEach (fun (c : ContentsEntry) n => n.mark c.list c.record) s.report.contents)
    let s2 := s1.endInProgress.onNet (overEach (fun (r : Retiring) n => n.unretire r.record) lost)
    s2.setReport (fun r => { r.noFolio with retiring := r.retiring.filter (fun x => x.folio ≠ f) })

/-! ## Writing (R169, R170, R187) -/

/-- R169: the report unit writes in RUNNING and HALTING, with something to write and a folio. -/
def State.mayWrite (s : State) : Bool :=
  decide (s.net.mode = .running ∨ s.net.mode = .halting) && s.hasWork && s.hasFolio

/-- R169: a folio taken from the head of the lent list when none is being filled, in the event that writes into it (log 39). -/
def State.takeLent (s : State) : State :=
  match s.report.filling, s.exch.lent with
  | none, i :: rest =>
    (s.setExch (fun x => { x with lent := rest })).setReport (fun r => { r.noFolio with filling := some i })
  | _, _ => s

/-- R169: the report to write next, content records first taken now: the report in progress, the URGENT head, the ORDINARY head. -/
def State.nextReport (s : State) : Option ReportInProgress :=
  let fresh (r : RecordName) (k : MarkKind) : ReportInProgress :=
    { record := r, list := k, closing := s.net.closing r, serial := s.net.serialOf r, time := s.net.now, rest := s.net.content r, part := 0
      parts := 1 }
  match s.report.inProgress with
  | some p => some p
  | none =>
    match s.net.marks.urgent, s.net.marks.ordinary with
    | r :: _, _ => some (fresh r .urgent)
    | [], r :: _ => some (fresh r .ordinary)
    | [], [] => none

/-- R187: the shares of a report too long for one folio: each a head and up to 14 content records. -/
def shareCount (contents : Nat) : Nat := (contents + 13) / 14

/-- R169: a record leaves the list it is taken from. -/
def Marks.remove (m : Marks) (r : RecordName) : Marks :=
  { urgent := m.urgent.filter (fun x => x ≠ r), ordinary := m.ordinary.filter (fun x => x ≠ r) }

/-- The head of a share. -/
def ReportInProgress.head (p : ReportInProgress) (contents : Nat) : HeadRecord where
  kind := p.record.kind
  closing := p.closing
  urgent := decide (p.list = .urgent)
  records := contents + 1
  part := p.part
  parts := p.parts
  ident := p.record.ident
  serial := p.serial
  time := p.time

/-- R169, R170: one share of a report written into the folio being filled. -/
def State.writeShare (f : Nat) (p : ReportInProgress) (s : State) : State :=
  let room := Config.recordsPerFolio - s.report.count
  let contents := p.rest.take (room - 1)
  let rest := p.rest.drop (room - 1)
  let last := decide (rest = [])
  let s1 := s.put (s.folioAddr f + Config.headerBytes + Config.recordBytes * s.report.count) (shareBytes (p.head contents.length) contents)
  let s2 := s1.setReport (fun r =>
    { r with
      count := r.count + contents.length + 1
      contents := r.contents ++ [{ record := p.record, list := p.list, closing := p.closing }]
      flush := if r.count = 0 then some (s.net.now + r.flushInterval) else r.flush
      urgentOwed := r.urgentOwed || (last && decide (p.list = .urgent))
      inProgress := if last then none else some { p with rest := rest, part := p.part + 1 }
      retiring := if last && p.closing then r.retiring ++ [{ record := p.record, folio := f }] else r.retiring })
  let s3 := if s.report.inProgress.isSome then s2 else s2.onNet (fun n => { n with marks := n.marks.remove p.record })
  if last && p.closing then s3.onNet (Net.retire p.record) else s3

/-- R171: the first two causes of a return, after a write. -/
def State.returnDue (s : State) : Bool :=
  decide (s.report.count = Config.recordsPerFolio) ||
    (s.report.urgentOwed && decide (s.net.marks.urgent = []) && s.report.inProgress.isNone)

/-- R170: what a write makes of the report chosen. -/
inductive Fit where
  | fits | returnFirst | split
deriving DecidableEq, Repr

def State.fit (s : State) (p : ReportInProgress) : Fit :=
  if s.report.inProgress.isSome then .fits
  else if s.report.count + p.rest.length + 1 ≤ Config.recordsPerFolio then .fits
  else if s.report.count = 0 then .split
  else .returnFirst

/-- R169, R170: one write, without the return that may follow; `none` when the folio is to be returned first. -/
def State.writeNext (s : State) : Option State :=
  match s.report.filling, s.nextReport with
  | some f, some p =>
    match s.fit p with
    | .fits => some (s.writeShare f p)
    | .split => some (s.writeShare f { p with parts := shareCount p.rest.length })
    | .returnFirst => none
  | _, _ => some s

/-- R169 to R171: one event of the report unit. -/
def State.writeReport (s : State) : State :=
  if s.mayWrite then
    match s.takeLent.writeNext with
    | some s1 => if s1.returnDue then s1.returnFolio else s1
    | none => s.takeLent.returnFolio
  else s

/-- R171: the flush timer has expired, in RUNNING or HALTING. -/
def State.flushDue (s : State) : Bool :=
  decide (s.net.mode = .running ∨ s.net.mode = .halting) && s.report.flush.any (fun t => decide (t ≤ s.net.now))

/-! ## The drain (R175) -/

/-- R175 step 3: every lent folio returned, from the head. -/
def State.returnLent : List Nat → State → State
  | [], s => s.setExch (fun x => { x with lent := [] })
  | i :: rest, s => State.returnLent rest ((s.writeReturned i 0).latch .return_)

/-- R175: the drain finished in one event. -/
def State.finishDrain (s : State) : State :=
  let s1 := s.returnFolio.endInProgress
  (State.returnLent s1.exch.lent s1).setReport (fun r => { r with drained := true })

/-- R175: the drain of HALTING goes on while there is something to write and a folio. -/
def State.drainOver (s : State) : Bool := decide (s.net.mode = .halting) && !s.report.drained && !(s.hasWork && s.hasFolio)

def State.drain (s : State) : State := if s.drainOver then s.finishDrain else s

/-! ## Returns that a bus error cuts off (R163, R175; log 18) -/

/-- R175: what the finish of the drain has done when its return number `k`, from 0, fails: the folio being filled is returned first, then
the lent ones from the head. -/
def State.finishedBefore (k : Nat) (s : State) : State :=
  match s.report.filling, k with
  | some _, 0 => s
  | some _, j + 1 => State.returnLent (s.exch.lent.take j) s.returnFolio.endInProgress
  | none, j => State.returnLent (s.exch.lent.take j) s.endInProgress

/-- What the drain has done in an event whose return number `k` fails, when the event finishes the drain. -/
def State.drainedBefore (k : Nat) (s : State) : State := if s.drainOver then s.finishedBefore k else s

/-- What an event has done when its return number `k` fails; `due` says that it returns the folio being filled ahead of the drain. -/
def State.returnedBefore (due : Bool) (k : Nat) (s : State) : State :=
  match due, k with
  | true, 0 => s
  | true, j + 1 => s.returnFolio.drainedBefore j
  | false, j => s.drainedBefore j

/-- What a write of a report has done when the event's return number `k` fails. -/
def State.writtenBefore (k : Nat) (s : State) : State :=
  match s.takeLent.writeNext with
  | some s1 => s1.returnedBefore s1.returnDue k
  | none => s.takeLent.returnedBefore true k

end Sys2Proof.Machine
end

