-- ==== Sys2Proof/Machine/Clock.lean ====
section
/-! DEFINITION. The time-of-day clock (R162, R178). -/

namespace Sys2Proof.Machine

/-- Every year from 2000 to 2099 divisible by 4 is a leap year. -/
def leapYear (y : Nat) : Bool := decide (y % 4 = 0)

def daysInMonth (y m : Nat) : Nat :=
  match m with
  | 1 | 3 | 5 | 7 | 8 | 10 | 12 => 31
  | 4 | 6 | 9 | 11 => 30
  | 2 => if leapYear y then 29 else 28
  | _ => 0

/-- Days from 2000-01-01 to the first day of a year. -/
def daysToYear (y : Nat) : Nat := 365 * (y - 2000) + (y - 2000 + 3) / 4

/-- Days of a year before a month. -/
def daysToMonth (y m : Nat) : Nat := ((List.range m).map (daysInMonth y)).sum

/-- R162: the checks of a CLOCK order. -/
def clockOk (b : ClockBody) : Bool :=
  decide (2000 ≤ b.year.toNat ∧ b.year.toNat ≤ 2099 ∧ 1 ≤ b.month.toNat ∧ b.month.toNat ≤ 12 ∧ 1 ≤ b.day.toNat ∧
    b.day.toNat ≤ daysInMonth b.year.toNat b.month.toNat ∧ b.hour.toNat ≤ 23 ∧ b.minute.toNat ≤ 59 ∧ b.second.toNat ≤ 59 ∧
    b.ms.toNat ≤ 999)

/-- Milliseconds since 2000-01-01 00:00:00.000. -/
def clockMs (b : ClockBody) : Nat :=
  Config.msPerDay * (daysToYear b.year.toNat + daysToMonth b.year.toNat b.month.toNat + (b.day.toNat - 1)) + 3600000 * b.hour.toNat +
    60000 * b.minute.toNat + 1000 * b.second.toNat + b.ms.toNat

/-- R162. -/
def State.takeClock (b : ClockBody) (s : State) : State × Answer :=
  if clockOk b then ({ s with tod := clockMs b, timeUnset := false }, .plain .done) else (s, .plain .badForm)

/-- R178: the time of day restarted from 2000-01-01 00:00:00.000 with TIME-UNSET set. -/
def State.restartTimeOfDay (s : State) : State := { s with tod := 0, timeUnset := true }

/-- One millisecond on both clocks (log 3): the run clock in 48 bits, the time of day with its rollover (log 30). -/
def State.tick (s : State) : State :=
  let s1 := s.onNet (fun n => { n with now := (n.now + 1) % Config.runClockModulus })
  if s.tod + 1 < Config.timeOfDayModulus then { s1 with tod := s.tod + 1 } else s1.restartTimeOfDay

end Sys2Proof.Machine
end

