-- ==== Sys2Proof/Machine/Exchange.lean ====
section
/-! DEFINITION. The exchange unit (spec/08): answers, taking folios, sweeps, the stall, exchange faults, and the order commands. -/

namespace Sys2Proof.Machine

/-! ## Answers (R158) -/

/-- What an answer writes from the flags byte on: flags, code, body length, portions, stamp and body. -/
def answerBytes (flags : Byte) (stamp : Nat) (a : Answer) : List OutByte :=
  [some flags] ++ out 1 a.code.code ++ [none, none] ++ out 1 a.body.length ++
    (match a.portions with
     | some k => out 1 k
     | none => [none]) ++ out 8 stamp ++ a.body

/-- An answer written into a folio, turn last; ANSWER latched when its notify flag is set. Nothing is written while the exchange is out of
reach (R164). -/
def State.writeAnswer (r : Reply) (s : State) : State :=
  if s.exch.reachable then
    let a := s.folioAddr r.folio
    let notify := (s.mem.read (a + 2)).getLsbD 0
    let s1 := (s.put (a + 2) (answerBytes (s.stampedFlags r.folio) s.stamp r.answer)).setTurn r.folio turnAnswered
    if notify then s1.latch .answer else s1
  else s

/-! ## Exchange faults (R163, R164) -/

/-- R164: the stalled order ended without an answer. -/
def State.dropStall (s : State) : State :=
  let s1 := match s.exch.stall with
    | some (.plan folio) =>
      match s.net.planOfFolio folio with
      | some i => s.onNet (Net.freePlan (slotRef s.net.plans i))
      | none => s
    | _ => s
  s1.setExch (fun x => { x with stall := none })

/-- R163: what every exchange fault does: code, FAULT, no sweep, no timer, nothing owed, no lent folio, the folio being filled lost. -/
def State.faultCommon (c : FaultCode) (s : State) : State :=
  ((s.setExch (fun x =>
    { x with faultCode := c, sweep := none, sweepTimer := none, sweepOwed := false, lent := [], reachable := false })).latch .fault).loseFolio

/-- R163, R175: an exchange fault in RUNNING takes the part to DETACHED; one in HALTING ends its exchange accesses and its drain, and with
the drain a report in progress (R174), whether or not a folio is being filled. -/
def State.exchangeFault (c : FaultCode) (s : State) : State :=
  match s.net.mode with
  | .running => (s.faultCommon c).dropStall.onNet (fun n => { n with mode := .detached })
  | .halting => if s.exch.reachable then (s.faultCommon c).endInProgress.setReport (fun r => { r with drained := true }) else s
  | .halted | .starting | .detached => s

/-! ## Sweeps (R156, R157) -/

def State.turnOf (s : State) (i : Nat) : Nat := (s.mem.read (s.folioAddr i)).toNat

def State.linkOf (s : State) (i : Nat) : Nat := s.mem.number (s.folioAddr i + 4) 2

/-- spec/11: the turn POSTED. -/
def turnPosted : Nat := 1

/-- R157 steps 2 and 3: the header of the cursor folio. -/
def State.walk (c : Nat) (s : State) : State :=
  if s.turnOf c ≤ turnPosted then s.exchangeFault .cursorDisturbed
  else if s.linkOf c = Config.noneHalf then s.setExch (fun x => { x with sweep := some .ending })
  else if s.exch.folioCount ≤ s.linkOf c then s.exchangeFault .badLink
  else s.setExch (fun x => { x with sweep := some (.atLink (s.linkOf c)) })

/-- R156, R157: a sweep begins. -/
def State.beginSweep (s : State) : State :=
  match s.exch.cursor with
  | none => s.setExch (fun x => { x with sweep := some .atStart })
  | some c => s.walk c

/-- R156: a sweep asked for by LOOK or the timer. -/
def State.askSweep (s : State) : State :=
  if s.net.mode = .running ∧ s.exch.stall = none then
    if s.exch.sweep.isSome then s.setExch (fun x => { x with sweepOwed := true }) else s.beginSweep
  else s

/-- The folio whose header a running sweep reads next. -/
def Exchange.nextFolio (x : Exchange) : Option Nat :=
  match x.sweep with
  | some .atStart => some x.chainStart
  | some (.atLink i) => some i
  | some .ending | none => none

/-- R157: the sweep has found its end: a link of NONE, or a folio that is not POSTED. -/
def State.sweepOver (s : State) : Bool :=
  match s.exch.sweep with
  | some .ending => true
  | some .atStart | some (.atLink _) => s.exch.nextFolio.all (fun i => s.turnOf i ≠ turnPosted)
  | none => false

/-- R156: the sweep timer started for one sweep interval. -/
def State.startSweepTimer (s : State) : State :=
  s.setExch (fun x => { x with sweepTimer := some (s.net.now + x.sweepInterval) })

/-- R156: a sweep ends; an owed one begins in place of the timer. -/
def State.endSweep (s : State) : State :=
  let s1 := s.setExch (fun x => { x with sweep := none, sweepOwed := false })
  if s.exch.sweepOwed then s1.beginSweep else s1.startSweepTimer

/-- R156, R159: a stall ends the sweep (log 15). -/
def State.stallSweep (st : Stalled) (s : State) : State :=
  (s.setExch (fun x => { x with stall := some st, sweep := none, sweepOwed := false })).startSweepTimer

/-! ## Orders handed to their owners -/

def onNetAnswer (f : Net → Net × Answer) (s : State) : State × OrderResult :=
  let q := f s.net
  ({ s with net := q.1 }, .answered q.2)

/-- The same, with the choices of the lines at the end of the event (R21). -/
def onNetAnswerLines (f : Net → Net × Answer) (s : State) : State × OrderResult :=
  let q := f s.net
  ({ s with net := q.1.arbitrateAll }, .answered q.2)

def onNetResult (f : Net → Net × OrderResult) (s : State) : State × OrderResult :=
  let q := f s.net
  ({ s with net := q.1 }, q.2)

/-- spec/08: the order handed to its owner; a LEND is the exchange unit's own (R160). -/
def State.runOrder (folio : Nat) (o : Order) (s : State) : State × OrderResult :=
  match o with
  | .call b => onNetAnswer (Net.takeCall b) s
  | .act b => onNetAnswer (Net.takeAct b) s
  | .plan b => onNetResult (Net.takePlan b folio) s
  | .proceed b => onNetAnswerLines (Net.takeProceed b) s
  | .abandon b => onNetAnswerLines (Net.takeAbandon (bodyRef b)) s
  | .restore b => onNetAnswer (Net.takeRestore (bodyRef b)) s
  | .relight b => onNetAnswer (Net.takeRelight b) s
  | .valveNote b => onNetAnswer (Net.takeNote b) s
  | .source b => onNetResult (Net.takeSource b folio) s
  | .line b => onNetAnswerLines (Net.takeLine b) s
  | .limits b => onNetAnswer (Net.takeLimits b) s
  | .lend => (s, .answered (.plain .noRoom))
  | .query b => (s, .answered (s.answerQuery b))
  | .clock b =>
    let q := s.takeClock b
    (q.1, .answered q.2)

/-- R160. -/
def State.lend (folio : Nat) (s : State) : State :=
  if s.exch.lent.length < Config.lentMax then
    (s.setTurn folio turnLent).setExch (fun x => { x with lent := x.lent ++ [folio] })
  else s.writeAnswer { folio := folio, answer := .plain .noRoom }

/-! ## Taking a folio (R158) -/

/-- R158: a folio recorded by a pending PLAN or SOURCE is lost to it. -/
def Net.loseOrderFolio (folio : Nat) (n : Net) : Net :=
  { n with
    plans := n.plans.map (Slot.update (fun p => if p.folio = some folio then { p with folio := none } else p))
    survey := { n.survey with queue := n.survey.queue.map (Subject.loseFolio folio) } }

/-- R158: a taken folio leaves the lent list and whatever held it. -/
def State.reclaim (folio : Nat) (s : State) : State :=
  let s1 := s.setExch (fun x => { x with lent := x.lent.filter (fun i => i ≠ folio), cursor := some folio })
  let s2 := if s.report.filling = some folio then s1.loseFolio else s1
  s2.onNet (Net.loseOrderFolio folio)

/-- R158, R159: what an owner's result brings to the folio. -/
def State.settleOrder (folio : Nat) (q : State × OrderResult) : State :=
  match q.2 with
  | .answered a => q.1.writeAnswer { folio := folio, answer := a }
  | .pending => q.1
  | .stalled st => q.1.stallSweep st

/-- R154: whether a taken folio is turned TAKEN: neither a LEND nor a header refused BAD-FORM is; an order whose body is too short is. -/
def turnsTaken : PostedOrder → Bool
  | .badHeader | .order .lend => false
  | .shortBody | .order _ => true

/-- R154: the turn TAKEN of a taken folio, where it has one. -/
def State.writeTaken (folio : Nat) (o : PostedOrder) (s : State) : State := if turnsTaken o then s.setTurn folio turnTaken else s

/-- R158, R160: whether the event that takes a folio also ends its turn, with an answer or with the turn LENT. -/
def State.endsTurn (folio : Nat) (o : PostedOrder) (s : State) : Bool :=
  match o with
  | .badHeader | .shortBody | .order .lend => true
  | .order o => (s.runOrder folio o).2.atOnce

/-- R158, R159, R160: a taken folio, its order read. A header refused BAD-FORM has no turn TAKEN; a body too short is its owner's to refuse,
after it (R185). -/
def State.serveFolio (folio : Nat) (o : PostedOrder) (s : State) : State :=
  match o with
  | .badHeader => s.writeAnswer { folio := folio, answer := .plain .badForm }
  | .shortBody => State.settleOrder folio (s.setTurn folio turnTaken, .answered (.plain .badForm))
  | .order .lend => s.lend folio
  | .order o => State.settleOrder folio ((s.setTurn folio turnTaken).runOrder folio o)

/-- R157, R158: a folio taken, and the walk resumed from it unless the sweep has ended. -/
def State.takeFolio (folio : Nat) (o : PostedOrder) (s : State) : State :=
  let s1 := (s.reclaim folio).serveFolio folio o
  if s1.exch.stall.isSome then s1 else s1.walk folio

/-- R158: the order in a folio, as host memory gives it. -/
def State.readFolio (s : State) (i : Nat) : PostedOrder :=
  readPosted (s.mem.read (s.folioAddr i + 1)) (s.mem.read (s.folioAddr i + 6))
    (s.mem.bytes (s.folioAddr i + Config.headerBytes) Config.bodyMax)

/-- R157: the POSTED folio whose header a running sweep reads, with the order in it. -/
def State.postedNext (s : State) : Option (Nat × PostedOrder) :=
  match s.exch.nextFolio with
  | some i => if s.net.mode = .running ∧ s.turnOf i = turnPosted then some (i, s.readFolio i) else none
  | none => none

/-- R157: a running sweep takes it. -/
def State.sweepTake (s : State) : State :=
  match s.postedNext with
  | some (i, o) => s.takeFolio i o
  | none => s

/-! ## Order commands (log 7) -/

/-- The bytes the host posts: turn, kind, notify flag, link and body length of the header, then the body. -/
def postBytes (p : Post) (o : Order) : List OutByte :=
  [some 1, some o.kind, some (if p.notify then 1 else 0), none] ++ (halfBytes p.link).map some ++ [some p.bodyLen] ++
    List.replicate 9 none ++ o.bytes.map some

/-- The host posts an order into a folio. -/
def State.hostPosts (folio : Nat) (p : Post) (o : Order) (s : State) : State :=
  { s with mem := s.mem.writeOut (s.folioAddr folio) (postBytes p o) }

/-- R158, R185: the order as its header and its body length let it be read. -/
def postedOrder (p : Post) (o : Order) : PostedOrder :=
  if Config.bodyMax < p.bodyLen.toNat then .badHeader else if p.bodyLen.toNat < o.bytes.length then .shortBody else .order o

/-- An order command: the host posts the order in the folio a running sweep reads next, and the sweep takes it (log 7). -/
def State.takeOrder (p : Post) (o : Order) (s : State) : State :=
  match s.exch.nextFolio with
  | some i => if s.net.mode = .running then ((s.hostPosts i p o).takeFolio i (postedOrder p o)) else s
  | none => s

/-! ## The end of a stall (R159) -/

/-- R159: a free-place notice. -/
def State.freePlace (s : State) : State :=
  match s.exch.stall with
  | none => s
  | some st =>
    match s.net.reoffer st with
    | none => s
    | some n =>
      let s1 := ({ s with net := n }).setExch (fun x => { x with stall := none })
      if s.net.mode = .running then s1.beginSweep else s1

end Sys2Proof.Machine
end

