-- ==== Sys2Proof/Machine/Charter.lean ====
section
/-! DEFINITION. The charter and the table images (spec/11), their checks (R153, R180, R4 to R7, R18, R81) and the network they build
(R2, R5, R6, R8, R14, R42, R52). -/

namespace Sys2Proof.Machine

/-! ## The charter -/

/-- A value, or its default when out of range (R18, R81, R153). -/
def inRange (lo hi default x : Nat) : Nat := if lo ≤ x ∧ x ≤ hi then x else default

/-- R18: what the charter gives a line. -/
structure LineValues where
  params : LineParams
  listenTimeout : Nat
  permit : Bool
deriving DecidableEq, Repr

/-- An image descriptor. -/
structure ImageAt where
  addr : Nat
  count : Nat
deriving DecidableEq, Repr

/-- The charter as read (spec/11), defaults taken. -/
structure Charter where
  signature : List Byte
  version : Nat
  folioCount : Nat
  chainStart : Nat
  sweepInterval : Nat
  flushInterval : Nat
  zones : ImageAt
  sources : ImageAt
  valves : ImageAt
  stations : ImageAt
  points : ImageAt
  lines : Quad LineValues
  params : IncidentParams
deriving DecidableEq, Repr

/-- The bytes of the signature. -/
def signatureBytes : List Byte := [0x53, 0x47, 0x32, 0x36]

def readLineValues (m : Memory) (a : Nat) : LineValues where
  params :=
    { speed := (Speed.ofCode (m.number a 1)).getD .b9600
      window := inRange 2 255 Config.windowDefault (m.number (a + 1) 1)
      gap := inRange 2 250 Config.gapDefault (m.number (a + 2) 1) }
  listenTimeout := inRange 5 3600 Config.listenTimeoutDefault (m.number (a + 4) 2)
  permit := decide (m.number (a + 3) 1 = 1)

def readImageAt (m : Memory) (a : Nat) : ImageAt := { addr := m.number a 8, count := m.number (a + 8) 2 }

def readCharter (m : Memory) (a : Nat) : Charter where
  signature := m.bytes a 4
  version := m.number (a + 4) 2
  folioCount := m.number (a + 6) 2
  chainStart := m.number (a + 8) 2
  sweepInterval := inRange 1 250 Config.sweepIntervalDefault (m.number (a + 10) 2)
  flushInterval := inRange 10 5000 Config.flushIntervalDefault (m.number (a + 12) 2)
  zones := readImageAt m (a + 16)
  sources := readImageAt m (a + 32)
  valves := readImageAt m (a + 48)
  stations := readImageAt m (a + 64)
  points := readImageAt m (a + 80)
  lines := ⟨readLineValues m (a + 96), readLineValues m (a + 104), readLineValues m (a + 112), readLineValues m (a + 120)⟩
  params :=
    { class1 := inRange 1 1440 Config.class1Default (m.number (a + 128) 2)
      class2 := inRange 1 1440 Config.class2Default (m.number (a + 130) 2)
      class3 := inRange 1 1440 Config.class3Default (m.number (a + 132) 2)
      window := inRange 1 120 Config.correlationWindowDefault (m.number (a + 134) 2)
      radius := inRange 0 3 Config.correlationRadiusDefault (m.number (a + 136) 1)
      escalation := inRange 2 8 Config.escalationDefault (m.number (a + 137) 1) }

/-- R180, checks 1 to 4. -/
def Charter.fault (c : Charter) : Option FaultCode :=
  if c.signature ≠ signatureBytes then some .signature
  else if c.version ≠ 1 then some .version
  else if c.folioCount = 0 ∨ Config.folioMax < c.folioCount then some .size
  else if c.folioCount ≤ c.chainStart then some .reference
  else none

/-! ## Image entries -/

structure RawZone where
  customers : Nat
  tier : Nat
  gridX : Nat
  gridY : Nat
deriving DecidableEq, Repr

structure RawSource where
  point : Nat
  initial : Nat
deriving DecidableEq, Repr

structure RawValve where
  nodeA : Nat
  nodeB : Nat
  kind : Nat
  initial : Nat
  station : Nat
  travel : Nat
deriving DecidableEq, Repr

structure RawStation where
  line : Nat
  address : Byte
  kind : Nat
  poll : Nat
deriving DecidableEq, Repr

structure RawPoint where
  station : Nat
  slot : Nat
  zone : Nat
  settings : Settings
deriving DecidableEq, Repr

/-- The five images as read. -/
structure Images where
  zones : List RawZone
  sources : List RawSource
  valves : List RawValve
  stations : List RawStation
  points : List RawPoint
deriving DecidableEq, Repr

def readZone (m : Memory) (a : Nat) : RawZone where
  customers := m.number a 2
  tier := m.number (a + 2) 1
  gridX := m.number (a + 4) 2
  gridY := m.number (a + 6) 2

def readSourceEntry (m : Memory) (a : Nat) : RawSource where
  point := m.number a 2
  initial := m.number (a + 2) 1

def readValve (m : Memory) (a : Nat) : RawValve where
  nodeA := m.number a 1
  nodeB := m.number (a + 1) 1
  kind := m.number (a + 2) 1
  initial := m.number (a + 3) 1
  station := m.number (a + 4) 2
  travel := m.number (a + 6) 2

def readStation (m : Memory) (a : Nat) : RawStation where
  line := m.number a 1
  address := m.read (a + 1)
  kind := m.number (a + 2) 1
  poll := m.number (a + 3) 1

def readPoint (m : Memory) (a : Nat) : RawPoint where
  station := m.number a 2
  slot := m.number (a + 2) 1
  zone := m.number (a + 3) 1
  settings :=
    { ll := m.number (a + 4) 2
      l := m.number (a + 6) 2
      h := m.number (a + 8) 2
      hh := m.number (a + 10) 2
      deadband := m.number (a + 12) 2
      confirm := m.number (a + 14) 1
      stale := m.number (a + 16) 2 }

/-- The entries of an image, `size` bytes each. -/
def readEntriesAt {α : Type} (read : Nat → α) (size : Nat) (d : ImageAt) : List α :=
  (List.range d.count).map (fun i => read (d.addr + size * i))

def readImages (m : Memory) (c : Charter) : Images where
  zones := readEntriesAt (readZone m) 8 c.zones
  sources := readEntriesAt (readSourceEntry m) 4 c.sources
  valves := readEntriesAt (readValve m) 8 c.valves
  stations := readEntriesAt (readStation m) 8 c.stations
  points := readEntriesAt (readPoint m) 20 c.points

/-! ## Checks of the images (R180, checks 5 to 8) -/

/-- A start fault: code, table, entry. -/
structure StartFault where
  code : FaultCode
  table : Table
  entry : Nat
deriving DecidableEq, Repr

/-- Check 5: the counts, in the order of the descriptors. -/
def Charter.countFault (c : Charter) : Option StartFault :=
  let bad (t : Table) : Option StartFault := some { code := .size, table := t, entry := 0 }
  if c.zones.count = 0 ∨ Config.zoneMax < c.zones.count then bad .zones
  else if c.sources.count = 0 ∨ Config.sourceMax < c.sources.count then bad .sources
  else if Config.valveMax < c.valves.count then bad .valves
  else if Config.stationMax < c.stations.count then bad .stations
  else if Config.pointMax < c.points.count then bad .points
  else none

/-- The first entry of a list that fails its check, which sees the entries before it. -/
def firstBad {α : Type} (ok : List α → α → Bool) : List α → List α → Nat → Option Nat
  | _, [], _ => none
  | before, x :: rest, i => if ok before x then firstBad ok (before ++ [x]) rest (i + 1) else some i

/-- R180. -/
def stationOk (before : List RawStation) (x : RawStation) : Bool :=
  decide (x.line ≤ 3 ∧ 1 ≤ x.address.toNat ∧ x.address.toNat ≤ 250) && (StationKind.ofCode x.kind).isSome &&
    (PollClass.ofCode x.poll).isSome && before.all (fun y => y.line ≠ x.line ∨ y.address ≠ x.address) &&
    decide ((before.filter (fun y => y.line = x.line)).length < Config.stationsPerLine)

/-- R180. -/
def pointOk (stations : List RawStation) (zones : Nat) (before : List RawPoint) (x : RawPoint) : Bool :=
  (stations[x.station]?).any (fun s => StationKind.ofCode s.kind ≠ some .valve) && decide (x.slot ≤ 7) &&
    before.all (fun y => y.station ≠ x.station ∨ y.slot ≠ x.slot) && decide (x.zone < zones) && x.settings.ok

/-- R4. -/
def zoneOk (_before : List RawZone) (x : RawZone) : Bool :=
  (Tier.ofCode x.tier).isSome && decide (x.gridX ≤ Config.gridMax ∧ x.gridY ≤ Config.gridMax)

/-- R6. -/
def sourceOk (points : Nat) (_before : List RawSource) (x : RawSource) : Bool :=
  (SourceState.ofCode x.initial).isSome && decide (x.point = Config.noneHalf ∨ x.point < points)

/-- R1: a node of the network. -/
def nodePresent (zones sources node : Nat) : Bool :=
  if node < Config.zoneMax then decide (node < zones) else decide (node - Config.zoneMax < sources)

/-- R7: a REMOTE valve's station and travel limit, a MANUAL valve's absent code and initial position. -/
def valveKindOk (stations : List RawStation) (before : List RawValve) (x : RawValve) : Bool :=
  match ValveKind.ofCode x.kind with
  | some .remote =>
    (stations[x.station]?).any (fun s => StationKind.ofCode s.kind = some .valve ∨ StationKind.ofCode s.kind = some .combined) &&
      before.all (fun y => y.station ≠ x.station) && decide (5 ≤ x.travel ∧ x.travel ≤ 600)
  | some .manual => decide (x.station = Config.noneHalf ∧ x.initial ≤ Config.positionMax)
  | none => false

/-- R2, R7. -/
def valveOk (zones sources : Nat) (stations : List RawStation) (before : List RawValve) (x : RawValve) : Bool :=
  nodePresent zones sources x.nodeA && nodePresent zones sources x.nodeB && decide (x.nodeA ≠ x.nodeB) &&
    valveKindOk stations before x

/-- R180, checks 6 to 8. -/
def Images.fault (g : Images) : Option StartFault :=
  let bad (t : Table) (i : Option Nat) : Option StartFault := i.map (fun i => { code := .reference, table := t, entry := i })
  ((((bad .stations (firstBad stationOk [] g.stations 0)).orElse (fun _ =>
    bad .points (firstBad (pointOk g.stations g.zones.length) [] g.points 0))).orElse (fun _ =>
    bad .zones (firstBad zoneOk [] g.zones 0))).orElse (fun _ =>
    bad .sources (firstBad (sourceOk g.points.length) [] g.sources 0))).orElse (fun _ =>
    bad .valves (firstBad (valveOk g.zones.length g.sources.length g.stations) [] g.valves 0))

/-- R180: the whole of STARTING's checks; the charter, or the start fault, its entry 0 where the check names none (log 41). -/
def startCheck (m : Memory) (base : Nat) : Except StartFault (Charter × Images) :=
  let c := readCharter m base
  match c.fault with
  | some code => .error { code := code, table := .charter, entry := 0 }
  | none =>
    match c.countFault with
    | some f => .error f
    | none =>
      match (readImages m c).fault with
      | some f => .error f
      | none => .ok (c, readImages m c)

/-! ## Building the network (R2 to R8, R14, R42, R52) -/

/-- Indices of the entries that satisfy a test, ascending. -/
def indicesOf {α : Type} (xs : List α) (p : α → Bool) : List Nat := idsWhere xs p

/-- R2: the valve list of a node. -/
def Images.valvesAt (g : Images) (node : Nat) : List Nat := indicesOf g.valves (fun v => v.nodeA = node ∨ v.nodeB = node)

def Images.buildZone (g : Images) (z : Nat) (x : RawZone) : Zone where
  customers := x.customers
  tier := (Tier.ofCode x.tier).getD .low
  gridX := x.gridX
  gridY := x.gridY
  points := indicesOf g.points (fun p => p.zone = z)
  valves := g.valvesAt z
  fed := .fed
  supply := .supplied
  outage := none
  summary := none

def Images.buildSource (g : Images) (i : Nat) (x : RawSource) : Source where
  point := if x.point = Config.noneHalf then none else some x.point
  initial := (SourceState.ofCode x.initial).getD .out
  valves := g.valvesAt (sourceNode i)
  state := (SourceState.ofCode x.initial).getD .out

/-- R7, R8, R14. -/
def buildValve (x : RawValve) : Valve :=
  let kind := (ValveKind.ofCode x.kind).getD .manual
  let initial := if kind = .manual then some x.initial else none
  let ps := match initial with
    | some p => posStateOfPosition p
    | none => .unknown
  { nodeA := x.nodeA, nodeB := x.nodeB, kind := kind
    station := if kind = .remote then some x.station else none
    travelLimit := if kind = .remote then x.travel else 0
    initialPosition := initial, position := initial, posState := ps, motion := none, closedLimit := none, openLimit := none
    selector := none, movedUnplanned := false, noted := false, positionTime := none, passing := passingOf ps, claim := none
    staged := none, inFlight := none, dwellEnd := none, stopPending := false, settleNext := false }

/-- R42: the points of a station in ascending order of slot. -/
def Images.stationPoints (g : Images) (st : Nat) : List Nat :=
  ((List.range 8).map (fun slot => indicesOf g.points (fun p => p.station = st ∧ p.slot = slot))).flatten

/-- R7, R42: the REMOTE valve that names a station. -/
def Images.stationValve (g : Images) (st : Nat) : Option Nat :=
  g.valves.findIdx? (fun v => ValveKind.ofCode v.kind = some .remote ∧ v.station = st)

/-- R42; R39: on a line in LISTEN role the last-heard time is the run clock at the end of STARTING, as `roles` gives them. -/
def Images.buildStation (g : Images) (now : Time) (roles : Quad Role) (st : Nat) (x : RawStation) : Station where
  line := Fin.ofNat 4 x.line
  address := x.address
  kind := (StationKind.ofCode x.kind).getD .pressure
  pollClass := (PollClass.ofCode x.poll).getD .fast
  points := g.stationPoints st
  valve := g.stationValve st
  status := .unknown
  silent := 0
  busy := 0
  backoff := 0
  resume := .unknown
  lastReply := none
  replyRef := now
  lastHeard := if roles.get (Fin.ofNat 4 x.line) = .listen then some now else none

/-- R52. -/
def buildPoint (now : Time) (x : RawPoint) : Point where
  station := x.station
  slot := x.slot
  zone := x.zone
  settings := x.settings
  value := none
  quality := .unknown
  band := .normal
  pendingBand := none
  freshSince := now

/-- R40: a line at a successful STARTING, released through SETTLING. -/
def Line.atStart (now : Time) (v : LineValues) (x : Line) : Line :=
  { Line.atReset (decide (x.strapRole = .master)) with
    state := .settling
    params := v.params
    listenTimeout := v.listenTimeout
    permit := v.permit
    since := now }

def Quad.zip {α β γ : Type} (f : α → β → γ) (a : Quad α) (b : Quad β) : Quad γ :=
  ⟨f a.q0 b.q0, f a.q1 b.q1, f a.q2 b.q2, f a.q3 b.q3⟩

/-- R168: the marks of a successful STARTING. -/
def startMarks (g : Images) : Marks where
  urgent := []
  ordinary :=
    (List.range g.zones.length).map .zone ++ (List.range g.sources.length).map .source ++ (List.range g.valves.length).map .valve ++
      (List.range g.stations.length).map .station ++ (List.range g.points.length).map .point ++ allLines.map .line

/-- R181: the network of a successful STARTING. -/
def buildNet (c : Charter) (g : Images) (n : Net) : Net where
  mode := .running
  now := n.now
  valid := true
  zones := g.zones.mapIdx g.buildZone
  sources := g.sources.mapIdx g.buildSource
  valves := g.valves.map buildValve
  stations := g.stations.mapIdx (g.buildStation n.now (n.lines.map Line.strapRole))
  points := g.points.map (buildPoint n.now)
  lines := Quad.zip (Line.atStart n.now) c.lines n.lines
  survey := { Survey.atReset with pendingReal := true }
  plans := freeSlots Plan Config.planSlots
  incidents := freeSlots Incident Config.incidentSlots
  params := c.params
  outages := freeSlots Outage Config.outageSlots
  outageSeq := 0
  marks := startMarks g

end Sys2Proof.Machine
end

