-- ==== Sys2Proof/Machine/Start.lean ====
section
/-! DEFINITION. Start, halt and resume (spec/10, R40, R77, R128, R150, R163, R165): the run-mode operations. -/

namespace Sys2Proof.Machine

/-! ## Hardware reset (R177) -/

/-- R177; host memory, the time of day and the waiting commands are no part of what it resets. -/
def State.hardReset (straps : Quad Bool) (s : State) : State :=
  { s with exch := Exchange.atReset, report := ReportUnit.atReset, net := Net.atReset straps }

/-! ## The cold start (R179 to R181) -/

/-- R179: a line of a cold start: command list, continuation and exchange emptied, HELD without the order hold flag being set. -/
def Line.coldStart (x : Line) : Line :=
  { x with commands := [], continuation := none, exchange := none, windowSince := none, frameBegun := false, pendingParams := none
           state := .held }

/-- R179: every record of the earlier run discarded. -/
def Net.coldStart (n : Net) : Net :=
  { n with
    mode := .starting
    valid := false
    zones := []
    sources := []
    valves := []
    stations := []
    points := []
    lines := n.lines.map Line.coldStart
    survey := Survey.atReset
    plans := []
    incidents := []
    outages := []
    marks := ⟨[], []⟩ }

/-- R149, R150, R155, R156, R160: what a taken RUN-COLD or RUN-WARM does in the exchange unit. MODE's table and entry go back to charter and
0, and stand so until a start fault (log 41). -/
def Exchange.takeRun (op : StartOp) (x : Exchange) : Exchange :=
  { x with
    faultCode := .none
    faultTable := .charter
    faultEntry := 0
    base := x.xbase.toNat
    cursor := none
    stall := none
    sweep := none
    sweepOwed := false
    sweepTimer := none
    lent := []
    reachable := false
    startOp := some op }

/-- R150, R179. -/
def State.runCold (s : State) : State :=
  if s.net.mode = .halted then
    ({ s with report := ReportUnit.atReset }.setExch (Exchange.takeRun .cold)).onNet Net.coldStart
  else s

/-- R180, R181: STARTING ended by a fault; a check that names no entry shows entry 0 (log 41). -/
def State.startFault (f : StartFault) (s : State) : State :=
  ((s.setExch (fun x => { x with faultCode := f.code, faultTable := f.table, faultEntry := f.entry, startOp := none })).onNet
    (fun n => { n with mode := .halted })).latch .fault

/-- R153, R183: the values the exchange unit takes from the charter. -/
def Exchange.takeCharter (c : Charter) (x : Exchange) : Exchange :=
  { x with folioCount := c.folioCount, chainStart := c.chainStart, sweepInterval := c.sweepInterval }

/-- R181: STARTING ended with success; the first sweep begins. -/
def State.startRun (c : Charter) (g : Images) (s : State) : State :=
  (((s.setExch (fun x => { x.takeCharter c with reachable := true, startOp := none })).setReport (fun r =>
    { r with flushInterval := c.flushInterval })).onNet (buildNet c g)).beginSweep

/-- R181: the end of a cold STARTING. -/
def State.endStarting (s : State) : State :=
  if s.exch.startOp = some .cold then
    match startCheck s.mem s.exch.base with
    | .error f => s.startFault f
    | .ok (c, g) => s.startRun c g
  else s

/-! ## Warm start (R183, R184) -/

/-- R150, R183; an answer that falls due from here on is written (R164). -/
def State.runWarm (s : State) : State :=
  if (s.net.mode = .halted ∧ s.net.valid) ∨ s.net.mode = .detached then
    (s.setExch (fun x =>
      { x.takeRun (.warmReading s.net.mode s.exch.cursor s.exch.base) with reachable := true })).onNet (fun n =>
        { n with mode := .starting })
  else s

/-- R183: a failed charter read returns the part to the mode it came from (log 16). -/
def State.failWarm (code : FaultCode) (mode : Mode) (cursor : Option Nat) (base : Nat) (s : State) : State :=
  ((s.setExch (fun x => { x with faultCode := code, cursor := cursor, base := base, reachable := false, startOp := none })).onNet
    (fun n => { n with mode := mode })).latch .fault

/-- R18, R40: a line at RUN-WARM; one whose speed, window or gap differs is held, and takes its values once HELD. Values that a failed
warm start left waiting (log 16) give way to these. -/
def Line.warmCharter (v : LineValues) (x : Line) : Line :=
  let y := { x with listenTimeout := v.listenTimeout, permit := v.permit, pendingParams := none }
  if v.params = x.params then y else { y.hold with pendingParams := some v.params }.takeParams

/-- R40, R41: the four lines. -/
def Net.warmCharter (v : Quad LineValues) (n : Net) : Net :=
  overEach (fun l n => n.updateLine l (Line.warmCharter (v.get l))) allLines n

/-- R183: a charter that passes checks 1 to 4. -/
def State.takeWarmCharter (c : Charter) (mode : Mode) (s : State) : State :=
  ((s.setExch (fun x => { x.takeCharter c with startOp := some (.warmWaiting mode) })).setReport (fun r =>
    { r with flushInterval := c.flushInterval })).onNet (Net.warmCharter c.lines)

/-- R183: the charter read of a warm start completes. -/
def State.readWarmCharter (s : State) : State :=
  match s.exch.startOp with
  | some (.warmReading mode cursor base) =>
    match (readCharter s.mem s.exch.base).fault with
    | some code => s.failWarm code mode cursor base
    | none => s.takeWarmCharter (readCharter s.mem s.exch.base) mode
  | _ => s

/-- R183: no line is still being held for its values. -/
def Net.linesReady (n : Net) : Bool := n.lines.toList.all (fun l => l.pendingParams.isNone)

/-- R184 step 6. -/
def Net.releaseHeld (n : Net) : Net :=
  overEach (fun l n => if (n.line l).state = .held ∧ (n.line l).orderHold = false then n.releaseLine l else n) allLines n

/-- R184, steps 1 to 6, and the choices of the lines (R21); a survey in flight and a held completion are kept (log 29, log 37). -/
def Net.resumeRun (n : Net) : Net :=
  let n1 := { n with mode := .running }.unverifyAll
  let n2 := overEach Net.expireIfDue (List.range n1.incidents.length) n1
  let n3 := overEach Net.takeStale (List.range n2.points.length) n2
  let n4 := (Net.takeDwellEnds n3).setSurvey (fun s => { s with pendingReal := true })
  n4.releaseHeld.arbitrateAll

/-- R183: a warm start waits for its lines. -/
def Exchange.warmWaits (x : Exchange) : Bool :=
  match x.startOp with
  | some (.warmWaiting _) => true
  | _ => false

/-- R184: the warm start ends. -/
def State.endWarm (s : State) : State :=
  if s.exch.warmWaits ∧ s.net.linesReady = true then
    ((s.onNet Net.resumeRun).setExch (fun x =>
      { x with cursor := none, stall := none, lent := [], sweepOwed := false, reachable := true, startOp := none })).beginSweep
  else s

/-! ## Halting (R77, R112, R165, R182) -/

/-- R165: a stalled order ended with the answer HALTED. -/
def Net.haltStalled (st : Stalled) (n : Net) : Net × Option Reply :=
  match st with
  | .plan folio =>
    match n.planOfFolio folio with
    | some i => n.haltPlan (slotRef n.plans i)
    | none => (n, none)
  | .source folio _ _ _ _ => (n, some { folio := folio, answer := .plain .halted })

/-- R77, R165: the stalled order, then the queued trials (log 34). -/
def Net.haltOrders (stall : Option Stalled) (n : Net) : Net × List Reply :=
  match stall with
  | none => Net.haltQueue n.survey.queue n
  | some st =>
    let q := n.haltStalled st
    let q2 := Net.haltQueue q.1.survey.queue q.1
    (q2.1, q.2.toList ++ q2.2)

/-- R40, R182: a MASTER line held without its order hold flag; LISTEN lines are left listening. -/
def Line.halt (x : Line) : Line := if x.role = .master then x.hold else x

def Net.holdLines (n : Net) : Net := overEach (fun l n => n.updateLine l Line.halt) allLines n

/-- R77, R182: the entry of the net into HALTING. -/
def Net.enterHalting (n : Net) : Net := ({ n with mode := .halting, survey := n.survey.halt }).holdLines

/-- R77, R165: the HALTED answers of a HALT, in the order they are written. -/
def State.haltReplies (s : State) : List Reply := (s.net.haltOrders s.exch.stall).2

/-- R182: the entry into HALTING, before the drain, with those of its HALTED answers that are written. -/
def State.enterHaltWith (written : List Reply) (s : State) : State :=
  let s1 := ({ s with net := (s.net.haltOrders s.exch.stall).1.enterHalting }).setExch (fun x =>
    { x with stall := none, sweep := none, sweepOwed := false, sweepTimer := none })
  (overEach State.writeAnswer written s1).setReport (fun r => { r with drained := false })

/-- R182: the same with all of them. -/
def State.enterHalt (s : State) : State := s.enterHaltWith s.haltReplies

/-- R150, R182. -/
def State.haltRun (s : State) : State := if s.net.mode = .running ∨ s.net.mode = .detached then s.enterHalt.drain else s

/-- R182: every MASTER line is HELD. -/
def Net.mastersHeld (n : Net) : Bool := n.lines.toList.all (fun l => decide (l.role = .listen ∨ l.state = .held))

/-- R182: HALTING ends. -/
def State.endHalting (s : State) : State :=
  if s.net.mode = .halting ∧ s.net.mastersHeld = true ∧ s.report.drained = true then
    ((s.setExch (fun x => { x with sweepTimer := none, lent := [], reachable := false })).onNet (fun n => { n with mode := .halted })).latch
      .halted
  else s

/-! ## Trials and their answers -/

/-- R75, R158, R159, R164: the completion of a trial: the answer due, the free-place notice, the choices of the lines. -/
def State.endTrial (s : State) : State :=
  let e := s.net.completeTrial
  let s1 := { s with net := e.net.arbitrateAll }
  let s2 := match e.reply with
    | some r => s1.writeAnswer r
    | none => s1
  if e.freed then s2.freePlace else s2

/-! ## Bus errors (R163, R180, R183) -/

/-- The table a read of STARTING was reading. -/
def imageTable (t : Fin 5) : Table :=
  match t with
  | 0 => .zones
  | 1 => .sources
  | 2 => .valves
  | 3 => .stations
  | 4 => .points

/-- The exchange put out of reach: what the failing event would still write does not reach host memory (log 18). -/
def State.cutOff (s : State) : State := s.setExch (fun x => { x with reachable := false })

/-- The exchange fault MEMORY after what the event did in the part: the part was in RUNNING, or in HALTING with the exchange reachable. -/
def State.memoryFault (before s : State) : State := (s.setExch (fun x => { x with reachable := before.exch.reachable })).exchangeFault .memory

/-- R75, R163: a trial's answer that cannot be written: the trial has its effect in the part. The place it leaves is offered to no stalled
order, which R164 ends in the same event: the model's choice (log 18). -/
def State.cutOffTrial (s : State) : State := { s.cutOff with net := s.net.completeTrial.net.arbitrateAll }

/-- R158, R163: a bus error on the turn TAKEN: the order has its effect in the part, and the folio is left as the host posted it. -/
def State.failTaken (s : State) : State :=
  match s.postedNext with
  | some (i, o) => if turnsTaken o then State.memoryFault s ((s.cutOff.reclaim i).serveFolio i o) else s.exchangeFault .memory
  | none => s.exchangeFault .memory

/-- R158, R160, R163: a bus error on the answer or on the turn LENT: the turn TAKEN, where there is one, stands in host memory. -/
def State.failAnswer (s : State) : State :=
  match s.postedNext with
  | some (i, o) =>
    if (s.reclaim i).endsTurn i o then State.memoryFault s (((s.writeTaken i o).cutOff.reclaim i).serveFolio i o)
    else s.exchangeFault .memory
  | none => s.exchangeFault .memory

/-- R163, R182: a bus error on a HALTED answer: those before it stand in host memory. -/
def State.failHalted (k : Nat) (s : State) : State :=
  if s.net.mode = .running ∧ k < s.haltReplies.length then (s.enterHaltWith (s.haltReplies.take k)).exchangeFault .memory
  else s.exchangeFault .memory

/-- R163, R175: a bus error in RUNNING or HALTING. The event that made the access has its effect in the part; what it wrote to host memory
before the failing access stands, and from that access on nothing is written (log 18). -/
def State.exchangeError (a : BusAccess) (s : State) : State :=
  match a with
  | .takenTurn => s.failTaken
  | .folioAnswer => s.failAnswer
  | .trialAnswer => State.memoryFault s s.cutOffTrial
  | .reportWrite =>
    if s.mayWrite then
      State.memoryFault s ((s.cutOff.takeLent.writeNext).getD s.cutOff.takeLent)
    else s.exchangeFault .memory
  | .haltAnswer k => s.failHalted k
  | .folioReturn .reportWrite k => (if s.mayWrite then s.writtenBefore k else s).exchangeFault .memory
  | .folioReturn .flushExpiry k => (if s.flushDue then s.returnedBefore true k else s).exchangeFault .memory
  | .folioReturn .halt k => (if s.net.mode = .running then s.enterHalt.drainedBefore k else s).exchangeFault .memory
  | .headerRead | .charterRead | .imageRead _ => s.exchangeFault .memory

/-- R163, R180, R183: a bus error on the access named; on a trial's answer in a warm start see log 16. -/
def State.busError (a : BusAccess) (s : State) : State :=
  match s.exch.startOp, a with
  | some .cold, .imageRead t => s.startFault { code := .memory, table := imageTable t, entry := 0 }
  | some .cold, _ => s.startFault { code := .memory, table := .charter, entry := 0 }
  | some (.warmReading mode cursor base), .trialAnswer => s.cutOffTrial.failWarm .memory mode cursor base
  | some (.warmReading mode cursor base), _ => s.failWarm .memory mode cursor base
  | some (.warmWaiting mode), .trialAnswer => s.cutOffTrial.failWarm .memory mode s.exch.cursor s.exch.base
  | some (.warmWaiting _), _ => s
  | none, a => s.exchangeError a

end Sys2Proof.Machine
end

