-- ==== Sys2Proof/Machine/Registers.lean ====
section
/-! DEFINITION. The register window (R149 to R152), its reads, and the pins and clocks (R177, R178). -/

namespace Sys2Proof.Machine

/-! ## Reads (R149, spec/11); a read has no effect -/

def readIdent : Word := 0x12680

def State.readXbase (s : State) : Word := s.exch.xbase

def State.readMode (s : State) : Word :=
  BitVec.ofNat 64 (s.net.mode.code + 2 ^ 8 * s.exch.faultCode.code + 2 ^ 16 * s.exch.faultTable.code + 2 ^ 32 * s.exch.faultEntry)

def readLook : Word := 0

def State.readCause (s : State) : Word := s.exch.cause

def State.readCauseen (s : State) : Word := s.exch.causeen

/-! ## Writes -/

/-- R149: the ten lowest bits of the exchange base are taken as 0. -/
def xbaseMask : Word := 0xFFFFFFFFFFFFFC00

/-- R149: XBASE takes a value in HALTED only. -/
def execXbaseWrite (v : Word) (s : State) : Host.Outcome State Fault Refusal :=
  .next (if s.net.mode = .halted then s.setExch (fun x => { x with xbase := v &&& xbaseMask }) else s)

/-- R149: a write to IDENT is ignored. -/
def execIdentWrite (_v : Word) (s : State) : Host.Outcome State Fault Refusal := .next s

/-- R151: each cause written as one is cleared; STARVED is latched again while its condition holds. -/
def execCauseWrite (v : Word) (s : State) : Host.Outcome State Fault Refusal :=
  (s.setExch (fun x => { x with cause := x.cause &&& ~~~v })).concluded

/-- R152: the value becomes the enable mask; positions that name no cause are kept as written. -/
def execCauseenWrite (v : Word) (s : State) : Host.Outcome State Fault Refusal :=
  .next (s.setExch (fun x => { x with causeen := v }))

/-- R156: any value written to LOOK asks for a sweep. -/
def execLook (_v : Word) (stores : List HostStore) (s : State) : Host.Outcome State Fault Refusal :=
  (s.store stores).askSweep.concluded

/-! ## Pins and clocks -/

/-- R17, R177: hardware reset, with the strap levels at its release. -/
def execHardwareReset (straps : Quad Bool) (s : State) : Host.Outcome State Fault Refusal := .next (s.hardReset straps)

/-- R178: the clock's supply returns after both supplies failed. -/
def execTimeOfDayPowerOn (s : State) : Host.Outcome State Fault Refusal := .next s.restartTimeOfDay

/-- R178: the time of day passes 2099-12-31 23:59:59.999 (log 30). -/
def execTimeOfDayRollover (s : State) : Host.Outcome State Fault Refusal :=
  .next (if s.tod + 1 = Config.timeOfDayModulus then s.restartTimeOfDay else s)

end Sys2Proof.Machine
end

