-- ==== Sys2Proof/Machine/RunMode.lean ====
section
/-! DEFINITION. The run-mode commands and operations: RUN_COLD, RUN_WARM, HALT and their ends (spec/10). -/

namespace Sys2Proof.Machine

/-- R150, spec/11: a write to MODE: bits 0 to 7 of the value name the command; a value that names none is ignored. -/
def State.writeMode (v : Word) (s : State) : State :=
  match v.toNat % 256 with
  | 1 => s.runCold
  | 2 => s.runWarm
  | 3 => s.haltRun
  | _ => s

/-- R150, R179: the MODE write that carries RUN-COLD (log 43). -/
def execRunCold (s : State) (v : Word := 1) : Host.Outcome State Fault Refusal := (s.writeMode v).concluded

/-- R150, R183: the MODE write that carries RUN-WARM (log 43). -/
def execRunWarm (s : State) (v : Word := 2) : Host.Outcome State Fault Refusal := (s.writeMode v).concluded

/-- R150, R182: the MODE write that carries HALT (log 43). -/
def execHalt (s : State) (v : Word := 3) : Host.Outcome State Fault Refusal := (s.writeMode v).concluded

/-- R180, R181. -/
def execStartingEnd (stores : List HostStore) (s : State) : Host.Outcome State Fault Refusal := (s.store stores).endStarting.concluded

/-- R183. -/
def execWarmCharterRead (stores : List HostStore) (s : State) : Host.Outcome State Fault Refusal :=
  (s.store stores).readWarmCharter.concluded

/-- R184. -/
def execWarmStartEnd (stores : List HostStore) (s : State) : Host.Outcome State Fault Refusal := (s.store stores).endWarm.concluded

/-- R182. -/
def execHaltingEnd (s : State) : Host.Outcome State Fault Refusal := s.endHalting.concluded

end Sys2Proof.Machine
end

