-- ==== Sys2Proof/Machine/Sweeps.lean ====
section
/-! DEFINITION. The events of a sweep and bus errors (R156, R157, R163). -/

namespace Sys2Proof.Machine

/-- R156: the sweep timer has expired. -/
def State.sweepTimerDue (s : State) : Bool := s.exch.sweepTimer.any (fun t => decide (t ≤ s.net.now))

/-- R156: the expiry of the sweep timer. -/
def execSweepTimerExpiry (stores : List HostStore) (s : State) : Host.Outcome State Fault Refusal :=
  let s1 := s.store stores
  (if s1.sweepTimerDue then (s1.setExch (fun x => { x with sweepTimer := none })).askSweep else s1).concluded

/-- R156, R157: the end of a sweep. -/
def execSweepEnd (stores : List HostStore) (s : State) : Host.Outcome State Fault Refusal :=
  let s1 := s.store stores
  (if s1.sweepOver then s1.endSweep else s1).concluded

/-- R157, R158: a POSTED folio taken. -/
def execFolioTaken (stores : List HostStore) (s : State) : Host.Outcome State Fault Refusal := (s.store stores).sweepTake.concluded

/-- R163, R180, R183: a bus error. -/
def execMemoryFault (at_ : BusAccess) (stores : List HostStore) (s : State) : Host.Outcome State Fault Refusal :=
  ((s.store stores).busError at_).concluded

end Sys2Proof.Machine
end

