-- ==== Sys2Proof/Machine/Orders.lean ====
section
/-! DEFINITION. The order commands: one folio posted and taken (R158), its order handed to its owner. -/

namespace Sys2Proof.Machine

/-- R84 to R91. -/
def execCall (p : Post) (b : CallBody) (s : State) : Host.Outcome State Fault Refusal := (s.takeOrder p (.call b)).concluded

/-- An INCIDENT-ACT of some action; its class is read for RECLASS only. -/
def actOrder (b : RefBody) (action cls : Byte) : Order := .act { slot := b.slot, action := action, serial := b.serial, cls := cls }

/-- R94, R95. -/
def execAttend (p : Post) (b : RefBody) (s : State) : Host.Outcome State Fault Refusal := (s.takeOrder p (actOrder b 1 0)).concluded

/-- R94, R96. -/
def execSafe (p : Post) (b : RefBody) (s : State) : Host.Outcome State Fault Refusal := (s.takeOrder p (actOrder b 2 0)).concluded

/-- R94, R97. -/
def execClose (p : Post) (b : RefBody) (s : State) : Host.Outcome State Fault Refusal := (s.takeOrder p (actOrder b 3 0)).concluded

/-- R94, R98. -/
def execReclass (p : Post) (b : RefBody) (cls : Byte) (s : State) : Host.Outcome State Fault Refusal :=
  (s.takeOrder p (actOrder b 4 cls)).concluded

/-- R94, R99. -/
def execAck (p : Post) (b : RefBody) (s : State) : Host.Outcome State Fault Refusal := (s.takeOrder p (actOrder b 5 0)).concluded

/-- R110, R111. -/
def execPlan (p : Post) (b : PlanBody) (s : State) : Host.Outcome State Fault Refusal := (s.takeOrder p (.plan b)).concluded

/-- R119, R120, R123. -/
def execProceed (p : Post) (b : ProceedBody) (s : State) : Host.Outcome State Fault Refusal := (s.takeOrder p (.proceed b)).concluded

/-- R125. -/
def execAbandon (p : Post) (b : RefBody) (s : State) : Host.Outcome State Fault Refusal := (s.takeOrder p (.abandon b)).concluded

/-- R141. -/
def execRestore (p : Post) (b : RefBody) (s : State) : Host.Outcome State Fault Refusal := (s.takeOrder p (.restore b)).concluded

/-- R142, R143. -/
def execRelight (p : Post) (b : RelightBody) (s : State) : Host.Outcome State Fault Refusal := (s.takeOrder p (.relight b)).concluded

/-- R127. -/
def execValveNote (p : Post) (b : NoteBody) (s : State) : Host.Outcome State Fault Refusal := (s.takeOrder p (.valveNote b)).concluded

/-- R76. -/
def execSource (p : Post) (b : SourceBody) (s : State) : Host.Outcome State Fault Refusal := (s.takeOrder p (.source b)).concluded

/-- R33, R34. -/
def execHold (p : Post) (line : Byte) (s : State) : Host.Outcome State Fault Refusal :=
  (s.takeOrder p (.line { line := line, op := 1, speed := 0, window := 0, gap := 0, role := 0 })).concluded

/-- R33, R37. -/
def execRelease (p : Post) (line : Byte) (s : State) : Host.Outcome State Fault Refusal :=
  (s.takeOrder p (.line { line := line, op := 2, speed := 0, window := 0, gap := 0, role := 0 })).concluded

/-- R33, R35. -/
def execConfigure (p : Post) (line speed window gap : Byte) (s : State) : Host.Outcome State Fault Refusal :=
  (s.takeOrder p (.line { line := line, op := 3, speed := speed, window := window, gap := gap, role := 0 })).concluded

/-- R33, R36. -/
def execRole (p : Post) (line role : Byte) (s : State) : Host.Outcome State Fault Refusal :=
  (s.takeOrder p (.line { line := line, op := 4, speed := 0, window := 0, gap := 0, role := role })).concluded

/-- R58. -/
def execLimits (p : Post) (b : LimitsBody) (s : State) : Host.Outcome State Fault Refusal := (s.takeOrder p (.limits b)).concluded

/-- R160. -/
def execLend (p : Post) (s : State) : Host.Outcome State Fault Refusal := (s.takeOrder p .lend).concluded

/-- R161, R186. -/
def execQuery (p : Post) (b : QueryBody) (s : State) : Host.Outcome State Fault Refusal := (s.takeOrder p (.query b)).concluded

/-- R162. -/
def execClock (p : Post) (b : ClockBody) (s : State) : Host.Outcome State Fault Refusal := (s.takeOrder p (.clock b)).concluded

end Sys2Proof.Machine
end

