-- ==== Sys2Proof/Machine/LineEvents.lean ====
section
/-! DEFINITION. The events of a field line (spec/02). An event whose condition does not hold changes nothing (log 4). -/

namespace Sys2Proof.Machine

/-- R25: the gap expires and the arbiter chooses (R21). -/
def execGapExpiry (line : Fin 4) (s : State) : Host.Outcome State Fault Refusal :=
  (if (s.net.line line).gapOver s.net.now then
    s.onNet (fun n => (n.setLine line (fun x => { x with state := .idle })).arbitrate line)
  else s).concluded

/-- R20: the idle wait expires and READs may be chosen again. -/
def execIdleWaitExpiry (line : Fin 4) (s : State) : Host.Outcome State Fault Refusal :=
  (if (s.net.line line).idleWaitOver s.net.now then
    s.onNet (fun n => (n.setLine line (fun x => { x with idleWait := none })).arbitrate line)
  else s).concluded

/-- R37: the settling time expires and the line goes to IDLE. -/
def execSettlingExpiry (line : Fin 4) (s : State) : Host.Outcome State Fault Refusal :=
  (if (s.net.line line).settled s.net.now then s.onNet (fun n => (n.enterIdle line).arbitrate line) else s).concluded

/-- R22: the poll has been sent; the response window starts. -/
def execPollSent (line : Fin 4) (s : State) : Host.Outcome State Fault Refusal :=
  (if (s.net.line line).sendsPoll then s.onNet (fun n => n.setLine line (fun x => { x with windowSince := some n.now })) else s).concluded

/-- R23: the first start bit of a reply. -/
def execReplyFrameBegun (line : Fin 4) (s : State) : Host.Outcome State Fault Refusal :=
  (if (s.net.line line).awaitsReply then s.onNet (Net.setLine line (fun x => { x with frameBegun := true })) else s).concluded

/-- R23, R25: a frame assembled on a MASTER line. -/
def execReplyFrame (line : Fin 4) (bytes : List Byte) (s : State) : Host.Outcome State Fault Refusal :=
  (s.onNet (fun n => (n.takeFrame line bytes).arbitrateAll)).concluded

/-- R24, R25: the response window expires with no frame begun. -/
def execResponseWindowExpiry (line : Fin 4) (s : State) : Host.Outcome State Fault Refusal :=
  (if (s.net.line line).windowOver s.net.now then s.onNet (fun n => (n.endExchange line .silent).arbitrateAll) else s).concluded

/-- R38: a frame on a LISTEN line. -/
def execListenFrame (line : Fin 4) (bytes : List Byte) (s : State) : Host.Outcome State Fault Refusal :=
  (s.onNet (fun n => (n.hear line bytes).arbitrateAll)).concluded

end Sys2Proof.Machine
end

