-- ==== Sys2Proof/Machine/Timers.lean ====
section
/-! DEFINITION. The timers of stations, points, valves and incidents. An expiry that is not due changes nothing (log 4). -/

namespace Sys2Proof.Machine

/-- R39, R48. -/
def execListenLost (station : Nat) (s : State) : Host.Outcome State Fault Refusal :=
  (s.onNet (fun n => (n.takeListenLost station).arbitrateAll)).concluded

/-- R49. -/
def execReplyAgeExpiry (station : Nat) (s : State) : Host.Outcome State Fault Refusal :=
  (s.onNet (fun n => (n.takeReplyAge station).arbitrateAll)).concluded

/-- R55: taken in RUNNING, HALTING and DETACHED. -/
def execStaleExpiry (point : Nat) (s : State) : Host.Outcome State Fault Refusal :=
  (if s.net.mode.timersRun then s.onNet (Net.takeStale point) else s).concluded

/-- R117. -/
def execTravelLimitExpiry (valve : Nat) (s : State) : Host.Outcome State Fault Refusal :=
  (s.onNet (fun n => (n.takeTravelLimit valve).arbitrateAll)).concluded

/-- R118. -/
def execDwellEnd (valve : Nat) (s : State) : Host.Outcome State Fault Refusal :=
  (s.onNet (fun n => (n.takeDwellEnd valve).arbitrateAll)).concluded

/-- R93: taken in RUNNING, HALTING and DETACHED. -/
def execDeadlineExpiry (slot : Nat) (s : State) : Host.Outcome State Fault Refusal :=
  (if s.net.mode.timersRun then s.onNet (Net.expireIfDue slot) else s).concluded

end Sys2Proof.Machine
end

