-- ==== Sys2Proof/Machine/SurveyEvents.lean ====
section
/-! DEFINITION. The events of the survey engine (spec/04) and of the report unit (spec/09). -/

namespace Sys2Proof.Machine

/-- R68, R69. -/
def execRealSurveyStart (s : State) : Host.Outcome State Fault Refusal := (s.onNet Net.startReal).concluded

/-- R70. -/
def execRealSurveyCompletion (s : State) : Host.Outcome State Fault Refusal := (s.onNet Net.completeReal).concluded

/-- R68, R73. -/
def execTrialStart (s : State) : Host.Outcome State Fault Refusal := (s.onNet Net.startTrial).concluded

/-- R74, R75. -/
def execTrialCompletion (stores : List HostStore) (s : State) : Host.Outcome State Fault Refusal := (s.store stores).endTrial.concluded

/-- R169 to R171, R175. -/
def execReportWrite (s : State) : Host.Outcome State Fault Refusal := s.writeReport.drain.concluded

/-- R171, R175. -/
def execFlushTimerExpiry (s : State) : Host.Outcome State Fault Refusal :=
  (if s.flushDue then s.returnFolio.drain else s).concluded

end Sys2Proof.Machine
end

