-- ==== Sys2Proof/Machine/Dispatch.lean ====
section
/-! DEFINITION. The meaning of every command, one arm a constructor. -/

namespace Sys2Proof.Machine

def exec (i : Instr) (s : State) : Host.Outcome State Fault Refusal :=
  match i with
  | .hardwareReset straps => Sys2Proof.Machine.execHardwareReset straps s
  | .timeOfDayPowerOn => Sys2Proof.Machine.execTimeOfDayPowerOn s
  | .timeOfDayRollover => Sys2Proof.Machine.execTimeOfDayRollover s
  | .xbaseWrite v => Sys2Proof.Machine.execXbaseWrite v s
  | .identWrite v => Sys2Proof.Machine.execIdentWrite v s
  | .runCold v => Sys2Proof.Machine.execRunCold s v
  | .runWarm v => Sys2Proof.Machine.execRunWarm s v
  | .halt v => Sys2Proof.Machine.execHalt s v
  | .look v stores => Sys2Proof.Machine.execLook v stores s
  | .causeWrite v => Sys2Proof.Machine.execCauseWrite v s
  | .causeenWrite v => Sys2Proof.Machine.execCauseenWrite v s
  | .startingEnd stores => Sys2Proof.Machine.execStartingEnd stores s
  | .warmStartEnd stores => Sys2Proof.Machine.execWarmStartEnd stores s
  | .haltingEnd => Sys2Proof.Machine.execHaltingEnd s
  | .sweepTimerExpiry stores => Sys2Proof.Machine.execSweepTimerExpiry stores s
  | .sweepEnd stores => Sys2Proof.Machine.execSweepEnd stores s
  | .memoryFault at_ stores => Sys2Proof.Machine.execMemoryFault at_ stores s
  | .call p b => Sys2Proof.Machine.execCall p b s
  | .attend p b => Sys2Proof.Machine.execAttend p b s
  | .safe p b => Sys2Proof.Machine.execSafe p b s
  | .close p b => Sys2Proof.Machine.execClose p b s
  | .reclass p b cls => Sys2Proof.Machine.execReclass p b cls s
  | .ack p b => Sys2Proof.Machine.execAck p b s
  | .plan p b => Sys2Proof.Machine.execPlan p b s
  | .proceed p b => Sys2Proof.Machine.execProceed p b s
  | .abandon p b => Sys2Proof.Machine.execAbandon p b s
  | .restore p b => Sys2Proof.Machine.execRestore p b s
  | .relight p b => Sys2Proof.Machine.execRelight p b s
  | .valveNote p b => Sys2Proof.Machine.execValveNote p b s
  | .source p b => Sys2Proof.Machine.execSource p b s
  | .hold p line => Sys2Proof.Machine.execHold p line s
  | .release p line => Sys2Proof.Machine.execRelease p line s
  | .configure p line speed window gap => Sys2Proof.Machine.execConfigure p line speed window gap s
  | .role p line role => Sys2Proof.Machine.execRole p line role s
  | .limits p b => Sys2Proof.Machine.execLimits p b s
  | .lend p => Sys2Proof.Machine.execLend p s
  | .query p b => Sys2Proof.Machine.execQuery p b s
  | .clock p b => Sys2Proof.Machine.execClock p b s
  | .gapExpiry line => Sys2Proof.Machine.execGapExpiry line s
  | .idleWaitExpiry line => Sys2Proof.Machine.execIdleWaitExpiry line s
  | .settlingExpiry line => Sys2Proof.Machine.execSettlingExpiry line s
  | .replyFrame line bytes => Sys2Proof.Machine.execReplyFrame line bytes s
  | .responseWindowExpiry line => Sys2Proof.Machine.execResponseWindowExpiry line s
  | .listenFrame line bytes => Sys2Proof.Machine.execListenFrame line bytes s
  | .listenLost station => Sys2Proof.Machine.execListenLost station s
  | .replyAgeExpiry station => Sys2Proof.Machine.execReplyAgeExpiry station s
  | .staleExpiry point => Sys2Proof.Machine.execStaleExpiry point s
  | .travelLimitExpiry valve => Sys2Proof.Machine.execTravelLimitExpiry valve s
  | .dwellEnd valve => Sys2Proof.Machine.execDwellEnd valve s
  | .realSurveyStart => Sys2Proof.Machine.execRealSurveyStart s
  | .realSurveyCompletion => Sys2Proof.Machine.execRealSurveyCompletion s
  | .trialStart => Sys2Proof.Machine.execTrialStart s
  | .trialCompletion stores => Sys2Proof.Machine.execTrialCompletion stores s
  | .deadlineExpiry slot => Sys2Proof.Machine.execDeadlineExpiry slot s
  | .reportWrite => Sys2Proof.Machine.execReportWrite s
  | .flushTimerExpiry => Sys2Proof.Machine.execFlushTimerExpiry s
  | .pollSent line => Sys2Proof.Machine.execPollSent line s
  | .replyFrameBegun line => Sys2Proof.Machine.execReplyFrameBegun line s
  | .warmCharterRead stores => Sys2Proof.Machine.execWarmCharterRead stores s
  | .folioTaken stores => Sys2Proof.Machine.execFolioTaken stores s

end Sys2Proof.Machine
end

