-- ==== Sys2Proof/WellFormed.lean ====
section
/-! DEFINITION. Well-formed commands: operands a host, a bus, a field line and the tables of spec/00_scope.md can give. A meaning takes
any operands; statements that need these bounds name `wellFormed`. -/

namespace Sys2Proof

/-- Stores lie in the 64-bit memory space of the host (R149). -/
def storesOk (stores : List HostStore) : Bool := stores.all (fun st => decide (st.addr + st.bytes.length ≤ 2 ^ 64))

/-- A field frame: three bytes, up to 255 counted ones, a two-byte check (spec/11). -/
def frameOk (bytes : List Byte) : Bool := decide (bytes.length ≤ 260)

/-- spec/11, R110: a PLAN carries the entries its count names, none where the count itself is at fault (R185). -/
def planBodyOk (b : PlanBody) : Bool :=
  decide (b.entries.length = if b.entryCount.toNat ≤ Config.entryMax then b.entryCount.toNat else 0)

/-- R150, spec/11: the value a MODE write carries has the code of the row's own command in bits 0 to 7, or one that names no command (log
43). -/
def modeValueOk (own : Nat) (v : Word) : Bool := decide (v.toNat % 256 = own ∨ v.toNat % 256 = 0 ∨ 3 < v.toNat % 256)

/-- The commands whose operands an agent can give. -/
def wellFormed : Instr → Bool
  | .look _ stores | .startingEnd stores | .warmStartEnd stores | .sweepTimerExpiry stores | .sweepEnd stores
  | .memoryFault _ stores | .trialCompletion stores | .warmCharterRead stores | .folioTaken stores => storesOk stores
  | .runCold v => modeValueOk 1 v
  | .runWarm v => modeValueOk 2 v
  | .halt v => modeValueOk 3 v
  | .plan _ b => planBodyOk b
  | .replyFrame _ bytes | .listenFrame _ bytes => frameOk bytes
  | .listenLost i | .replyAgeExpiry i => decide (i < Config.stationMax)
  | .staleExpiry i => decide (i < Config.pointMax)
  | .travelLimitExpiry i | .dwellEnd i => decide (i < Config.valveMax)
  | .deadlineExpiry i => decide (i < Config.incidentSlots)
  | .hardwareReset _ | .timeOfDayPowerOn | .timeOfDayRollover | .xbaseWrite _ | .identWrite _
  | .causeWrite _ | .causeenWrite _ | .haltingEnd | .call _ _ | .attend _ _ | .safe _ _ | .close _ _ | .reclass _ _ _ | .ack _ _
  | .proceed _ _ | .abandon _ _ | .restore _ _ | .relight _ _ | .valveNote _ _ | .source _ _ | .hold _ _ | .release _ _
  | .configure _ _ _ _ _ | .role _ _ _ | .limits _ _ | .lend _ | .query _ _ | .clock _ _ | .gapExpiry _ | .idleWaitExpiry _
  | .settlingExpiry _ | .responseWindowExpiry _ | .realSurveyStart | .realSurveyCompletion | .trialStart | .reportWrite
  | .flushTimerExpiry | .pollSent _ | .replyFrameBegun _ => true

end Sys2Proof
end

