-- ==== Sys2Proof/Safety.lean ====
section
/-! DEFINITION. What the statements speak of: the invariants of the part, the state in which an order is taken and what its answer leaves,
and the reachable set of R66 as an inductive relation. -/

namespace Sys2Proof.Machine

/-! ## Invariants -/

/-- R149, R151: XBASE holds a 1 KiB boundary, and CAUSE holds the six causes and nothing else. -/
def Exchange.registersOk (x : Exchange) : Bool := decide (x.xbase &&& 0x3FF = 0 ∧ x.cause &&& ~~~causeMask = 0)

/-- R178: the run clock counts in 48 bits, the time of day in the days from 2000 to 2099. -/
def State.clocksOk (s : State) : Bool := decide (s.net.now < Config.runClockModulus ∧ s.tod < Config.timeOfDayModulus)

/-- R166, R167: a record appears at most once across the two mark lists together. -/
def Marks.ok (m : Marks) : Bool := decide (m.urgent ++ m.ordinary).Nodup

/-- R160: the lent list holds no index twice and at most 32. -/
def Exchange.lentOk (x : Exchange) : Bool := decide (x.lent.Nodup ∧ x.lent.length ≤ Config.lentMax)

/-- R172: STARVED is latched while the report unit is starving. -/
def State.starvedShown (s : State) : Bool := !s.starving || s.latched .starved

/-- R130: a zone is UNFED in supply exactly while its fed-state is UNFED; R133: it has an outage link exactly while it is not SUPPLIED. -/
def Zone.agrees (z : Zone) : Bool :=
  decide ((z.fed = .unfed ↔ z.supply = .unfed) ∧ (z.outage.isSome = true ↔ z.supply ≠ .supplied))

/-- Every zone. -/
def Net.zonesAgree (n : Net) : Bool := n.zones.all Zone.agrees

/-- R132: customers-off is the sum over the held zones of customers minus relit. -/
def Outage.countsAgree (o : Outage) : Bool := decide (o.customersOff = heldOff o.held)

/-- Every outage record. -/
def Net.outagesAgree (n : Net) : Bool := n.outages.all (fun sl => sl.record.all Outage.countsAgree)

/-- R3, R180 check 5: the present zones fit in the node sequence of R1. -/
def Net.zonesFit (n : Net) : Bool := decide (n.zones.length ≤ Config.zoneMax)

/-- R42: the status a BACKOFF returns to is UNKNOWN or ONLINE. -/
def Net.resumesOk (n : Net) : Bool := n.stations.all (fun x => decide (x.resume = .unknown ∨ x.resume = .online))

/-- The modes in which no STARTING operation runs. -/
def StartOp.from : StartOp → Mode
  | .cold => .halted
  | .warmReading mode _ _ | .warmWaiting mode => mode

/-- R155, R156, R160, R163, R179, R182, R183: no sweep, no sweep timer, no owed sweep and no stall outside RUNNING; a STARTING operation
exactly in STARTING, one that came from HALTED or DETACHED; nothing lent in HALTED, STARTING and DETACHED. -/
def State.exchangeAgrees (s : State) : Bool :=
  decide (s.net.mode ≠ .running → s.exch.sweep = none ∧ s.exch.sweepTimer = none ∧ s.exch.sweepOwed = false ∧ s.exch.stall = none) &&
    decide (s.exch.startOp.isSome = true ↔ s.net.mode = .starting) &&
    s.exch.startOp.all (fun o => decide (o.from = .halted ∨ o.from = .detached)) &&
    decide (s.net.mode = .halted ∨ s.net.mode = .starting ∨ s.net.mode = .detached → s.exch.lent = [])

/-- The invariants of memory, registers, clocks, mark lists, the lent list and STARVED. -/
structure State.Inv (s : State) : Prop where
  memory : s.mem.wf = true
  registers : s.exch.registersOk = true
  clocks : s.clocksOk = true
  marks : s.net.marks.ok = true
  lent : s.exch.lentOk = true
  starved : s.starvedShown = true

/-- The invariants that bound the tables, tie records to each other and the exchange to the run mode. -/
structure State.Agrees (s : State) : Prop where
  zonesFit : s.net.zonesFit = true
  resumes : s.net.resumesOk = true
  zones : s.net.zonesAgree = true
  outages : s.net.outagesAgree = true
  exchange : s.exchangeAgrees = true

/-! ## Orders -/

/-- Whether a queued trial's folio is this one. -/
def Subject.holdsFolio (i : Nat) : Subject → Bool
  | .source _ _ _ _ folio => decide (folio = some i)
  | .plan _ => false

/-- R158: nothing in the part holds a folio: it is not being filled, and no trial still to come records it. -/
def State.folioFree (s : State) (i : Nat) : Bool :=
  decide (s.report.filling ≠ some i) && s.net.plans.all (fun sl => sl.record.all (fun p => decide (p.folio ≠ some i))) &&
    s.net.survey.queue.all (fun q => !q.holdsFolio i)

/-- R156, R157, R158, R185: a running sweep reads folio `i` next, the host posts an order there with a well-formed header, and the link
it writes is NONE or names a folio. -/
def State.ready (s : State) (i : Nat) (p : Post) (o : Order) : Bool :=
  decide (s.net.mode = .running ∧ s.exch.reachable = true ∧ s.exch.nextFolio = some i ∧ s.exch.stall = none) && s.folioFree i &&
    decide (o.bytes.length ≤ p.bodyLen.toNat ∧ p.bodyLen.toNat ≤ Config.bodyMax) &&
    decide (p.link.toNat = Config.noneHalf ∨ p.link.toNat < s.exch.folioCount)

/-- R158, spec/11: folio `i` holds an answer: turn ANSWERED, code, body and body length, the stamp with its flag. -/
structure State.Answered (t : State) (i : Nat) (a : Answer) : Prop where
  turn : t.mem.read (t.folioAddr i) = 3
  code : t.mem.read (t.folioAddr i + 3) = BitVec.ofNat 8 a.code.code
  bodyLength : t.mem.read (t.folioAddr i + 6) = BitVec.ofNat 8 a.body.length
  portions : ∀ k, a.portions = some k → t.mem.read (t.folioAddr i + 7) = BitVec.ofNat 8 k
  stampFlag : (t.mem.read (t.folioAddr i + 2)).getLsbD 1 = t.timeUnset
  stamp : t.mem.number (t.folioAddr i + 8) 8 = t.stamp % 2 ^ 64
  body : ∀ k b, a.body[k]? = some (some b) → t.mem.read (t.folioAddr i + Config.headerBytes + k) = b

/-- R158: kind, notify flag and link stand as the host wrote them. -/
structure State.HeaderKept (t : State) (i : Nat) (p : Post) (o : Order) : Prop where
  kind : t.mem.read (t.folioAddr i + 1) = o.kind
  notify : (t.mem.read (t.folioAddr i + 2)).getLsbD 0 = p.notify
  link : t.mem.number (t.folioAddr i + 4) 2 = p.link.toNat

/-- R157: what a sweep goes on to after a folio that links to `link`. -/
def phaseAfter (link : Nat) : SweepPhase := if link = Config.noneHalf then .ending else .atLink link

/-- R151, R172: CAUSE after an event that may latch ANSWER, STARVED judged at its end. -/
def causeAfter (s t : State) (answer : Bool) : Word :=
  s.exch.cause ||| (if answer then Cause.answer.bit else 0) ||| (if t.starving then Cause.starved.bit else 0)

/-- What taking folio `i` leaves of everything but the net, the clocks and the folio's own bytes (R157, R158); ANSWER is latched when an
answer is written and the notify flag is set. -/
structure State.Took (s t : State) (i : Nat) (p : Post) (written : Bool) : Prop where
  exch : t.exch =
    { s.exch with lent := s.exch.lent.filter (fun j => j ≠ i), cursor := some i, sweep := some (phaseAfter p.link.toNat)
                  cause := causeAfter s t (written && p.notify) }
  report : t.report = s.report
  pending : t.pending = s.pending
  memory : ∀ a, a < s.folioAddr i ∨ s.folioAddr i + Config.folioBytes ≤ a → t.mem.read a = s.mem.read a

/-- An order taken from folio `i` and answered in its event (R158). -/
structure State.TookAnswered (s t : State) (i : Nat) (p : Post) (o : Order) (a : Answer) : Prop extends
    State.Took s t i p true where
  answered : t.Answered i a
  header : t.HeaderKept i p o

/-- An order taken from folio `i` that waits for its trial: the folio stays TAKEN, with no answer (R159). -/
structure State.TookPending (s t : State) (i : Nat) (p : Post) (o : Order) : Prop extends State.Took s t i p false where
  turn : t.mem.read (t.folioAddr i) = 2
  header : t.HeaderKept i p o

/-- The time of day and TIME-UNSET as they were. -/
def State.SameClock (s t : State) : Prop := t.tod = s.tod ∧ t.timeUnset = s.timeUnset

/-- R159: an order whose trial meets a full queue: the stall flag set with the cursor on the folio, which stays TAKEN, and the sweep ended.
That nothing is owed and the sweep timer starts is deduced (log 15). -/
structure State.TookStalled (s t : State) (i : Nat) (p : Post) (o : Order) (st : Stalled) : Prop where
  exch : t.exch =
    { s.exch with
      lent := s.exch.lent.filter (fun j => j ≠ i), cursor := some i, stall := some st, sweep := none, sweepOwed := false
      sweepTimer := some (s.net.now + s.exch.sweepInterval), cause := causeAfter s t false }
  report : t.report = s.report
  pending : t.pending = s.pending
  memory : ∀ a, a < s.folioAddr i ∨ s.folioAddr i + Config.folioBytes ≤ a → t.mem.read a = s.mem.read a
  turn : t.mem.read (t.folioAddr i) = 2
  header : t.HeaderKept i p o

/-- An order that leaves the clock alone, answered, with the net it leaves. -/
structure State.Serves (s t : State) (i : Nat) (p : Post) (o : Order) (a : Answer) (n : Net) : Prop extends
    State.TookAnswered s t i p o a where
  net : t.net = n
  clock : s.SameClock t

/-- R78, R84, R94: an order that fails a check of its owner: answered, nothing in the part changed. -/
def State.Refuses (s t : State) (i : Nat) (p : Post) (o : Order) (a : Answer) : Prop := s.Serves t i p o a s.net

/-! ## Slots -/

/-- The record of a slot replaced, the slot's state and serial as they are. -/
def putRecord {α : Type} (slots : List (Slot α)) (i : Nat) (x : α) : List (Slot α) := slots.modify i (fun sl => { sl with record := some x })

/-- R83, R111, R136: a record made in a slot: serial incremented, wrapping, slot IN-USE. -/
def fillSlot {α : Type} (slots : List (Slot α)) (i : Nat) (x : α) : List (Slot α) :=
  slots.modify i (fun sl => { state := .inUse, serial := sl.serial + 1, record := some x })

/-- The lowest-numbered FREE slot. -/
def LowestFree {α : Type} (slots : List (Slot α)) (i : Nat) : Prop :=
  (∃ sl, slots[i]? = some sl ∧ sl.state = .free) ∧ ∀ j sl, j < i → slots[j]? = some sl → sl.state ≠ .free

/-- R89, R90: an incident after a call attaches to it, from the parameters. -/
def Incident.withCall (p : IncidentParams) (e : CallEntry) (x : Incident) : Incident :=
  let calls := if x.calls.length < 8 then x.calls ++ [e] else x.calls
  let further := if x.calls.length < 8 then x.further else min (x.further + 1) 65535
  let cls := min x.cls e.kind.cls
  let escalates := p.escalation ≤ calls.length + further ∧ cls ≠ 1
  let deadline := min x.deadline (e.time + p.deadline cls)
  let last := if escalates then min deadline (e.time + p.deadline 1) else deadline
  { x with
    calls := calls
    further := further
    lastCall := some e.time
    cls := if escalates then 1 else cls
    escalated := x.escalated || decide escalates
    deadline := last
    armed := x.armed || decide (last ≠ x.deadline) }

/-- R83: the record a call makes, before it attaches. -/
def madeByCall (n : Net) (kind : IncidentKind) (cls : Nat) (points : List Nat) (b : CallBody) : Incident where
  kind := kind
  cls := cls
  zone := b.zone.toNat
  anchorX := b.gridX.toNat
  anchorY := b.gridY.toNat
  opened := n.now
  lastCall := none
  deadline := n.now + n.params.deadline cls
  state := .opened
  overdue := false
  missed := false
  late := false
  escalated := false
  calls := []
  further := 0
  points := points
  plans := []
  reservations := 0
  outage := none
  armed := true

/-- R80, R84: the entry a taken call leaves in a call list. -/
def callEntry (n : Net) (b : CallBody) (k : CallKind) : CallEntry where
  ref := b.ref
  kind := k
  gridX := b.gridX.toNat
  gridY := b.gridY.toNat
  time := n.now

/-- R84: the kind and the place of a call are good: the kind named, the grid within 4095, the zone present. -/
def Net.callGood (n : Net) (b : CallBody) (k : CallKind) (z : Zone) : Prop :=
  CallKind.ofCode b.kind.toNat = some k ∧ b.gridX.toNat ≤ 4095 ∧ b.gridY.toNat ≤ 4095 ∧ n.zones[b.zone.toNat]? = some z

/-- An IN-USE incident of a slot. -/
def Net.incidentIn (n : Net) (i : Nat) (x : Incident) : Prop :=
  ∃ sl, n.incidents[i]? = some sl ∧ sl.state = .inUse ∧ sl.record = some x

/-- R85: an IN-USE incident to which an escape-group call may attach. -/
def Net.CallCandidate (n : Net) (b : CallBody) (i : Nat) (x : Incident) : Prop :=
  n.incidentIn i x ∧ x.state ≠ .closed ∧ (x.kind = .escape ∨ x.kind = .damage) ∧ x.zone = b.zone.toNat ∧
    gridDistance x.anchorX x.anchorY b.gridX.toNat b.gridY.toNat ≤ n.params.radius ∧
    ∃ last, x.lastCall = some last ∧ n.now - last ≤ 60000 * n.params.window

/-- R61, R88: an open incident of a zone and kind. -/
def Net.PressureOpen (n : Net) (kind : IncidentKind) (zone i : Nat) (x : Incident) : Prop :=
  n.incidentIn i x ∧ x.kind = kind ∧ x.zone = zone ∧ x.state ≠ .closed

/-- R88: an open PRESSURE-LOW incident of a zone. -/
def Net.PressureLowOpen (n : Net) (zone i : Nat) (x : Incident) : Prop := n.PressureOpen .pressureLow zone i x

/-- R85, R88: the latest by a time, and on a tie the lowest slot. -/
def Latest (key : Incident → Time) (p : Nat → Incident → Prop) (i : Nat) (x : Incident) : Prop :=
  p i x ∧ ∀ j y, p j y → key y < key x ∨ (key y = key x ∧ i ≤ j)

/-- The net after a call has made a record in slot `i` (R86, R88). -/
def Net.afterNewCall (n : Net) (i : Nat) (x : Incident) (cls : Nat) : Net :=
  { n with
    incidents := fillSlot n.incidents i x
    marks := n.marks.add (if cls = 1 then .urgent else .ordinary) (.incident i) }

/-- The net after a call has attached to slot `i`, whose record was `x` (R89, R104). -/
def Net.afterCall (n : Net) (i : Nat) (x y : Incident) : Net :=
  { n with
    incidents := putRecord n.incidents i y
    marks := if x.cls ≠ 1 ∧ y.cls = 1 then (n.marks.add .ordinary (.incident i)).add .urgent (.incident i)
      else n.marks.add .ordinary (.incident i) }

/-- R87, R102, R144: the net after a call has made incident `y` in slot `i`, of class 1, and linked it with outage `r`, whose record is `o`,
both ways. -/
def Net.afterRepair (n : Net) (i : Nat) (y : Incident) (r : Ref) (o : Outage) : Net :=
  { n with
    incidents := fillSlot n.incidents i y
    outages := putRecord n.outages r.slot { o with incident := some { slot := i, serial := (slotRef n.incidents i).serial + 1 } }
    marks := (n.marks.add .urgent (.incident i)).add .ordinary (.outage r.slot) }

/-! ## Excursions and summaries (R59, R61, R63) -/

/-- R59: a zone's pressure summary is the worst band of its GOOD points, absent when it has none. -/
def Net.SummaryIs (n : Net) (y : Zone) : Prop :=
  ∀ b, y.summary = some b ↔
    (∃ i ∈ y.points, ∃ q, n.points[i]? = some q ∧ q.quality = .good ∧ q.band = b) ∧
      ∀ i ∈ y.points, ∀ q, n.points[i]? = some q → q.quality = .good → bandRank q.band ≤ bandRank b

/-- R61: an incident to which point `i` has been attached. -/
def Incident.withPoint (p : IncidentParams) (now : Time) (i : Nat) (x : Incident) : Incident :=
  let d := min x.deadline (now + p.deadline 1)
  { x with
    points := if i ∈ x.points ∨ 8 ≤ x.points.length then x.points else x.points ++ [i]
    cls := 1
    deadline := d
    armed := x.armed || decide (d ≠ x.deadline) }

/-- R61, R83: the incident an excursion of point `i` raises in zone `z`, whose record is `y`. -/
def Net.raisedBy (n : Net) (kind : IncidentKind) (z : Nat) (y : Zone) (i : Nat) : Incident :=
  { kind := kind, cls := 1, zone := z, anchorX := y.gridX, anchorY := y.gridY, opened := n.now, lastCall := none
    deadline := n.now + n.params.deadline 1, state := .opened, overdue := false, missed := false, late := false, escalated := false
    calls := [], further := 0, points := [i], plans := [], reservations := 0, outage := none, armed := true }

/-- R61: what an excursion of point `i`, of zone `z`, whose record is `y`, makes of the incidents, from `n` to `m`. -/
def Net.Excursion (n m : Net) (kind : IncidentKind) (z : Nat) (y : Zone) (i : Nat) : Prop :=
  .point i ∈ m.marks.urgent ∧
  (∀ j x, Latest Incident.opened (n.PressureOpen kind z) j x →
    m.incidents = putRecord n.incidents j (x.withPoint n.params n.now i) ∧ (x.cls ≠ 1 → .incident j ∈ m.marks.urgent)) ∧
  ((∀ j x, ¬ n.PressureOpen kind z j x) →
    (∀ j, LowestFree n.incidents j → m.incidents = fillSlot n.incidents j (n.raisedBy kind z y i) ∧ .incident j ∈ m.marks.urgent) ∧
    ((∀ sl ∈ n.incidents, sl.state ≠ .free) → m.incidents = n.incidents))

/-- R61, R63: what a reading hands on that took point `i` from the fields of `q` to those of `w`: an excursion to the incident unit, unless
the zone is suppressed, and an entry into LOWLOW to every LIVE source that names the point. -/
def Net.HandedOn (n m : Net) (i : Nat) (q w : Point) : Prop :=
  (∀ y, n.zones[q.zone]? = some y →
    let entered := (w.band = .lowlow ∨ w.band = .highhigh) ∧ w.band ≠ q.band ∧ y.supply = .supplied
    (entered → n.Excursion m (if w.band = .lowlow then .pressureLow else .pressureHigh) q.zone y i) ∧
    (¬ entered → m.incidents = n.incidents)) ∧
  let fails (x : Source) : Bool := decide (w.band = .lowlow ∧ q.band ≠ .lowlow ∧ x.point = some i ∧ x.state = .live)
  m.sources = n.sources.map (fun x => if fails x then { x with state := .failed } else x) ∧
    ∀ k x, n.sources[k]? = some x → fails x = true →
      .source k ∈ m.marks.urgent ∧ m.survey.pendingReal = true ∧ k ∈ m.survey.changeSources

/-! ## Plans -/

/-- R108, R111: an entry as a PLAN order gives it: the steps its count reads, WAITING at step 1. -/
def orderedEntry (e : EntryBody) : PlanEntry where
  valve := e.valve.toNat
  steps := ([e.steps.q0, e.steps.q1, e.steps.q2, e.steps.q3].take e.stepCount.toNat).map
    (fun st => { target := st.target.toNat, dwell := st.dwell.toNat, hold := decide (st.hold.toNat ≠ 0) })
  state := .waiting
  current := 0

/-- R111: the plan a PLAN order makes, its answer due to folio `i`. -/
def orderedPlan (b : PlanBody) (i : Nat) : Plan where
  incident := { slot := b.slot.toNat, serial := b.serial }
  outageAccepted := b.flags.getLsbD 0
  refeedAccepted := b.flags.getLsbD 1
  state := .checking
  entries := b.entries.map orderedEntry
  running := none
  block := none
  expectedLosses := []
  folio := some i
  acceptedTime := none
  endedTime := none

/-- R110 check 1 for an entry: 1 to 4 steps, each with a target of at most 100 and a dwell of at most 3600. -/
def EntryBody.formGood (e : EntryBody) : Prop :=
  1 ≤ e.stepCount.toNat ∧ e.stepCount.toNat ≤ 4 ∧ ∀ st ∈ (orderedEntry e).steps, st.target ≤ 100 ∧ st.dwell ≤ 3600

/-- R110 checks 2 to 4 for an entry: the valve is present, unclaimed, and its line, if it has one, in MASTER role. -/
def Net.valvePresent (n : Net) (e : EntryBody) : Prop := e.valve.toNat < n.valves.length
def Net.valveUnclaimed (n : Net) (e : EntryBody) : Prop := ∀ x, n.valves[e.valve.toNat]? = some x → x.claim = none
def Net.valveMaster (n : Net) (e : EntryBody) : Prop := ∀ l st, n.valveLine e.valve.toNat = some (l, st) → (n.line l).role = .master

/-- R100: the incident a PLAN names may take it: found, not CLOSED, fewer than 4 links and reservations. -/
def Net.mayPlan (n : Net) (b : PlanBody) (x : Incident) : Prop :=
  findRecord n.incidents { slot := b.slot.toNat, serial := b.serial } = some x ∧ x.state ≠ .closed ∧ x.plans.length + x.reservations < 4

/-- The first entry that fails a check is the one at place `k`. -/
def FirstBad (ok : EntryBody → Prop) (es : List EntryBody) (k : Nat) : Prop :=
  (∃ e, es[k]? = some e ∧ ¬ ok e) ∧ ∀ j e, j < k → es[j]? = some e → ok e

/-- A plan `q`, named by `r`, whose running entry `ent`, at place `e`, is at valve `x`, which the plan claims. -/
structure Net.RunningAt (n : Net) (r : Ref) (q : Plan) (e : Nat) (ent : PlanEntry) (x : Valve) : Prop where
  plan : findRecord n.plans r = some q
  running : q.running = some e
  entry : q.entries[e]? = some ent
  valve : n.valves[ent.valve]? = some x
  claim : x.claim = some r

/-- R114: valve `v` is REMOTE at station `st` of line `l`, and none of the three conditions fails. -/
structure Net.MayEnter (n : Net) (v : Nat) (x : Valve) (l : Fin 4) (st : Nat) : Prop where
  kind : x.kind = .remote
  place : n.valveLine v = some (l, st)
  master : (n.line l).role = .master
  reachable : n.statusOf st ≠ .lost ∧ n.statusOf st ≠ .siteOut
  selector : x.selector ≠ some .atSite

/-- R123: the cause of a block has cleared at a valve: a MANUAL one, or a REMOTE one in REMOTE with no STOP pending, its station ONLINE on a
line in MASTER role. -/
def Net.Cleared (n : Net) (v : Nat) : Prop :=
  ∀ x, n.valves[v]? = some x → x.kind = .manual ∨
    (x.selector ≠ some .atSite ∧ x.stopPending = false ∧
      ∀ l st, n.valveLine v = some (l, st) → n.statusOf st = .online ∧ (n.line l).role = .master)

/-- R114: the first condition that fails for a staged step of a valve at station `st` of line `l`. -/
def Net.EntryFails (n : Net) (x : Valve) (l : Fin 4) (st : Nat) (reason : BlockReason) : Prop :=
  let out := n.statusOf st = .lost ∨ n.statusOf st = .siteOut
  ((n.line l).role = .listen ∧ reason = .lineUnavailable) ∨
    ((n.line l).role = .master ∧ out ∧ reason = .stationLost) ∨
    ((n.line l).role = .master ∧ ¬ out ∧ x.selector = some .atSite ∧ reason = .atSite)

/-- R121: a step in flight as it is staged again, its dwell `dwell`. -/
def StepInFlight.again (f : StepInFlight) (dwell : Nat) : Staged :=
  { entry := f.entry, step := f.step, target := f.target, dwell := dwell, awaiting := false }

/-- R121, R118: a plan whose running entry, at place `e`, is blocked at valve `v`. -/
def Plan.blockedBy (q : Plan) (e : Nat) (reason : BlockReason) (v : Nat) : Plan :=
  { q with
    entries := q.entries.modify e (fun y => { y with state := .blocked }), state := .blocked
    block := some { reason := reason, valve := v } }

/-- R29: the command list of a line after a STEP is entered behind no STOP of its station. -/
def stepEntered (cs : List Listed) (st : Nat) (tag : Byte) (target : Nat) : List Listed :=
  cs.filter (fun c => c.station ≠ st) ++ [{ station := st, command := .step tag target }]

/-- R30: the command list of a line after a STOP is entered: in the place of the station's STEP, else at the tail. -/
def stopEntered (cs : List Listed) (st : Nat) : List Listed :=
  if cs.any (fun c => c.station = st) then cs.map (fun c => if c.station = st then { station := st, command := .stop } else c)
  else cs ++ [{ station := st, command := .stop }]

/-- The entry at place `e` of a plan in another state. -/
def Plan.entryState (q : Plan) (e : Nat) (st : EntryState) : List PlanEntry := q.entries.modify e (fun y => { y with state := st })

/-- R114, R29: the net after the staged step of a plan's running entry is entered, the plan ACTIVE. -/
def Net.afterEntry (n : Net) (slot : Nat) (q : Plan) (e v : Nat) (x : Valve) (stg : Staged) (l : Fin 4) (st : Nat) : Net :=
  { n with
    plans := putRecord n.plans slot { q with entries := q.entryState e .running, state := .active, block := none }
    valves := n.valves.set v
      { x with
        staged := none
        inFlight := some
          { entry := stg.entry, step := stg.step, tag := (n.line l).tagCounter, target := stg.target, accepted := none
            unverified := false } }
    lines := n.lines.set l
      { n.line l with
        tagCounter := (n.line l).tagCounter + 1
        commands := stepEntered (n.line l).commands st (n.line l).tagCounter stg.target }
    marks := (n.marks.add .ordinary (.plan slot)).add .ordinary (.valve v) }

/-- R112, R113: plan `q1`, named by `k`, into which the acceptance of its trial has made `q`, has started its first entry, from net `n` to
`m`: its first step is staged, and awaits PROCEED or is entered; a condition of R114 that fails blocks it. -/
structure Net.FirstEntryStarted (n m : Net) (q q1 : Plan) : Prop where
  running : q1.running = some 0
  state : q1.state = .active ∨ q1.state = .holding ∨ q1.state = .blocked
  step : ∀ ent nx x, q.entries[0]? = some ent → ent.current = 0 → ent.steps[0]? = some nx → n.valves[ent.valve]? = some x →
    x.inFlight = none → ∃ y, m.valves[ent.valve]? = some y ∧ y.movedUnplanned = false ∧
      let staged (awaiting : Bool) : Staged := { entry := 0, step := 0, target := nx.target, dwell := nx.dwell, awaiting := awaiting }
      let stands (entry : EntryState) (plan : PlanState) (awaiting : Bool) : Prop :=
        q1.entries = q.entryState 0 entry ∧ q1.state = plan ∧ y.staged = some (staged awaiting) ∧ y.inFlight = none
      (y.staged = some (staged false) ∨ y.staged = some (staged true) ∨
        ∃ f, y.inFlight = some f ∧ f.entry = 0 ∧ f.step = 0 ∧ f.target = nx.target) ∧
      (x.kind = .manual ∧ n.valveLine ent.valve = none ∨ nx.hold = true ∧ (∃ l st, n.MayEnter ent.valve x l st) →
        stands .hold .holding true) ∧
      (∀ l st reason, x.kind = .remote → n.valveLine ent.valve = some (l, st) → n.EntryFails x l st reason →
        stands .blocked .blocked nx.hold ∧ q1.block = some { reason := reason, valve := ent.valve }) ∧
      ∀ l st, nx.hold = false → n.MayEnter ent.valve x l st →
        (x.stopPending = true ∨ (listedCommand (n.line l).commands st = some .stop ∧ n.stationValve st = some ent.valve) →
          stands .running .active false) ∧
        (x.stopPending = false → listedCommand (n.line l).commands st ≠ some .stop →
          q1.entries = q.entryState 0 .running ∧ q1.state = .active ∧ y.staged = none ∧
            y.inFlight = some
              { entry := 0, step := 0, tag := (n.line l).tagCounter, target := nx.target, accepted := none, unverified := false } ∧
            (m.line l).commands = stepEntered (n.line l).commands st (n.line l).tagCounter nx.target)

/-- R67, R135: the survey engine after the event in which valve `v`, under `claim`, changed its passing state. -/
def Survey.afterPassing (s : Survey) (v : Nat) (claim : Option Ref) : Survey :=
  { s with generation := s.generation + 1, pendingReal := true, changeValves := noteValve s.changeValves v claim }

/-- R12, R14: the net after a valve's fields have become those of `y`, a change of passing state handed on. -/
def Net.afterPosition (n : Net) (v : Nat) (x y : Valve) : Net :=
  if passingOf y.posState ≠ passingOf x.posState then
    { n with valves := n.valves.set v { y with passing := passingOf y.posState }, survey := n.survey.afterPassing v x.claim }
  else { n with valves := n.valves.set v y }

/-- R10, R11, spec/11: a valve after a reading of a valve part whose codes all have a meaning; bit 4 of the second byte is the selector. -/
def Valve.afterReading (x : Valve) (now : Time) (b : Byte × Byte) : Valve :=
  let motion : Motion := if b.2.toNat % 4 = 0 then .still else if b.2.toNat % 4 = 1 then .opening else .closing
  { x with
    position := some b.1.toNat, motion := some motion, closedLimit := some (b.2.getLsbD 2), openLimit := some (b.2.getLsbD 3)
    selector := some (if b.2.getLsbD 4 then .remote else .atSite), positionTime := some now, noted := false
    posState :=
      if motion ≠ .still then .moving
      else if b.2.getLsbD 2 = true ∧ b.2.getLsbD 3 = true then .unknown
      else if b.2.getLsbD 2 = true then .closed
      else if b.2.getLsbD 3 = true ∨ b.1.toNat = 100 then .opened
      else .partOpen }

/-- R116, R124: a reading shows that a valve, `x` before it, has moved; the first one after a STOP, a VALVE-NOTE or a start is not judged.
-/
def Valve.Moved (x : Valve) (b : Byte × Byte) : Prop :=
  x.settleNext = false ∧ x.noted = false ∧ ∃ p, x.position = some p ∧
    (b.2.toNat % 4 ≠ 0 ∨ p + 2 < b.1.toNat ∨ b.1.toNat + 2 < p ∨ ¬ (x.posState = .closed ↔ (x.afterReading 0 b).posState = .closed))

/-! ## Outages and surveys -/

/-- R132: an outage record with other held zones: customers-off is the sum of customers minus relit. -/
def Outage.holding (o : Outage) (held : List HeldZone) : Outage :=
  { o with held := held, customersOff := (held.map (fun h => h.customers - h.relit)).sum }

/-- R142 check 4: every point of a zone is GOOD and NORMAL. -/
def Net.PointsNormal (n : Net) (x : Zone) : Prop :=
  ∀ i ∈ x.points, ∃ q, n.points[i]? = some q ∧ q.quality = .good ∧ q.band = .normal

/-- R74: the zones that lose feed in a prefix, ascending. -/
def Net.losing (n : Net) (reached : List Nat) : List Nat :=
  (List.range n.zones.length).filter (fun z => (n.zones[z]?).any (fun x => x.fed = .fed) && decide (z ∉ reached))

/-- R74: the zones that gain feed in a prefix without being allowed, ascending: without REFEED-ACCEPTED, or in an outage that is not
RESTORING. -/
def Net.refedUnallowed (n : Net) (refeedAccepted : Bool) (reached : List Nat) : List Nat :=
  (List.range n.zones.length).filter (fun z => (n.zones[z]?).any (fun x => x.fed = .unfed) && decide (z ∈ reached) &&
    !(refeedAccepted && (n.zoneOutage z).any (fun q => q.2.state = .restoring)))

/-- R74: a prefix that holds a zone not allowed. -/
def Net.Offends (n : Net) (flags : Bool × Bool) (reached : List Nat) : Prop :=
  (flags.1 = false ∧ n.losing reached ≠ []) ∨ n.refedUnallowed flags.2 reached ≠ []

/-- R73: the entries hold, in their last entry that names valve `v`, a last step to target `t`. -/
def FinalTarget (es : List PlanEntry) (v t : Nat) : Prop :=
  ∃ before e after st, es = before ++ e :: after ∧ e.valve = v ∧ (∀ d ∈ after, d.valve ≠ v) ∧ e.steps.getLast? = some st ∧ st.target = t

/-- R73: valve `v` is claimed by a live plan other than the subject, whose final target for it is `t`. -/
def Net.LiveTarget (n : Net) (sub : Subject) (v t : Nat) : Prop :=
  ∃ x r q, n.valves[v]? = some x ∧ x.claim = some r ∧ sub ≠ .plan r ∧ findRecord n.plans r = some q ∧
    (q.state = .active ∨ q.state = .holding ∨ q.state = .blocked) ∧ FinalTarget q.entries v t

/-- R73: in prefix `k` of a subject an entry names valve `v`, the last such entry with final target `t`. -/
def Net.OwnTarget (n : Net) (sub : Subject) (k v t : Nat) : Prop :=
  ∃ r q, sub = .plan r ∧ findRecord n.plans r = some q ∧ FinalTarget (q.entries.take k) v t

/-- R73: valve `v` counts as passing in prefix `k`, by the first of the three rules that applies. -/
def Net.CountsPassing (n : Net) (sub : Subject) (k v : Nat) : Prop :=
  (∃ t, n.OwnTarget sub k v t ∧ t ≠ 0) ∨
    (∀ t, ¬ n.OwnTarget sub k v t) ∧
      ((∃ t, n.LiveTarget sub v t ∧ t ≠ 0) ∨
        (∀ t, ¬ n.LiveTarget sub v t) ∧ ∃ x, n.valves[v]? = some x ∧ x.passing = .passing)

/-- R73: source `i` counts as LIVE: a SOURCE trial counts its own as the target state. -/
def Net.CountsLive (n : Net) (sub : Subject) (i : Nat) : Prop :=
  ∃ x, n.sources[i]? = some x ∧
    ((∃ target o r f, sub = .source i target o r f ∧ target = .live) ∨ (∀ target o r f, sub ≠ .source i target o r f) ∧ x.state = .live)

/-- R66, R73: the nodes reached in prefix `k` of a trial, over the valves and sources as it counts them. -/
inductive Net.TrialFeeds (n : Net) (sub : Subject) (k : Nat) : Nat → Prop where
  | source (i : Nat) : n.CountsLive sub i → n.TrialFeeds sub k (sourceNode i)
  | along (v : Nat) (x : Valve) : n.valves[v]? = some x → n.CountsPassing sub k v → n.TrialFeeds sub k x.nodeA → x.nodeB < n.zones.length →
    n.TrialFeeds sub k x.nodeB
  | against (v : Nat) (x : Valve) : n.valves[v]? = some x → n.CountsPassing sub k v → n.TrialFeeds sub k x.nodeB → x.nodeA < n.zones.length →
    n.TrialFeeds sub k x.nodeA

/-- R73: a plan of n entries has n prefixes, a SOURCE order one. -/
def Net.prefixes (n : Net) : Subject → Nat
  | .plan r => ((findRecord n.plans r).map (fun q => q.entries.length)).getD 0
  | .source .. => 1

/-! ### The placing of losses (R134 to R137) -/

/-- R134: the zones a result takes from supply, ascending. -/
def Net.lossesOf (n : Net) (result : List Nat) : List Nat :=
  (List.range n.zones.length).filter (fun z => (n.zones[z]?).any (fun x => x.supply = .supplied) && decide (z ∉ result))

/-- R134: a result whose only changes are losses. -/
def Net.OnlyLosses (n : Net) (result : List Nat) : Prop :=
  ∀ z x, n.zones[z]? = some x → (x.supply = .unfed → z ∉ result) ∧ (x.supply = .repressurised ∨ x.supply = .refedUncontrolled → z ∈ result)

/-- R136: the losing zones as a record holds them. -/
def Net.newlyHeld (n : Net) (zs : List Nat) : List HeldZone :=
  zs.map (fun z => { zone := z, customers := ((n.zones[z]?).map (·.customers)).getD 0, relit := 0 })

/-- R135: the claim noted for a valve of the change set. -/
def claimNoted (cs : List ChangedValve) (v : Nat) : Option Ref := (cs.find? (fun c => c.valve = v)).bind (·.claim)

/-- R135: the noted claim of the lowest-numbered valve that carries one. -/
def FirstClaim (cs : List ChangedValve) (r : Ref) : Prop :=
  ∃ v, v < 256 ∧ claimNoted cs v = some r ∧ ∀ w, w < v → claimNoted cs w = none

/-- R135: the planned incident: the incident of the plan the noted claim names. -/
def Net.Planned (n : Net) (q : Ref) : Prop := ∃ r p, FirstClaim n.survey.changeValves r ∧ findRecord n.plans r = some p ∧ p.incident = q

/-- R136: the planned incident has an outage that is found and not RESTORED. -/
def Net.PlannedOutage (n : Net) (r : Ref) (o : Outage) : Prop :=
  ∃ q x, n.Planned q ∧ findRecord n.incidents q = some x ∧ x.outage = some r ∧ findRecord n.outages r = some o ∧ o.state ≠ .restored

/-- R135. -/
def Net.causeOfLosses (n : Net) : OutageCause :=
  if (List.range 256).any (fun v => (claimNoted n.survey.changeValves v).isSome) then .planned
  else if n.survey.changeSources ≠ [] then .sourceLoss
  else .unplanned

/-- R137: an IN-USE record in a state. -/
def Net.outageIn (n : Net) (st : OutageState) (i : Nat) (o : Outage) : Prop :=
  ∃ sl, n.outages[i]? = some sl ∧ sl.state = .inUse ∧ sl.record = some o ∧ o.state = st

/-- R136, R137: losses have no place: the planned incident names no outage that could take them, no outage slot is FREE, and no record is
ISOLATED or RESTORING. -/
structure Net.NoPlace (n : Net) : Prop where
  planned : ∀ r o, ¬ n.PlannedOutage r o
  full : ∀ sl ∈ n.outages, sl.state ≠ .free
  isolated : ∀ j o, ¬ n.outageIn .isolated j o
  restoring : ∀ j o, ¬ n.outageIn .restoring j o

/-- R137: the record of highest sequence among those in a state. -/
def Net.Newest (n : Net) (st : OutageState) (i : Nat) (o : Outage) : Prop :=
  n.outageIn st i o ∧ ∀ j w, n.outageIn st j w → j ≠ i → w.sequence < o.sequence

/-- R70, R136: every fed-state as the result gives it; every losing zone UNFED, its outage link naming `r`. -/
def Net.LossesLinked (n m : Net) (result : List Nat) (r : Ref) : Prop :=
  m.zones = n.zones.mapIdx (fun z x =>
    let y := { x with fed := if z ∈ result then .fed else .unfed }
    if z ∈ n.lossesOf result then { y with supply := .unfed, outage := some r } else y)

/-- R132, R136: the record made for losses. -/
def Net.madeOutage (n : Net) (link : Option Ref) (zs : List Nat) : Outage :=
  { sequence := n.outageSeq, cause := n.causeOfLosses, incident := link, state := .isolated, start := n.now, restored := none
    held := n.newlyHeld zs, customersOff := ((n.newlyHeld zs).map (fun h => h.customers - h.relit)).sum }

/-- R83, R136: the SUPPLY-LOSS incident asked for, linked to its outage. -/
def Net.madeSupplyLoss (n : Net) (zone : Nat) (x : Zone) (outage : Ref) : Incident :=
  { kind := .supplyLoss, cls := 1, zone := zone, anchorX := x.gridX, anchorY := x.gridY, opened := n.now, lastCall := none
    deadline := n.now + n.params.deadline 1, state := .opened, overdue := false, missed := false, late := false, escalated := false
    calls := [], further := 0, points := [], plans := [], reservations := 0, outage := some outage, armed := true }

/-- R133: zone `z`, whose record is `x`, is held by the outage record `o` of slot `j` in the entry `h`. -/
structure Net.HeldBy (n : Net) (z : Nat) (x : Zone) (j : Nat) (o : Outage) (h : HeldZone) : Prop where
  zone : n.zones[z]? = some x
  record : n.zoneOutage z = some (j, o)
  entry : o.entry z = some h

/-- R138, R139, R140: an applied result, from `n` to `m`, at a held zone: lost again, or gained by the state of its record. -/
def Net.HeldZoneTaken (n m : Net) (result : List Nat) (z : Nat) (x : Zone) (j : Nat) (o : Outage) (h : HeldZone) : Prop :=
  ∃ y w, m.zones[z]? = some y ∧ slotRecord m.outages j = some w ∧ w.cause = o.cause ∧ w.incident = o.incident ∧ w.start = o.start ∧
    let marked := .outage j ∈ m.marks.urgent ∨ .outage j ∈ m.marks.ordinary
    (x.supply = .repressurised ∨ x.supply = .refedUncontrolled → z ∉ result →
      y.supply = .unfed ∧ y.outage = x.outage ∧ .zone z ∈ m.marks.urgent ∧ w.entry z = some { h with relit := 0 } ∧
        w.customersOff = (w.held.map (fun k => k.customers - k.relit)).sum ∧ w.state = o.state ∧ marked) ∧
    (x.supply = .unfed → z ∈ result → o.state ≠ .restoring →
      y.supply = .refedUncontrolled ∧ y.outage = x.outage ∧ .zone z ∈ m.marks.urgent ∧ w.entry z = some h ∧ w.state = o.state) ∧
    (x.supply = .unfed → z ∈ result → o.state = .restoring → x.customers ≠ 0 →
      y.supply = .repressurised ∧ y.outage = x.outage ∧ (.zone z ∈ m.marks.urgent ∨ .zone z ∈ m.marks.ordinary) ∧ w.entry z = some h ∧
        w.state = .restoring) ∧
    (x.supply = .unfed → z ∈ result → o.state = .restoring → x.customers = 0 →
      y.supply = .supplied ∧ y.outage = none ∧ (.zone z ∈ m.marks.urgent ∨ .zone z ∈ m.marks.ordinary) ∧ w.entry z = none ∧ marked ∧
        (w.held = [] → w.state = .restored ∧ w.restored = some n.now) ∧ (w.held ≠ [] → w.state = .restoring) ∧
        ∀ i ∈ x.points, ∀ q, n.points[i]? = some q → q.quality = .good → (q.band = .lowlow ∨ q.band = .highhigh) →
          .point i ∈ m.marks.urgent)

/-- R134 steps 5 and 6: the points judged are marked before any zone, record or incident. -/
def Net.PointsMarkedFirst (n m : Net) : Prop :=
  ∃ (points : List Nat) (rest : List RecordName), m.marks.urgent = n.marks.urgent ++ points.map .point ++ rest ∧
    ∀ r ∈ rest, ∀ i, r ≠ .point i

/-- R158, R159: an answer written in an event that takes no folio, into folio `f`, the net left as `n`. -/
structure State.AnswersLate (s t : State) (f : Nat) (a : Answer) (n : Net) : Prop where
  net : t.net = n
  exch : t.exch = { s.exch with cause := causeAfter s t ((s.mem.read (s.folioAddr f + 2)).getLsbD 0) }
  report : t.report = s.report
  pending : t.pending = s.pending
  clock : s.SameClock t
  answered : t.Answered f a
  memory : ∀ b, b < s.folioAddr f ∨ s.folioAddr f + Config.folioBytes ≤ b → t.mem.read b = s.mem.read b

/-- R159: the trial that a stalled order offers again: of the CHECKING plan that has its folio, or of the SOURCE order itself. -/
def Net.OffersAgain (n : Net) (st : Stalled) (sub : Subject) : Prop :=
  match st with
  | .plan g =>
    ∃ j sl q, n.plans[j]? = some sl ∧ sl.record = some q ∧ q.state = .checking ∧ q.folio = some g ∧
      sub = .plan { slot := j, serial := sl.serial } ∧
      ∀ i w, slotRecord n.plans i = some w → w.state = .checking → w.folio = some g → i = j
  | .source g id target o r => sub = .source id target o r (some g)

/-! ## Events that touch the net alone -/

/-- Everything but the net stands, and CAUSE gains at most STARVED (R172). -/
structure State.OnlyNet (s t : State) (n : Net) : Prop where
  net : t.net = n
  exch : t.exch = { s.exch with cause := causeAfter s t false }
  report : t.report = s.report
  pending : t.pending = s.pending
  memory : t.mem = s.mem
  clock : s.SameClock t

/-- R158, R159, R164: the answer due in such an event: written, or, with the exchange out of reach, not written, the owner's effect being
the same. -/
structure State.EndsLate (s t : State) (f : Nat) (a : Answer) (n : Net) : Prop where
  net : t.net = n
  reached : s.exch.reachable = true → s.AnswersLate t f a n
  lost : s.exch.reachable = false → s.OnlyNet t n

/-- Everything but the exchange unit stands; the exchange unit is `x`, but for CAUSE, which gains at most STARVED (R172). -/
structure State.OnlyExchange (s t : State) (x : Exchange) : Prop where
  exch : t.exch = { x with cause := x.cause ||| (if t.starving then Cause.starved.bit else 0) }
  net : t.net = s.net
  report : t.report = s.report
  pending : t.pending = s.pending
  memory : t.mem = s.mem
  clock : s.SameClock t

/-! ## Commands that post an order -/

/-- The header and the order an order command posts. -/
def postedBy : Instr → Option (Post × Order)
  | .call p b => some (p, .call b)
  | .attend p b => some (p, actOrder b 1 0)
  | .safe p b => some (p, actOrder b 2 0)
  | .close p b => some (p, actOrder b 3 0)
  | .reclass p b cls => some (p, actOrder b 4 cls)
  | .ack p b => some (p, actOrder b 5 0)
  | .plan p b => some (p, .plan b)
  | .proceed p b => some (p, .proceed b)
  | .abandon p b => some (p, .abandon b)
  | .restore p b => some (p, .restore b)
  | .relight p b => some (p, .relight b)
  | .valveNote p b => some (p, .valveNote b)
  | .source p b => some (p, .source b)
  | .hold p line => some (p, .line { line := line, op := 1, speed := 0, window := 0, gap := 0, role := 0 })
  | .release p line => some (p, .line { line := line, op := 2, speed := 0, window := 0, gap := 0, role := 0 })
  | .configure p line speed window gap => some (p, .line { line := line, op := 3, speed := speed, window := window, gap := gap, role := 0 })
  | .role p line role => some (p, .line { line := line, op := 4, speed := 0, window := 0, gap := 0, role := role })
  | .limits p b => some (p, .limits b)
  | .lend p => some (p, .lend)
  | .query p b => some (p, .query b)
  | .clock p b => some (p, .clock b)
  | _ => none

/-! ## Warm start -/

/-- R93, R184 step 2: an incident whose ARMED deadline the run clock has reached is expired. -/
def Incident.expired (now : Time) (x : Incident) : Incident :=
  if x.armed = true ∧ x.deadline ≤ now then
    if x.state = .opened then { x with armed := false, overdue := true, missed := true } else { x with armed := false }
  else x

/-- R8, R128, R184 step 1: a valve SENT or TRAVELLING made unverified. -/
def Valve.unverified (x : Valve) : Valve :=
  match x.inFlight with
  | none => x
  | some f =>
    { x with
      inFlight := some { f with accepted := none, unverified := true }, position := none, posState := .unknown, motion := none
      closedLimit := none, openLimit := none, passing := .passing }

/-- R55, R184 step 3: a point whose stale age has passed is STALE. -/
def Point.aged (now : Time) (q : Point) : Point :=
  if q.freshSince + 1000 * q.settings.stale ≤ now ∧ (q.quality = .unknown ∨ q.quality = .good ∨ q.quality = .suspect) then
    { q with quality := .stale, pendingBand := none }
  else q

/-! ## Halting (R77, R112, R165) -/

/-- The CHECKING plans whose trials a HALT ends: the one its order is stalled on, then the queued ones; each is named once. -/
def State.haltedPlans (s : State) : List Ref :=
  let stalled : List Ref :=
    match s.exch.stall with
    | some (.plan folio) => ((s.net.planOfFolio folio).map (slotRef s.net.plans)).toList
    | _ => []
  (stalled ++ s.net.survey.queue.filterMap (fun q =>
    match q with
    | .plan r => some r
    | .source .. => none)).dedup

/-- The folio of a trial or of a stalled order that a HALT ends. -/
def State.HaltAnswers (s : State) (f : Nat) : Prop :=
  (∃ k ∈ s.haltedPlans, ∃ q, findRecord s.net.plans k = some q ∧ q.folio = some f) ∨
    (∃ id target o r, .source id target o r (some f) ∈ s.net.survey.queue) ∨
    ∃ id target o r, s.exch.stall = some (.source f id target o r)

/-- R77, R100, R112, R165: what a HALT makes of plans, reservations and folios. Slots that are RETIRING may be freed by the drain besides.
-/
structure State.TrialsHalted (s t : State) : Prop where
  freed : ∀ k ∈ s.haltedPlans, ∀ q, findRecord s.net.plans k = some q →
    t.net.plans[k.slot]? = some { state := .free, serial := k.serial, record := none }
  others : ∀ j sl, s.net.plans[j]? = some sl → sl.state ≠ .retiring →
    (∀ k ∈ s.haltedPlans, k.slot = j → findRecord s.net.plans k = none) → t.net.plans[j]? = some sl
  reservations : ∀ j sl x, s.net.incidents[j]? = some sl → sl.state ≠ .retiring → sl.record = some x →
    let taken := s.haltedPlans.filter (fun k => (findRecord s.net.plans k).any (fun q =>
      decide (q.incident.slot = j) && (findRecord s.net.incidents q.incident).isSome))
    t.net.incidents[j]? = some { sl with record := some { x with reservations := x.reservations - taken.length } }
  answers : ∀ f, s.HaltAnswers f → s.exch.reachable = true → s.report.filling ≠ some f → f ∉ s.exch.lent →
    t.Answered f (.plain .halted) ∧ ((s.mem.read (s.folioAddr f + 2)).getLsbD 0 = true → t.latched .answer = true)
  cutOff : s.exch.reachable = false → t.mem = s.mem

/-! ## Reset -/

/-- R17: a line after hardware reset. -/
structure Line.LeftByReset (strapHigh : Bool) (x : Line) : Prop where
  role : x.role = (if strapHigh then .master else .listen)
  strapRole : x.strapRole = x.role
  state : x.state = .held
  speed : x.params.speed = .b9600
  window : 10 * x.params.window = 200
  gap : x.params.gap = 10
  listenTimeout : x.listenTimeout = 60
  flags : x.permit = false ∧ x.reconfigured = false ∧ x.orderHold = false
  counters : x.pollCycle = 0 ∧ x.tagCounter = 0
  empty : x.roundRobin = none ∧ x.idleWait = none ∧ x.commands = [] ∧ x.continuation = none ∧ x.exchange = none
  driver : x.driver = .released

/-- R3, R65, R107, R131, R166: no table, no slot, no mark, the survey engine and the report unit in their reset condition. -/
structure State.NoRecords (t : State) : Prop where
  tables : t.net.valid = false ∧ t.net.zones = [] ∧ t.net.sources = [] ∧ t.net.valves = [] ∧ t.net.stations = [] ∧ t.net.points = []
  survey : t.net.survey.generation = 0 ∧ t.net.survey.pendingReal = false ∧ t.net.survey.changeValves = [] ∧
    t.net.survey.changeSources = [] ∧ t.net.survey.queue = [] ∧ t.net.survey.inFlight = none ∧ t.net.survey.held = none
  slots : t.net.plans = [] ∧ t.net.incidents = [] ∧ t.net.outages = []
  report : t.net.marks.urgent = [] ∧ t.net.marks.ordinary = [] ∧ t.report.filling = none ∧ t.report.count = 0 ∧
    t.report.contents = [] ∧ t.report.flush = none ∧ t.report.urgentOwed = false ∧ t.report.inProgress = none ∧
    t.report.retiring = [] ∧ t.report.flushInterval = 200

/-- R177, R149, R155, R160, R17: what a hardware reset leaves, the time of day apart. -/
structure State.LeftByReset (straps : Quad Bool) (t : State) : Prop where
  mode : t.net.mode = .halted ∧ t.exch.faultCode = .none
  registers : t.exch.xbase = 0 ∧ t.exch.cause = 0 ∧ t.exch.causeen = 0 ∧ t.noticeLine = false
  exchange : t.exch.cursor = none ∧ t.exch.stall = none ∧ t.exch.lent = [] ∧ t.exch.sweepTimer = none ∧ t.exch.sweep = none ∧
    t.exch.sweepOwed = false
  lines : ∀ l, (t.net.line l).LeftByReset (straps.get l)
  records : t.NoRecords
  runClock : t.net.now = 0

/-! ### The records a successful STARTING makes of the image entries -/

/-- The places of the items that satisfy a test, ascending. -/
def places {α : Type} (xs : List α) (p : α → Bool) : List Nat := (List.range xs.length).filter (fun i => (xs[i]?).any p)

/-- R3, R5, R2: zone `i` from its entry. -/
def startedZone (g : Images) (i : Nat) (x : RawZone) : Zone where
  customers := x.customers
  tier := if x.tier = 0 then .low else if x.tier = 1 then .medium else .intermediate
  gridX := x.gridX
  gridY := x.gridY
  points := places g.points (fun p => p.zone = i)
  valves := places g.valves (fun v => v.nodeA = i ∨ v.nodeB = i)
  fed := .fed
  supply := .supplied
  outage := none
  summary := none

/-- R6, R2: source `i`, which is node 128 + `i`. -/
def startedSource (g : Images) (i : Nat) (x : RawSource) : Source where
  point := if x.point = 65535 then none else some x.point
  initial := if x.initial = 0 then .live else .out
  valves := places g.valves (fun v => v.nodeA = 128 + i ∨ v.nodeB = 128 + i)
  state := if x.initial = 0 then .live else .out

/-- R7, R8, R12, R14, R109: a valve, REMOTE for kind 0, else MANUAL. -/
def startedValve (x : RawValve) : Valve where
  nodeA := x.nodeA
  nodeB := x.nodeB
  kind := if x.kind = 0 then .remote else .manual
  station := if x.kind = 0 then some x.station else none
  travelLimit := if x.kind = 0 then x.travel else 0
  initialPosition := if x.kind = 0 then none else some x.initial
  position := if x.kind = 0 then none else some x.initial
  posState := if x.kind = 0 then .unknown else if x.initial = 0 then .closed else if x.initial = 100 then .opened else .partOpen
  passing := if x.kind ≠ 0 ∧ x.initial = 0 then .notPassing else .passing
  motion := none
  closedLimit := none
  openLimit := none
  selector := none
  movedUnplanned := false
  noted := false
  positionTime := none
  claim := none
  staged := none
  inFlight := none
  dwellEnd := none
  stopPending := false
  settleNext := false

/-- R42, R39: station `i`; its points in ascending order of slot, its valve the REMOTE one that names it; last heard now on a line that
listens. -/
def startedStation (g : Images) (n : Net) (i : Nat) (x : RawStation) : Station where
  line := Fin.ofNat 4 x.line
  address := x.address
  kind := if x.kind = 0 then .pressure else if x.kind = 1 then .valve else .combined
  pollClass := if x.poll = 0 then .fast else .slow
  points := ((List.range 8).map (fun slot => places g.points (fun p => p.station = i ∧ p.slot = slot))).flatten
  valve := (places g.valves (fun v => v.kind = 0 ∧ v.station = i)).head?
  status := .unknown
  silent := 0
  busy := 0
  backoff := 0
  resume := .unknown
  lastReply := none
  replyRef := n.now
  lastHeard := if (n.line (Fin.ofNat 4 x.line)).role = .listen then some n.now else none

/-- R52. -/
def startedPoint (now : Time) (x : RawPoint) : Point where
  station := x.station
  slot := x.slot
  zone := x.zone
  settings := x.settings
  value := none
  quality := .unknown
  band := .normal
  pendingBand := none
  freshSince := now

/-- R181, R5, R6, R8, R14, R18, R39, R40, R42, R52, R65, R81, R107, R131, R168: the network at a successful STARTING from charter `c` and
images `g`. -/
structure Net.Started (n : Net) (c : Charter) (g : Images) : Prop where
  mode : n.mode = .running ∧ n.valid = true
  zones : n.zones = g.zones.mapIdx (startedZone g)
  sources : n.sources = g.sources.mapIdx (startedSource g)
  valves : n.valves = g.valves.map startedValve
  stations : n.stations = g.stations.mapIdx (startedStation g n)
  points : n.points = g.points.map (startedPoint n.now)
  params : n.params = c.params
  slots : n.plans = List.replicate 16 { state := .free, serial := 0, record := none } ∧
    n.incidents = List.replicate 64 { state := .free, serial := 0, record := none } ∧
    n.outages = List.replicate 32 { state := .free, serial := 0, record := none } ∧ n.outageSeq = 0
  survey : n.survey.generation = 0 ∧ n.survey.pendingReal = true ∧ n.survey.changeValves = [] ∧ n.survey.changeSources = [] ∧
    n.survey.queue = [] ∧ n.survey.inFlight = none ∧ n.survey.held = none
  lines : ∀ l, (n.line l).state = .settling ∧ (n.line l).role = (n.line l).strapRole ∧ (n.line l).orderHold = false ∧
    (n.line l).reconfigured = false ∧ (n.line l).commands = [] ∧ (n.line l).continuation = none ∧ (n.line l).exchange = none ∧
    (n.line l).pollCycle = 0 ∧ (n.line l).tagCounter = 0 ∧ (n.line l).roundRobin = none ∧ (n.line l).since = n.now ∧
    (n.line l).params = (c.lines.get l).params ∧ (n.line l).listenTimeout = (c.lines.get l).listenTimeout ∧
    (n.line l).permit = (c.lines.get l).permit
  marks : n.marks.urgent = [] ∧ n.marks.ordinary =
    (List.range n.zones.length).map .zone ++ (List.range n.sources.length).map .source ++ (List.range n.valves.length).map .valve ++
      (List.range n.stations.length).map .station ++ (List.range n.points.length).map .point ++ [.line 0, .line 1, .line 2, .line 3]

/-! ## The checks of the images (R180) -/

/-- R180: the first entry of an image that fails its check is the one at place `k`; a check sees the entries before it. -/
def FirstFault {α : Type} (good : List α → α → Prop) (xs : List α) (k : Nat) : Prop :=
  (∃ x, xs[k]? = some x ∧ ¬ good (xs.take k) x) ∧ ∀ j y, j < k → xs[j]? = some y → good (xs.take j) y

/-- No entry of an image fails. -/
def AllGood {α : Type} (good : List α → α → Prop) (xs : List α) : Prop := ∀ j y, xs[j]? = some y → good (xs.take j) y

/-- R180: a station entry. -/
def stationGood (before : List RawStation) (x : RawStation) : Prop :=
  x.line ≤ 3 ∧ 1 ≤ x.address.toNat ∧ x.address.toNat ≤ 250 ∧ x.kind ≤ 2 ∧ x.poll ≤ 1 ∧
    (∀ y ∈ before, ¬ (y.line = x.line ∧ y.address = x.address)) ∧ (before.filter (fun y => y.line = x.line)).length < 32

/-- R58: limits, deadband, confirm delay and stale age. -/
def Settings.good (x : Settings) : Prop :=
  x.ll < x.l ∧ x.l < x.h ∧ x.h < x.hh ∧ x.hh ≤ 65535 ∧ 2 * x.deadband < x.h - x.l ∧ x.confirm ≤ 60 ∧ 10 ≤ x.stale ∧ x.stale ≤ 3600

/-- R180: a point entry; a station of kind 1 is a VALVE station. -/
def pointGood (g : Images) (before : List RawPoint) (x : RawPoint) : Prop :=
  (∃ y, g.stations[x.station]? = some y ∧ y.kind ≠ 1) ∧ x.slot ≤ 7 ∧ (∀ y ∈ before, ¬ (y.station = x.station ∧ y.slot = x.slot)) ∧
    x.zone < g.zones.length ∧ x.settings.good

/-- R4: a zone entry. -/
def zoneGood (_before : List RawZone) (x : RawZone) : Prop := x.tier ≤ 2 ∧ x.gridX ≤ 4095 ∧ x.gridY ≤ 4095

/-- R6: a source entry. -/
def sourceGood (g : Images) (_before : List RawSource) (x : RawSource) : Prop :=
  x.initial ≤ 1 ∧ (x.point = 65535 ∨ x.point < g.points.length)

/-- R1: a node number names a present zone or a present source. -/
def nodeGood (g : Images) (v : Nat) : Prop := v < 128 ∧ v < g.zones.length ∨ 128 ≤ v ∧ v - 128 < g.sources.length

/-- R2, R7: a valve entry, of kind 0 REMOTE or 1 MANUAL. -/
def valveGood (g : Images) (before : List RawValve) (x : RawValve) : Prop :=
  nodeGood g x.nodeA ∧ nodeGood g x.nodeB ∧ x.nodeA ≠ x.nodeB ∧
    (x.kind = 0 ∧ (∃ y, g.stations[x.station]? = some y ∧ (y.kind = 1 ∨ y.kind = 2)) ∧ (∀ y ∈ before, y.station ≠ x.station) ∧
        5 ≤ x.travel ∧ x.travel ≤ 600 ∨
      x.kind = 1 ∧ x.station = 65535 ∧ x.initial ≤ 100)

/-! ## Sweeps -/

/-- R157 steps 2 and 3 for the cursor folio: its turn is neither OPEN nor POSTED, and its link is NONE or names a folio. -/
def State.chainReadable (s : State) : Prop :=
  ∀ c, s.exch.cursor = some c →
    1 < (s.mem.read (s.folioAddr c)).toNat ∧ (s.linkOf c = Config.noneHalf ∨ s.linkOf c < s.exch.folioCount)

/-- R157: what a sweep that begins reads next. -/
def State.firstPhase (s : State) : SweepPhase :=
  match s.exch.cursor with
  | none => .atStart
  | some c => phaseAfter (s.linkOf c)

/-- R163, R164: what an exchange fault leaves of the exchange unit in RUNNING, in `s` before it. -/
structure State.DetachedBy (s t : State) (c : FaultCode) : Prop where
  mode : t.net.mode = .detached
  exch : t.exch =
    { s.exch with
      faultCode := c, sweep := none, sweepTimer := none, sweepOwed := false, stall := none, lent := [], reachable := false
      cause := s.exch.cause ||| Cause.fault.bit ||| (if t.starving then Cause.starved.bit else 0) }
  noFolio : t.report.filling = none
  memory : t.mem = s.mem
  pending : t.pending = s.pending
  clock : s.SameClock t
  net : t.net.now = s.net.now ∧ t.net.zones = s.net.zones ∧ t.net.sources = s.net.sources ∧ t.net.valves = s.net.valves ∧
    t.net.stations = s.net.stations ∧ t.net.points = s.net.points ∧ t.net.lines = s.net.lines ∧ t.net.survey = s.net.survey

/-! ## Lines and stations -/

/-- R34: the line after a HOLD: the order hold flag set, HELD, or HOLDING while an exchange runs. -/
def Line.afterHold (x : Line) : Line :=
  { x with
    orderHold := true
    state := if x.state = .await ∨ x.state = .holding then .holding else .held
    idleWait := if x.state = .idle then none else x.idleWait
    reconfigured := x.reconfigured || decide (x.state = .settling) }

/-- R34, R41: the net after a HOLD of line `l`; a line already held, its flag set, is not marked. -/
def Net.afterHold (n : Net) (l : Fin 4) : Net :=
  { n with
    lines := n.lines.set l (n.line l).afterHold
    marks := if (n.line l).orderHold = true ∧ ((n.line l).state = .held ∨ (n.line l).state = .holding) then n.marks
      else n.marks.add .ordinary (.line l) }

/-- R39, R49: the net after line `l`, whose fields are those of `x`, has entered IDLE from HELD or SETTLING. -/
def Net.afterIdle (n : Net) (l : Fin 4) (x : Line) : Net :=
  { n with
    lines := n.lines.set l { x with state := .idle }
    stations := n.stations.map (fun z =>
      if z.line = l then { z with replyRef := n.now, lastHeard := if x.role = .listen then some n.now else z.lastHeard } else z)
    marks := n.marks.add .ordinary (.line l) }

/-- R22: the net after line `l` has chosen an exchange and sends its poll; a READ moves the round-robin position. -/
def Net.afterChoice (n : Net) (l : Fin 4) (st : Nat) (z : Station) (f : PollFunction) : Net :=
  { n with
    lines := n.lines.set l
      { n.line l with
        state := .await, exchange := some { station := st, function := f, frame := pollFrame z.address f }, windowSince := none
        frameBegun := false, roundRobin := if f = .read then some st else (n.line l).roundRobin
        readThisCycle := (n.line l).readThisCycle || decide (f = .read) } }

/-- The oldest listed command that satisfies a condition. -/
def Oldest (cs : List Listed) (p : Listed → Prop) (c : Listed) : Prop :=
  p c ∧ ∃ before after, cs = before ++ c :: after ∧ ∀ d ∈ before, ¬ p d

/-- R21, candidates 1 and 3: what makes a listed STOP, a listed STEP one that may be sent. -/
def Net.stopMay (n : Net) (c : Listed) : Prop := c.command = .stop ∧ n.statusOf c.station ≠ .backoff
def Net.stepMay (n : Net) (c : Listed) : Prop :=
  c.command ≠ .stop ∧ n.statusOf c.station = .online ∧
    ∀ v x, n.stationValve c.station = some v → n.valves[v]? = some x → x.selector ≠ some .atSite

/-- R20: a station due on a line after the round-robin position. -/
def Net.readMay (n : Net) (l : Fin 4) (st : Nat) (z : Station) : Prop :=
  n.stations[st]? = some z ∧ z.line = l ∧ z.status ≠ .backoff ∧ (z.pollClass = .fast ∨ (n.line l).pollCycle.toNat % 8 = 0) ∧
    ∀ r, (n.line l).roundRobin = some r → r < st

/-- R45: a station of a line whose cycle closes. -/
def Station.afterClose (z : Station) : Station :=
  if z.status ≠ .backoff then z
  else if z.backoff ≤ 1 then { z with backoff := 0, status := z.resume }
  else { z with backoff := z.backoff - 1 }

/-- R20: a line whose cycle closes; one in which no READ was sent starts an idle wait of one response window. -/
def Line.afterClose (now : Time) (x : Line) : Line :=
  { x with
    pollCycle := x.pollCycle + 1, roundRobin := none, readThisCycle := false
    idleWait := if x.readThisCycle = true then none else some (now + 10 * x.params.window) }

/-- R44, R46, R48, R49: a station made LOST: both counts and the backoff remaining 0. -/
def Station.madeLost (z : Station) : Station := { z with status := .lost, silent := 0, busy := 0, backoff := 0 }

/-- R44. -/
def Station.afterBusy (z : Station) : Station :=
  let y := { z with busy := min (z.busy + 1) 6, silent := 0 }
  if z.status = .lost ∨ z.status = .siteOut then y
  else if y.busy = 6 then z.madeLost
  else { y with status := .backoff, backoff := 2, resume := if z.status = .backoff then z.resume else z.status }

/-- R46. -/
def Station.afterSilence (z : Station) : Station :=
  let y := { z with silent := min (z.silent + 1) 3, busy := 0 }
  if z.status ≠ .lost ∧ z.status ≠ .siteOut ∧ y.silent = 3 then z.madeLost else y

/-- R25, R43 to R47: a station after an exchange that ended with a reply kind, or in silence (`none`). -/
def Station.afterEnding (z : Station) (now : Time) (f : PollFunction) : Option ReplyKind → Station
  | some (.data _) | some (.part _) =>
    { z with status := .online, silent := 0, busy := 0, backoff := 0, lastReply := some now, replyRef := now }
  | some .busy => z.afterBusy
  | some .refuse =>
    if f = .read ∨ f = .continue_ then { z with status := .siteOut, silent := 0, busy := 0 } else { z with silent := 0, busy := 0 }
  | none => z.afterSilence

/-- R25 step 4: the exchange of line `l` has ended: AWAIT goes to GAP, HOLDING to HELD. -/
structure Net.ExchangeEnded (n m : Net) (l : Fin 4) : Prop where
  cleared : (m.line l).exchange = none ∧ (m.line l).windowSince = none ∧ (m.line l).frameBegun = false ∧ (m.line l).since = n.now
  state : (m.line l).state = if (n.line l).state = .await then .gap else .held

/-- R53, R54, R57: the one reading of a payload from station `st`, applied to the point in its slot; R59, R61, R63: what it hands on. -/
def Net.ReadingApplied (n m : Net) (st : Nat) (p : Payload) : Prop :=
  ∀ r i q, p.readings = [r] → n.pointAt st r.slot = some i → n.points[i]? = some q →
    ∃ w, m.points[i]? = some w ∧ w.value = some r.value ∧
      (r.fault = true → w.quality = .suspect ∧ w.band = q.band ∧ w.pendingBand = none) ∧
      (r.fault = false → w.quality = .good ∧ w.freshSince = n.now ∧
        (w.band, w.pendingBand) = moveBand n.now q.settings (candidateBand q.settings q.band r.value) q.band q.pendingBand) ∧
      n.HandedOn m i q w ∧ ∀ y, m.zones[q.zone]? = some y → m.SummaryIs y

/-- R32, R51, R59, R115, R122: station `st`, whose record was `z`, has gone out of reach, LOST or SITE-OUT: its points are LOST, their
zones' summaries recomputed, its listed command and the continuation `owed` to it gone, and the running entry at its valve blocked. The
commands of the other stations stay where the station's valve names it and has no step in flight but one of its plan's running entry. -/
structure Net.OutOfReach (n m : Net) (st : Nat) (z : Station) (owed : Option Nat) : Prop where
  marked : .station st ∈ m.marks.urgent ∨ .station st ∈ m.marks.ordinary
  points : ∀ i ∈ z.points, ∀ q, n.points[i]? = some q → m.points[i]? = some { q with quality := .lost, pendingBand := none }
  summaries : ∀ i ∈ z.points, ∀ q y, n.points[i]? = some q → m.zones[q.zone]? = some y → m.SummaryIs y
  commands : (∀ v, z.valve = some v → n.valveLine v = some (z.line, st) ∧
      ∀ slot q, n.claimPlan v = some (slot, q) → q.runs v = true ∨ ∀ y, n.valves[v]? = some y → y.inFlight = none) →
    (m.line z.line).commands = (n.line z.line).commands.filter (fun c => c.station ≠ st)
  continuation : (m.line z.line).continuation = if owed = some st then none else owed
  plan : ∀ (r : Ref) (q : Plan) (e : Nat) (ent : PlanEntry) (x : Valve), n.RunningAt r q e ent x → z.valve = some ent.valve →
    n.valveLine ent.valve = some (z.line, st) → (q.state = .active ∨ q.state = .holding) → x.stopPending = false →
    m.plans = putRecord n.plans r.slot (q.blockedBy e .stationLost ent.valve) ∧ .plan r.slot ∈ m.marks.urgent ∧
      m.valves =
        match x.inFlight with
        | some f =>
          n.valves.set ent.valve
            { x with inFlight := none, staged := some (f.again (((q.stepAt f.entry f.step).map (·.dwell)).getD 0)) }
        | none => n.valves

/-- R48, R49, R51: station `st`, whose record was `z`, made LOST; from SITE-OUT it was out of reach already. -/
structure Net.StationLost (n m : Net) (st : Nat) (z : Station) : Prop where
  station : m.stations[st]? = some z.madeLost
  reach : z.status ≠ .siteOut → n.OutOfReach m st z (n.line z.line).continuation

/-! ## Reports -/

/-- R169: the report unit fills folio `f`, with `c` records in it: the one being filled, or the head of the lent list. -/
def State.Fills (s : State) (f c : Nat) : Prop :=
  (s.report.filling = some f ∧ c = s.report.count) ∨ (s.report.filling = none ∧ (∃ rest, s.exch.lent = f :: rest) ∧ c = 0)

/-- R169: the record to report next, with the list it is taken from. -/
def Marks.next (m : Marks) (r : RecordName) (k : MarkKind) : Prop :=
  (k = .urgent ∧ ∃ rest, m.urgent = r :: rest) ∨ (k = .ordinary ∧ m.urgent = [] ∧ ∃ rest, m.ordinary = r :: rest)

/-- A RETIRING slot made FREE, where `gone` says so. -/
def emptied {α : Type} (gone : Bool) (sl : Slot α) : Slot α :=
  if gone = true ∧ sl.state = .retiring then { sl with state := .free, record := none } else sl

/-- R79, R107, R145, R173: the slots whose closing reports are those of `rs` made FREE, all in one event. -/
def Net.freed (n : Net) (rs : List Retiring) : Net :=
  let gone (r : RecordName) : Bool := rs.any (fun x => x.record = r)
  { n with
    incidents := n.incidents.mapIdx (fun i => emptied (gone (.incident i)))
    plans := n.plans.mapIdx (fun i => emptied (gone (.plan i)))
    outages := n.outages.mapIdx (fun i => emptied (gone (.outage i))) }

/-- R71, R145, R173: `m` is `n` once a returned folio has freed the slots of `rs`. When an outage slot is among them, a held completion is
dropped and a real survey owed if the generation has moved, and is otherwise offered again as at a first completion. -/
def Net.SlotsFreed (n m : Net) (rs : List Retiring) : Prop :=
  let v := n.freed rs
  let noticed := ∃ x ∈ rs, ∃ i, x.record = .outage i
  (¬ noticed ∨ n.survey.held = none → m = v) ∧
  ∀ h, noticed → n.survey.held = some h →
    (n.survey.generation ≠ h.start → m = { v with survey := { v.survey with held := none, pendingReal := true } }) ∧
    (n.survey.generation = h.start → n.survey.inFlight = none →
      ∃ u, exec .realSurveyCompletion
          { State.reset with
            net := { v with survey := { v.survey with held := none, inFlight := some (.real h.start h.reached) } } } = .next u ∧
        m = u.net)

/-- An IN-USE slot made RETIRING, where `closed` says so. -/
def closing {α : Type} (closed : Bool) (sl : Slot α) : Slot α :=
  if closed = true ∧ sl.state = .inUse then { sl with state := .retiring } else sl

/-- R79, R107, R145, R173: the slot of record `r` made RETIRING when its closing report has been written, as `closed` says. -/
def Net.retired (n : Net) (r : RecordName) (closed : Bool) : Net :=
  { n with
    incidents := n.incidents.mapIdx (fun i => Machine.closing (closed && decide (r = .incident i)))
    plans := n.plans.mapIdx (fun i => Machine.closing (closed && decide (r = .plan i)))
    outages := n.outages.mapIdx (fun i => Machine.closing (closed && decide (r = .outage i))) }

/-- R171, R173: folio `f` returned with `c` records, from net `n` with the retiring set `rs`: the folio items of R166 as no folio leaves
them (the next lent folio is taken at the next write, log 39), and the slots whose closing reports lie in it FREE. -/
structure State.Returned (s t : State) (f c : Nat) (owed : Bool) (n : Net) (rs : List Retiring) : Prop where
  turn : t.mem.read (t.folioAddr f) = 5
  bodyLength : t.mem.read (t.folioAddr f + 6) = BitVec.ofNat 8 (16 * c)
  recordCount : t.mem.read (t.folioAddr f + 7) = BitVec.ofNat 8 c
  stampFlag : (t.mem.read (t.folioAddr f + 2)).getLsbD 1 = t.timeUnset
  stamp : t.mem.number (t.folioAddr f + 8) 8 = t.stamp % 2 ^ 64
  items : t.report.filling = none ∧ t.report.count = 0 ∧ t.report.contents = [] ∧ t.report.flush = none ∧ t.report.urgentOwed = false ∧
    t.report.retiring = rs.filter (fun x => x.folio ≠ f)
  slots : n.SlotsFreed t.net (rs.filter (fun x => x.folio = f))
  causes : ∀ c : Cause, t.latched c = (s.latched c || decide (c = .return_) || (decide (c = .urgent) && owed) ||
    (decide (c = .starved) && t.starving))

/-- R170, R187: the share of a report in progress that one folio takes from its first record on: a head and up to 14 content records. -/
def ReportInProgress.share (p : ReportInProgress) : List OutByte :=
  shareBytes
    { kind := p.record.kind, closing := p.closing, urgent := decide (p.list = .urgent), records := (p.rest.take 14).length + 1, part := p.part
      parts := p.parts, ident := p.record.ident, serial := p.serial, time := p.time } (p.rest.take 14)

/-- R170: the report in progress after such a share; none when it was the last. -/
def ReportInProgress.after (p : ReportInProgress) : Option ReportInProgress :=
  if p.rest.length ≤ 14 then none else some { p with rest := p.rest.drop 14, part := p.part + 1 }

/-- R174: the marks once the reports of a lost folio and the report in progress are marked again. -/
def marksAgain (m : Marks) (contents : List ContentsEntry) (p : Option ReportInProgress) : Marks :=
  let m1 := contents.foldl (fun m c => m.add c.list c.record) m
  match p with
  | some p => m1.add p.list p.record
  | none => m1

/-! ## Orders as bytes -/

/-- R185, spec/11: the bytes an order body of each kind needs at least, from kind 1 on. -/
def orderNeeds : List Nat := [10, 5, 6, 4, 4, 4, 4, 2, 3, 6, 16, 0, 6, 10]

/-- R158: a header that is answered BAD-FORM: no order of that kind, or a body above 240 bytes. -/
def headerBad (kind bodyLen : Byte) : Prop := kind.toNat = 0 ∨ 14 < kind.toNat ∨ 240 < bodyLen.toNat

/-- R185: a body shorter than its order needs; a PLAN of `count` entries needs 18 bytes for each. -/
def bodyShort (kind bodyLen count : Byte) : Prop :=
  (∃ k, orderNeeds[kind.toNat - 1]? = some k ∧ bodyLen.toNat < k) ∨
    (kind.toNat = 3 ∧ 1 ≤ count.toNat ∧ count.toNat ≤ 8 ∧ bodyLen.toNat < 6 + 18 * count.toNat)

/-- R162: a month's days, in a year from 2000 to 2099. -/
def monthDays (y m : Nat) : Nat :=
  if m = 2 then (if y % 4 = 0 then 29 else 28) else if m = 4 ∨ m = 6 ∨ m = 9 ∨ m = 11 then 30 else 31

/-- R162: a CLOCK body that names a moment. -/
def ClockBody.good (b : ClockBody) : Prop :=
  2000 ≤ b.year.toNat ∧ b.year.toNat ≤ 2099 ∧ 1 ≤ b.month.toNat ∧ b.month.toNat ≤ 12 ∧ 1 ≤ b.day.toNat ∧
    b.day.toNat ≤ monthDays b.year.toNat b.month.toNat ∧ b.hour.toNat ≤ 23 ∧ b.minute.toNat ≤ 59 ∧ b.second.toNat ≤ 59 ∧ b.ms.toNat ≤ 999

/-- R178: whole days from 2000-01-01 to the day a CLOCK body names. -/
def ClockBody.days (b : ClockBody) : Nat :=
  ((List.range (b.year.toNat - 2000)).map (fun k => if k % 4 = 0 then 366 else 365)).sum +
    ((List.range (b.month.toNat - 1)).map (fun k => monthDays b.year.toNat (k + 1))).sum + (b.day.toNat - 1)

/-! ## Reachability (R66) -/

/-- R66: the reachable set over nodes: LIVE sources, and zones joined by a passing valve to a node of the set. -/
inductive Net.Feeds (n : Net) : Nat → Prop where
  | source (i : Nat) (x : Source) : n.sources[i]? = some x → x.state = .live → n.Feeds (sourceNode i)
  | along (v : Valve) : v ∈ n.valves → v.passing = .passing → n.Feeds v.nodeA → v.nodeB < n.zones.length → n.Feeds v.nodeB
  | against (v : Valve) : v ∈ n.valves → v.passing = .passing → n.Feeds v.nodeB → v.nodeA < n.zones.length → n.Feeds v.nodeA

end Sys2Proof.Machine
end

