-- ==== Sys2Proof/Certificates/Slice0/Obligations.lean ====
section
/-! DEFINITION. The statements about the part, for the provers: what each command does, and what no command breaks. A statement that rests
on a choice of the model says so and names the log entry. -/

open Sys2Proof Sys2Proof.Machine

/-! ## The queue, the pins and the clocks -/

/-- A step runs the command at the front of the queue on the state with the rest of the queue. -/
def Obligations.StepRunsFrontCommand : Prop :=
  ∀ (c : Instr) (rest : List Instr) (s : State), s.pending = c :: rest → step s = exec c { s with pending := rest }

/-- On an empty queue a step is one millisecond on both clocks (DESIGN CHOICE, log 3; the rollover by tick, log 30); that the run clock
wraps at 2^48 is the model's choice (log 5). R178: the clock's power-on and its rollover set TIME-UNSET and restart the time of day; the
rollover command acts at the last millisecond only (log 30). -/
def Obligations.ClocksTickAndRestart : Prop :=
  (∀ s : State, s.pending = [] →
      step s = .next
        { s with
          net := { s.net with now := (s.net.now + 1) % 2 ^ 48 }
          tod := if s.tod + 1 < 36525 * 86400000 then s.tod + 1 else 0
          timeUnset := if s.tod + 1 < 36525 * 86400000 then s.timeUnset else true }) ∧
  (∀ s : State, exec .timeOfDayPowerOn s = .next { s with tod := 0, timeUnset := true } ∧
      (s.tod = 36525 * 86400000 - 1 → exec .timeOfDayRollover s = .next { s with tod := 0, timeUnset := true }) ∧
      (s.tod ≠ 36525 * 86400000 - 1 → exec .timeOfDayRollover s = .next s))

/-- R177: the state after reset holds what a hardware reset leaves, waits for nothing, and satisfies every invariant below; all straps high
is log 6, empty memory log 1. -/
def Obligations.ResetStateIsAfterHardwareReset : Prop :=
  State.LeftByReset ⟨true, true, true, true⟩ State.reset ∧ State.reset.pending = [] ∧ State.reset.mem = [] ∧ State.reset.Inv ∧
    State.reset.Agrees

/-- R177: HARDWARE_RESET leaves every block as the table says; host memory and the time of day are not the part's to reset. -/
def Obligations.HardwareResetLeavesTheTable : Prop :=
  ∀ (straps : Quad Bool) (s : State), ∃ t, exec (.hardwareReset straps) s = .next t ∧ t.LeftByReset straps ∧ t.mem = s.mem ∧
    t.pending = s.pending ∧ s.SameClock t

/-! ## The register window -/

/-- R149: XBASE is written in HALTED only, its ten lowest bits taken as 0; a write to IDENT is ignored. R151: a write to CAUSE clears each
cause written as one, and STARVED is latched again while its condition holds (R172). -/
def Obligations.RegisterWrites : Prop :=
  (∀ (v : Word) (s : State), exec (.identWrite v) s = .next s ∧
      (s.net.mode = .halted → exec (.xbaseWrite v) s = .next { s with exch := { s.exch with xbase := (v >>> 10) <<< 10 } }) ∧
      (s.net.mode ≠ .halted → exec (.xbaseWrite v) s = .next s)) ∧
  (∀ (v : Word) (s : State), ∃ t, exec (.causeWrite v) s = .next t ∧ s.OnlyExchange t { s.exch with cause := s.exch.cause &&& ~~~v } ∧
      ∀ c : Cause, t.latched c = ((s.latched c && !v.getLsbD c.position) || (decide (c = .starved) && s.starving)))

/-- R152: the notice line is asserted exactly while a cause is both latched and enabled, whatever event brought the registers there; a
write to CAUSEEN makes its value the enable mask, every position kept; a cause latches, and reads in CAUSE, enabled or not; after hardware
reset nothing is enabled. -/
def Obligations.NoticeLineFollowsTheRegisters : Prop :=
  (∀ s : State, s.noticeLine = true ↔ ∃ c : Cause, s.exch.cause.getLsbD c.position = true ∧ s.exch.causeen.getLsbD c.position = true) ∧
    (∀ (v : Word) (s : State), exec (.causeenWrite v) s = .next { s with exch := { s.exch with causeen := v } }) ∧
    (∀ (c : Cause) (s : State), (s.latch c).latched c = true ∧ (s.latch c).readCause.getLsbD c.position = true) ∧
    ∀ (straps : Quad Bool) (s : State), ∃ t, exec (.hardwareReset straps) s = .next t ∧ t.exch.causeen = 0 ∧ t.noticeLine = false

/-! ## Sweeps -/

/-- R156, R157: LOOK, and an expiry of the sweep timer that the run clock has reached, begin a sweep in RUNNING with no stall, leave one
owed while one runs, and do nothing else; `stores` is what the host has stored meanwhile. A readable chain is R157 steps 2 and 3. -/
def Obligations.LookAndTimerAskForASweep : Prop :=
  (∀ (v : Word) (stores : List HostStore) (s : State), ∃ t, exec (.look v stores) s = .next t ∧
      (s.net.mode ≠ .running ∨ s.exch.stall ≠ none → (s.store stores).OnlyExchange t s.exch) ∧
      (s.net.mode = .running → s.exch.stall = none → s.exch.sweep ≠ none →
        (s.store stores).OnlyExchange t { s.exch with sweepOwed := true }) ∧
      (s.net.mode = .running → s.exch.stall = none → s.exch.sweep = none → (s.store stores).chainReadable →
        (s.store stores).OnlyExchange t { s.exch with sweep := some (s.store stores).firstPhase })) ∧
  (∀ (stores : List HostStore) (s : State) (e : Time), s.exch.sweepTimer = some e → ∃ t, exec (.sweepTimerExpiry stores) s = .next t ∧
      (s.net.now < e → (s.store stores).OnlyExchange t s.exch) ∧
      (e ≤ s.net.now → s.net.mode = .running → s.exch.stall = none → s.exch.sweep ≠ none →
        (s.store stores).OnlyExchange t { s.exch with sweepTimer := none, sweepOwed := true }) ∧
      (e ≤ s.net.now → s.net.mode = .running → s.exch.stall = none → s.exch.sweep = none → (s.store stores).chainReadable →
        (s.store stores).OnlyExchange t { s.exch with sweepTimer := none, sweep := some (s.store stores).firstPhase }))

/-- R156, R157: a sweep that has reached a link of NONE, or a folio that is not POSTED, ends: the timer starts for one sweep interval, or
the owed sweep begins in its place. A sweep that reads a POSTED folio next does not end. -/
def Obligations.SweepEndStartsTimerOrOwedSweep : Prop :=
  ∀ (stores : List HostStore) (s : State) (ph : SweepPhase), s.exch.sweep = some ph → ∃ t, exec (.sweepEnd stores) s = .next t ∧
    ((ph = .ending ∨ ∃ i, s.exch.nextFolio = some i ∧ (s.store stores).turnOf i ≠ 1) →
      (s.exch.sweepOwed = false →
        (s.store stores).OnlyExchange t { s.exch with sweep := none, sweepTimer := some (s.net.now + s.exch.sweepInterval) }) ∧
      (s.exch.sweepOwed = true → (s.store stores).chainReadable →
        (s.store stores).OnlyExchange t { s.exch with sweepOwed := false, sweep := some (s.store stores).firstPhase })) ∧
    ((∃ i, s.exch.nextFolio = some i ∧ (s.store stores).turnOf i = 1) → (s.store stores).OnlyExchange t s.exch)

/-- R157, R163, R164: a sweep that begins at a cursor folio turned OPEN or POSTED is CURSOR-DISTURBED, one that finds a link at or above the
folio count is BAD-LINK, a bus error is MEMORY: each takes the part to DETACHED. In HALTING a bus error ends the accesses and the drain; in
a cold STARTING it is the start fault MEMORY (R180). The access is the operand's, and what was written before it stands (log 18, the model's
choice): of a header read nothing was written; of the turn TAKEN nothing, of the answer to a taken order, one whose body is too short among
them, the turn TAKEN (R154, R158, R185), of the answer to a LEND or to a bad header nothing; of a HALTED answer the HALTED answers before
it. That HALTED has no body is log 25. -/
def Obligations.ExchangeFaultsDetachThePart : Prop :=
  (∀ (v : Word) (stores : List HostStore) (s : State) (c : Nat), s.net.mode = .running → s.exch.stall = none → s.exch.sweep = none →
      s.exch.cursor = some c → ∃ t, exec (.look v stores) s = .next t ∧
        ((s.store stores).turnOf c ≤ 1 → (s.store stores).DetachedBy t .cursorDisturbed) ∧
        (1 < (s.store stores).turnOf c → (s.store stores).linkOf c ≠ 65535 → s.exch.folioCount ≤ (s.store stores).linkOf c →
          (s.store stores).DetachedBy t .badLink)) ∧
  (∀ (stores : List HostStore) (s : State), ∃ t, exec (.memoryFault .headerRead stores) s = .next t ∧
      (s.exch.startOp = none → s.net.mode = .running → (s.store stores).DetachedBy t .memory) ∧
      (s.exch.startOp = none → s.net.mode = .halting → s.exch.reachable = true →
        t.net.mode = .halting ∧ t.exch.faultCode = .memory ∧ t.latched .fault = true ∧ t.exch.lent = [] ∧ t.exch.reachable = false ∧
          t.report.filling = none ∧ t.report.drained = true ∧ t.mem = (s.store stores).mem) ∧
      (s.exch.startOp = some .cold →
        t.net = { s.net with mode := .halted } ∧ t.exch.faultCode = .memory ∧ t.exch.faultTable = .charter ∧ t.latched .fault = true ∧
          t.exch.startOp = none ∧ t.mem = (s.store stores).mem)) ∧
  (∀ (stores : List HostStore) (s : State), s.exch.startOp = none → s.net.mode = .running → s.exch.reachable = true →
    let u := s.store stores
    let faulted (a : BusAccess) (mode : Mode) (memory : State → Prop) : Prop :=
      ∃ t, exec (.memoryFault a stores) s = .next t ∧ t.net.mode = mode ∧ t.exch.faultCode = .memory ∧ t.latched .fault = true ∧
        t.exch.lent = [] ∧ t.exch.reachable = false ∧ memory t
    (∀ i, s.exch.nextFolio = some i → u.turnOf i = 1 →
      let a := u.folioAddr i
      let kind := u.mem.read (a + 1)
      let bad := headerBad kind (u.mem.read (a + 6))
      let short := bodyShort kind (u.mem.read (a + 6)) (u.mem.read (a + 20))
      faulted .takenTurn .detached (fun t => t.mem = u.mem) ∧
      (bad ∨ kind = 12 → faulted .folioAnswer .detached (fun t => t.mem = u.mem)) ∧
      (¬ bad → kind ≠ 12 → (kind ≠ 3 ∧ kind ≠ 9) ∨ short →
        faulted .folioAnswer .detached (fun t => t.mem.read a = 2 ∧ ∀ b, b ≠ a → t.mem.read b = u.mem.read b))) ∧
    ∀ id jd target target' o o' r r' f g rest, s.exch.stall = none →
      s.net.survey.queue = .source id target o r (some f) :: .source jd target' o' r' (some g) :: rest →
      faulted (.haltAnswer 0) .halting (fun t => t.report.drained = true ∧ t.mem = u.mem) ∧
        faulted (.haltAnswer 1) .halting (fun t => t.report.drained = true ∧ t.Answered f (.plain .halted) ∧
          ∀ a, a < u.folioAddr f ∨ u.folioAddr f + Config.folioBytes ≤ a → t.mem.read a = u.mem.read a))

/-! ## Start, halt and resume -/

/-- R150: the value of a write to MODE names the command by its bits 0 to 7, whichever row carries it; a value that names none is ignored
(that the three rows carry the value is the model's choice, log 43; so is MODE's table and entry going back to charter and 0, log 41).
R179: RUN-COLD in HALTED discards the earlier run and enters STARTING, the base read from XBASE, the lines HELD with role and parameters
kept; in any other mode it is ignored. -/
def Obligations.RunColdDiscardsTheRun : Prop :=
  (∀ (v : Word) (s : State), exec (.runWarm v) s = exec (.runCold v) s ∧ exec (.halt v) s = exec (.runCold v) s ∧
      (v.toNat % 256 = 0 ∨ 3 < v.toNat % 256 → ∃ t, exec (.runCold v) s = .next t ∧ s.OnlyNet t s.net)) ∧
  ∀ (v : Word) (s : State), v.toNat % 256 = 1 →
    ∃ t, exec (.runCold v) s = .next t ∧ t.mem = s.mem ∧ t.pending = s.pending ∧ s.SameClock t ∧ t.net.now = s.net.now ∧
      (s.net.mode ≠ .halted → s.OnlyNet t s.net) ∧
      (s.net.mode = .halted → t.net.mode = .starting ∧ t.NoRecords ∧
        t.exch =
          { s.exch with
            faultCode := .none, faultTable := .charter, faultEntry := 0, base := s.exch.xbase.toNat, cursor := none, stall := none
            sweep := none, sweepOwed := false, sweepTimer := none, lent := [], reachable := false, startOp := some .cold } ∧
        ∀ l, (t.net.line l).state = .held ∧ (t.net.line l).role = (s.net.line l).role ∧ (t.net.line l).params = (s.net.line l).params ∧
          (t.net.line l).orderHold = (s.net.line l).orderHold ∧ (t.net.line l).commands = [] ∧ (t.net.line l).continuation = none ∧
          (t.net.line l).exchange = none)

/-- R180, checks 1 to 8 in their order, from the bytes of the charter and the images (spec/11): a failed check of 1 to 5 names its table,
and entry 0, which is the model's choice (log 41); of the checks of the entries (R4, R6, R7, R58) the first entry at fault is named; when
none fails, the start goes on with the charter and the images read. R153, R18, R81: an interval, a line value or an incident parameter out
of its range takes its default. -/
def Obligations.StartChecksTheCharterInOrder : Prop :=
  (∀ (m : Memory) (base : Nat),
    let fails (code : FaultCode) (table : Table) : Prop := startCheck m base = .error { code := code, table := table, entry := 0 }
    let signature := m.bytes base 4 = [0x53, 0x47, 0x32, 0x36]
    let version := m.number (base + 4) 2 = 1
    let folios := 1 ≤ m.number (base + 6) 2 ∧ m.number (base + 6) 2 ≤ 4096
    let chain := m.number (base + 8) 2 < m.number (base + 6) 2
    let zones := 1 ≤ m.number (base + 24) 2 ∧ m.number (base + 24) 2 ≤ 128
    let sources := 1 ≤ m.number (base + 40) 2 ∧ m.number (base + 40) 2 ≤ 16
    (¬ signature → fails .signature .charter) ∧
    (signature → ¬ version → fails .version .charter) ∧
    (signature → version → ¬ folios → fails .size .charter) ∧
    (signature → version → folios → ¬ chain → fails .reference .charter) ∧
    (signature → version → folios → chain → ¬ zones → fails .size .zones) ∧
    (signature → version → folios → chain → zones → ¬ sources → fails .size .sources) ∧
    (signature → version → folios → chain → zones → sources → 256 < m.number (base + 56) 2 → fails .size .valves) ∧
    (signature → version → folios → chain → zones → sources → m.number (base + 56) 2 ≤ 256 → 128 < m.number (base + 72) 2 →
      fails .size .stations) ∧
    (signature → version → folios → chain → zones → sources → m.number (base + 56) 2 ≤ 256 → m.number (base + 72) 2 ≤ 128 →
      512 < m.number (base + 88) 2 → fails .size .points) ∧
    (signature → version → folios → chain → zones → sources → m.number (base + 56) 2 ≤ 256 → m.number (base + 72) 2 ≤ 128 →
      m.number (base + 88) 2 ≤ 512 →
      let c := readCharter m base
      let g := readImages m c
      let at_ (table : Table) (k : Nat) : Prop := startCheck m base = .error { code := .reference, table := table, entry := k }
      let points := AllGood stationGood g.stations
      let zones := points ∧ AllGood (pointGood g) g.points
      let sources := zones ∧ AllGood zoneGood g.zones
      let valves := sources ∧ AllGood (sourceGood g) g.sources
      (∀ k, FirstFault stationGood g.stations k → at_ .stations k) ∧
      (∀ k, points → FirstFault (pointGood g) g.points k → at_ .points k) ∧
      (∀ k, zones → FirstFault zoneGood g.zones k → at_ .zones k) ∧
      (∀ k, sources → FirstFault (sourceGood g) g.sources k → at_ .sources k) ∧
      (∀ k, valves → FirstFault (valveGood g) g.valves k → at_ .valves k) ∧
      (valves → AllGood (valveGood g) g.valves → startCheck m base = .ok (c, g)))) ∧
  (∀ (m : Memory) (base : Nat),
    let c := readCharter m base
    let within (lo hi default x : Nat) : Nat := if lo ≤ x ∧ x ≤ hi then x else default
    c.folioCount = m.number (base + 6) 2 ∧ c.chainStart = m.number (base + 8) 2 ∧
    c.sweepInterval = within 1 250 10 (m.number (base + 10) 2) ∧ c.flushInterval = within 10 5000 200 (m.number (base + 12) 2) ∧
    (∀ l : Fin 4,
      let a := base + 96 + 8 * l.val
      let v := c.lines.get l
      v.params.speed.rate = ([1200, 2400, 4800, 9600, 19200, 38400][m.number a 1]?).getD 9600 ∧
        v.params.window = within 2 255 20 (m.number (a + 1) 1) ∧ v.params.gap = within 2 250 10 (m.number (a + 2) 1) ∧
        (v.permit = true ↔ m.number (a + 3) 1 = 1) ∧ v.listenTimeout = within 5 3600 60 (m.number (a + 4) 2)) ∧
    c.params =
      { class1 := within 1 1440 45 (m.number (base + 128) 2), class2 := within 1 1440 120 (m.number (base + 130) 2)
        class3 := within 1 1440 480 (m.number (base + 132) 2), window := within 1 120 20 (m.number (base + 134) 2)
        radius := within 0 3 1 (m.number (base + 136) 1), escalation := within 2 8 4 (m.number (base + 137) 1) }) ∧
  ∀ (m : Memory) (base i : Nat),
    let g := readImages m (readCharter m base)
    let entry (table size : Nat) : Nat := m.number (base + table) 8 + size * i
    (i < m.number (base + 24) 2 → g.zones[i]? = some (
      let a := entry 16 8
      { customers := m.number a 2, tier := m.number (a + 2) 1, gridX := m.number (a + 4) 2, gridY := m.number (a + 6) 2 })) ∧
    (i < m.number (base + 40) 2 → g.sources[i]? = some (
      let a := entry 32 4
      { point := m.number a 2, initial := m.number (a + 2) 1 })) ∧
    (i < m.number (base + 56) 2 → g.valves[i]? = some (
      let a := entry 48 8
      { nodeA := m.number a 1, nodeB := m.number (a + 1) 1, kind := m.number (a + 2) 1, initial := m.number (a + 3) 1
        station := m.number (a + 4) 2, travel := m.number (a + 6) 2 })) ∧
    (i < m.number (base + 72) 2 → g.stations[i]? = some (
      let a := entry 64 8
      { line := m.number a 1, address := m.read (a + 1), kind := m.number (a + 2) 1, poll := m.number (a + 3) 1 })) ∧
    (i < m.number (base + 88) 2 → g.points[i]? = some (
      let a := entry 80 20
      { station := m.number a 2, slot := m.number (a + 2) 1, zone := m.number (a + 3) 1
        settings :=
          { ll := m.number (a + 4) 2, l := m.number (a + 6) 2, h := m.number (a + 8) 2, hh := m.number (a + 10) 2
            deadband := m.number (a + 12) 2, confirm := m.number (a + 14) 1, stale := m.number (a + 16) 2 } }))

/-- R181: a cold STARTING whose checks fail ends in HALTED with the code, the table and the entry, FAULT latched; one whose checks pass ends
in RUNNING: the tables VALID, each record with the static fields and start values of its own image entry, the lines settling with their
strap roles and charter values (R18, R40), the first real survey owed, one mark for each record, the first sweep begun. -/
def Obligations.StartingEndsInHaltedOrRunning : Prop :=
  (∀ (stores : List HostStore) (s : State) (f : StartFault), s.exch.startOp = some .cold →
      startCheck (s.mem.store stores) s.exch.base = .error f → ∃ t, exec (.startingEnd stores) s = .next t ∧
        t.net = { s.net with mode := .halted } ∧ t.report = s.report ∧ t.mem = s.mem.store stores ∧ t.pending = s.pending ∧
        s.SameClock t ∧
        t.exch =
          { s.exch with
            faultCode := f.code, faultTable := f.table, faultEntry := f.entry, startOp := none
            cause := s.exch.cause ||| Cause.fault.bit ||| (if t.starving then Cause.starved.bit else 0) }) ∧
  (∀ (stores : List HostStore) (s : State) (c : Charter) (g : Images), s.exch.startOp = some .cold → s.exch.cursor = none →
      startCheck (s.mem.store stores) s.exch.base = .ok (c, g) → ∃ t, exec (.startingEnd stores) s = .next t ∧ t.net.Started c g ∧
        (∀ l, (t.net.line l).strapRole = (s.net.line l).strapRole) ∧ t.report = { s.report with flushInterval := c.flushInterval } ∧
        t.mem = s.mem.store stores ∧
        t.pending = s.pending ∧ s.SameClock t ∧ t.net.now = s.net.now ∧
        t.exch =
          { s.exch with
            folioCount := c.folioCount, chainStart := c.chainStart, sweepInterval := c.sweepInterval, reachable := true, startOp := none
            sweep := some .atStart, cause := s.exch.cause ||| (if t.starving then Cause.starved.bit else 0) })

/-- R150, R183: RUN-WARM (bits 0 to 7 of the value are 2, log 43) in HALTED with the tables VALID, or in DETACHED, enters STARTING as a warm
start and keeps every record; in any other case it is ignored. That MODE's table and entry go back to charter and 0 is the model's choice
(log 41). -/
def Obligations.RunWarmKeepsEveryRecord : Prop :=
  ∀ (v : Word) (s : State), v.toNat % 256 = 2 → ∃ t, exec (.runWarm v) s = .next t ∧
    (¬ ((s.net.mode = .halted ∧ s.net.valid = true) ∨ s.net.mode = .detached) → s.OnlyNet t s.net) ∧
    ((s.net.mode = .halted ∧ s.net.valid = true) ∨ s.net.mode = .detached →
      t.net = { s.net with mode := .starting } ∧ t.report = s.report ∧ t.mem = s.mem ∧ t.pending = s.pending ∧ s.SameClock t ∧
      t.exch =
        { s.exch with
          faultCode := .none, faultTable := .charter, faultEntry := 0, base := s.exch.xbase.toNat, cursor := none, stall := none
          sweep := none, sweepOwed := false, sweepTimer := none, lent := [], reachable := true
          startOp := some (.warmReading s.net.mode s.exch.cursor s.exch.base)
          cause := s.exch.cause ||| (if t.starving then Cause.starved.bit else 0) })

/-- R183: a charter read of a warm start that fails a check returns the part to the mode it came from; cursor and base go back (log 16). One
that passes gives the exchange unit, the report unit and the lines their values (R153, R40); a line whose speed, window or gap differs is
held first, and takes them once HELD. -/
def Obligations.WarmCharterIsCheckedAndTaken : Prop :=
  (∀ (stores : List HostStore) (s : State) (mode : Mode) (cursor : Option Nat) (base : Nat) (code : FaultCode),
      s.exch.startOp = some (.warmReading mode cursor base) → (readCharter (s.mem.store stores) s.exch.base).fault = some code →
      ∃ t, exec (.warmCharterRead stores) s = .next t ∧ t.net = { s.net with mode := mode } ∧ t.report = s.report ∧
        t.mem = s.mem.store stores ∧ t.pending = s.pending ∧ s.SameClock t ∧
        t.exch =
          { s.exch with
            faultCode := code, cursor := cursor, base := base, reachable := false, startOp := none
            cause := s.exch.cause ||| Cause.fault.bit ||| (if t.starving then Cause.starved.bit else 0) }) ∧
  (∀ (stores : List HostStore) (s : State) (mode : Mode) (cursor : Option Nat) (base : Nat),
      s.exch.startOp = some (.warmReading mode cursor base) → (readCharter (s.mem.store stores) s.exch.base).fault = none →
      let c := readCharter (s.mem.store stores) s.exch.base
      ∃ t, exec (.warmCharterRead stores) s = .next t ∧ t.mem = s.mem.store stores ∧ t.pending = s.pending ∧ s.SameClock t ∧
        t.report = { s.report with flushInterval := c.flushInterval } ∧
        t.exch =
          { s.exch with
            folioCount := c.folioCount, chainStart := c.chainStart, sweepInterval := c.sweepInterval, startOp := some (.warmWaiting mode)
            cause := s.exch.cause ||| (if t.starving then Cause.starved.bit else 0) } ∧
        { t.net with lines := s.net.lines, marks := s.net.marks } = s.net ∧
        ∀ l, let x := s.net.line l
          let y := t.net.line l
          let v := c.lines.get l
          y.listenTimeout = v.listenTimeout ∧ y.permit = v.permit ∧ y.role = x.role ∧ y.commands = x.commands ∧
            y.continuation = x.continuation ∧ y.tagCounter = x.tagCounter ∧ y.orderHold = x.orderHold ∧
            (v.params = x.params → y.params = x.params ∧ y.state = x.state ∧ y.pendingParams = none) ∧
            (v.params ≠ x.params → (x.state = .await ∨ x.state = .holding) →
              y.state = .holding ∧ y.params = x.params ∧ y.pendingParams = some v.params) ∧
            (v.params ≠ x.params → x.state ≠ .await → x.state ≠ .holding →
              y.state = .held ∧ y.params = v.params ∧ y.reconfigured = true ∧ y.pendingParams = none))

/-- R183, R184: a warm start ends once no line is waited for, in RUNNING: a real survey owed, the first sweep begun from BEFORE-START, every
fed-state, supply state, outage link, source and outage record kept. In order: valves SENT or TRAVELLING are made unverified, deadlines
reached are expired, points past their stale age are STALE, dwell ends reached are taken, HELD lines without their order hold flag are
released; the steps are the operations of the events themselves, and the lines choose last (log 23). `resumesOk` is an invariant, stated
below. -/
def Obligations.WarmStartEndsInRunning : Prop :=
  ∀ (stores : List HostStore) (s : State) (mode : Mode), s.exch.startOp = some (.warmWaiting mode) →
    ∃ t, exec (.warmStartEnd stores) s = .next t ∧
      ((∃ l, (s.net.line l).pendingParams ≠ none) → (s.store stores).OnlyNet t s.net) ∧
      ((∀ l, (s.net.line l).pendingParams = none) →
        let unverified := Net.unverifyAll { s.net with mode := .running }
        let expired := (List.range unverified.incidents.length).foldl (fun n i => n.expireIfDue i) unverified
        let aged := (List.range expired.points.length).foldl (fun n i => n.takeStale i) expired
        let dwelt := (List.range aged.valves.length).foldl (fun n v => n.takeDwellEnd v) aged
        let surveyed := { dwelt with survey := { dwelt.survey with pendingReal := true } }
        t.net = Net.arbitrateAll ([0, 1, 2, 3].foldl (fun n l =>
          if (n.line l).state = .held ∧ (n.line l).orderHold = false then n.releaseLine l else n) surveyed) ∧
        t.net.mode = .running ∧ t.net.survey.pendingReal = true ∧ t.net.now = s.net.now ∧ t.net.params = s.net.params ∧
        t.net.zones.map (fun z => (z.fed, z.supply, z.outage)) = s.net.zones.map (fun z => (z.fed, z.supply, z.outage)) ∧
        t.net.sources = s.net.sources ∧ t.net.outages = s.net.outages ∧ t.net.outageSeq = s.net.outageSeq ∧
        t.net.incidents = s.net.incidents.map (fun sl => { sl with record := sl.record.map (Incident.expired s.net.now) }) ∧
        t.report = s.report ∧ t.mem = s.mem.store stores ∧ t.pending = s.pending ∧ s.SameClock t ∧
        t.exch =
          { s.exch with
            cursor := none, stall := none, lent := [], sweepOwed := false, reachable := true, startOp := none, sweep := some .atStart
            cause := s.exch.cause ||| (if t.starving then Cause.starved.bit else 0) } ∧
        (s.net.resumesOk = true → (∀ v ∈ s.net.valves, ∀ d, v.dwellEnd = some d → s.net.now < d) →
          t.net.valves = s.net.valves.map Valve.unverified ∧ t.net.plans = s.net.plans ∧
          t.net.survey.generation =
            s.net.survey.generation + (if s.net.valves.any (fun v => v.inFlight.isSome && v.posState = .closed) then 1 else 0) ∧
          (∀ (i : Nat) (q : Point), s.net.points[i]? = some q → q.quality ≠ .lost → t.net.points[i]? = some (q.aged s.net.now)) ∧
          ∀ l, (s.net.line l).state = .held →
            ((s.net.line l).orderHold = true → (t.net.line l).state = .held) ∧
            ((s.net.line l).orderHold = false → (t.net.line l).state ≠ .held)))

/-- R150, R182, R77: HALT (bits 0 to 7 of the value are 3, log 43) in RUNNING or DETACHED enters HALTING: intake stops, the survey in
flight, the held completion and the queued trials go, every MASTER line is held without its order hold flag, LISTEN lines are left. R77,
R112, R165: each CHECKING plan whose trial was queued or whose order was stalled is freed, its reservation taken back, and each such folio
answered HALTED, a SOURCE order's too, when the exchange is reachable. HALTING ends once every MASTER line is HELD and the report unit has
drained: HALTED is latched, the sweep timer stopped and the lent list empty; until then it does not end. That HALTED has no body is the
model's choice (log 25). -/
def Obligations.HaltHoldsDrainsAndEnds : Prop :=
  (∀ (v : Word) (s : State), v.toNat % 256 = 3 → ∃ t, exec (.halt v) s = .next t ∧ t.pending = s.pending ∧ s.SameClock t ∧
      (s.net.mode ≠ .running → s.net.mode ≠ .detached → s.OnlyNet t s.net) ∧
      (s.net.mode = .running ∨ s.net.mode = .detached →
        s.TrialsHalted t ∧
        t.net.mode = .halting ∧ t.exch.stall = none ∧ t.exch.sweep = none ∧ t.exch.sweepOwed = false ∧ t.exch.sweepTimer = none ∧
        t.exch.cursor = s.exch.cursor ∧ t.net.now = s.net.now ∧ t.net.zones = s.net.zones ∧ t.net.sources = s.net.sources ∧
        t.net.valves = s.net.valves ∧ t.net.stations = s.net.stations ∧ t.net.points = s.net.points ∧
        t.net.survey.inFlight = none ∧ t.net.survey.held = none ∧ t.net.survey.queue = [] ∧
        t.net.survey.generation = s.net.survey.generation ∧
        t.net.survey.pendingReal = (s.net.survey.pendingReal || s.net.survey.inFlight.isSome || s.net.survey.held.isSome) ∧
        (s.report.filling = none → s.exch.lent = [] → t.report.drained = true) ∧
        ∀ l, (t.net.line l).orderHold = (s.net.line l).orderHold ∧ (t.net.line l).commands = (s.net.line l).commands ∧
          ((s.net.line l).role = .listen → t.net.line l = s.net.line l) ∧
          ((s.net.line l).role = .master → ((s.net.line l).state = .await ∨ (s.net.line l).state = .holding) →
            (t.net.line l).state = .holding) ∧
          ((s.net.line l).role = .master → (s.net.line l).state ≠ .await → (s.net.line l).state ≠ .holding → (t.net.line l).state = .held))) ∧
  (∀ s : State, s.net.mode = .halting → ∃ t, exec .haltingEnd s = .next t ∧
      ((∀ l, (s.net.line l).role = .listen ∨ (s.net.line l).state = .held) → s.report.drained = true →
        t.net = { s.net with mode := .halted } ∧ t.report = s.report ∧ t.mem = s.mem ∧ t.pending = s.pending ∧ s.SameClock t ∧
        t.exch =
          { s.exch with
            sweepTimer := none, lent := [], reachable := false
            cause := s.exch.cause ||| Cause.halted.bit ||| (if t.starving then Cause.starved.bit else 0) }) ∧
      (((∃ l, (s.net.line l).role = .master ∧ (s.net.line l).state ≠ .held) ∨ s.report.drained = false) → s.OnlyNet t s.net))

/-! ## Calls and incidents

`s.ready i p o`: a running sweep reads folio `i` next, where the host posts order `o` under header `p`. An order command is the host's
post and the sweep's taking of it together (DESIGN CHOICE, log 7). -/

/-- R84: a call of no kind, or off the grid, is answered BAD-FORM; one for a zone that is not present NO-SUCH. R94: an INCIDENT-ACT on an
incident that is not found is answered NO-SUCH, on a CLOSED one BAD-STATE, a RECLASS to no class BAD-FORM. None changes anything. That a
call of a bad kind or grid for an absent zone is BAD-FORM is the model's choice (log 38), and so is the empty body of an INCIDENT-ACT's
NO-SUCH and of a RECLASS's BAD-FORM (log 25). -/
def Obligations.CallsAndActsAreChecked : Prop :=
  (∀ (s : State) (i : Nat) (p : Post) (b : CallBody), s.ready i p (.call b) = true →
      (CallKind.ofCode b.kind.toNat = none ∨ 4095 < b.gridX.toNat ∨ 4095 < b.gridY.toNat →
        ∃ t, exec (.call p b) s = .next t ∧ s.Refuses t i p (.call b) (.plain .badForm)) ∧
      (CallKind.ofCode b.kind.toNat ≠ none → b.gridX.toNat ≤ 4095 → b.gridY.toNat ≤ 4095 → s.net.zones.length ≤ b.zone.toNat →
        ∃ t, exec (.call p b) s = .next t ∧ s.Refuses t i p (.call b) (.plain .noSuch))) ∧
  (∀ (s : State) (i : Nat) (p : Post) (b : RefBody) (cls : Byte) (c : Instr) (o : Order), postedBy c = some (p, o) →
      (c = .attend p b ∨ c = .safe p b ∨ c = .close p b ∨ c = .ack p b ∨ c = .reclass p b cls) → s.ready i p o = true →
      (c = .reclass p b cls → ¬ (1 ≤ cls.toNat ∧ cls.toNat ≤ 3) →
        ∃ t, exec c s = .next t ∧ s.Refuses t i p o (.plain .badForm)) ∧
      ((c = .reclass p b cls → 1 ≤ cls.toNat ∧ cls.toNat ≤ 3) →
        (findRecord s.net.incidents (bodyRef b) = none → ∃ t, exec c s = .next t ∧ s.Refuses t i p o (.plain .noSuch)) ∧
        (∀ x, findRecord s.net.incidents (bodyRef b) = some x → x.state = .closed →
          ∃ t, exec c s = .next t ∧ s.Refuses t i p o (.withBody .badState (actAnswerBody x)))))

/-- R85, R86, R89 to R91: an escape-group call attaches to the candidate with the latest last call, or makes a new incident in the lowest
FREE slot, or is answered NO-ROOM. The escalation count is at least 2 (R81). -/
def Obligations.EscapeCallAttachesOrOpens : Prop :=
  ∀ (s : State) (i : Nat) (p : Post) (b : CallBody) (k : CallKind) (z : Zone), s.ready i p (.call b) = true → s.net.callGood b k z →
    (k = .smellInside ∨ k = .audible ∨ k = .damage ∨ k = .smellOutside) → 2 ≤ s.net.params.escalation →
    (∀ (j : Nat) (x : Incident), Latest (fun x => x.lastCall.getD 0) (s.net.CallCandidate b) j x →
      let y := x.withCall s.net.params (callEntry s.net b k)
      ∃ t, exec (.call p b) s = .next t ∧
        s.Serves t i p (.call b) (.withBody .attached (callBody j (slotRef s.net.incidents j).serial y s.net.now)) (s.net.afterCall j x y)) ∧
    ((∀ j x, ¬ s.net.CallCandidate b j x) → ∀ j, LowestFree s.net.incidents j →
      let y := (madeByCall s.net (if k = .damage then .damage else .escape) k.cls [] b).withCall s.net.params (callEntry s.net b k)
      ∃ t, exec (.call p b) s = .next t ∧
        s.Serves t i p (.call b) (.withBody .new (callBody j ((slotRef s.net.incidents j).serial + 1) y s.net.now))
          (s.net.afterNewCall j y k.cls)) ∧
    ((∀ j x, ¬ s.net.CallCandidate b j x) → (∀ sl ∈ s.net.incidents, sl.state ≠ .free) →
      ∃ t, exec (.call p b) s = .next t ∧ s.Refuses t i p (.call b) (.plain .noRoom))

/-- R88 to R91: a supply-group call for a zone with no outage link attaches to the zone's latest open PRESSURE-LOW incident, or opens one
for its lowest GOOD point in LOW or LOWLOW, or opens a SUPPLY-LOSS; with no slot FREE for a new one it is answered NO-ROOM. R87: under an
outage it attaches to the incident the outage names; where it names none, a new SUPPLY-LOSS of class 1 is made and linked with the outage
both ways (R102, R144), or the call is answered NO-ROOM. -/
def Obligations.SupplyCallAttachesOrOpens : Prop :=
  (∀ (s : State) (i : Nat) (p : Post) (b : CallBody) (k : CallKind) (z : Zone), s.ready i p (.call b) = true → s.net.callGood b k z →
      (k = .noSupply ∨ k = .lowPressure) → z.outage = none → 2 ≤ s.net.params.escalation →
      (∀ (j : Nat) (x : Incident), Latest Incident.opened (s.net.PressureLowOpen b.zone.toNat) j x →
        let y := x.withCall s.net.params (callEntry s.net b k)
        ∃ t, exec (.call p b) s = .next t ∧
          s.Serves t i p (.call b) (.withBody .attached (callBody j (slotRef s.net.incidents j).serial y s.net.now)) (s.net.afterCall j x y)) ∧
      ((∀ j x, ¬ s.net.PressureLowOpen b.zone.toNat j x) → ∀ j, LowestFree s.net.incidents j →
        (∀ q rest, s.net.lowPoints z = q :: rest →
          let y := (madeByCall s.net .pressureLow 2 [q] b).withCall s.net.params (callEntry s.net b k)
          ∃ t, exec (.call p b) s = .next t ∧
            s.Serves t i p (.call b) (.withBody .new (callBody j ((slotRef s.net.incidents j).serial + 1) y s.net.now))
              (s.net.afterNewCall j y 2)) ∧
        (s.net.lowPoints z = [] →
          let y := (madeByCall s.net .supplyLoss 3 [] b).withCall s.net.params (callEntry s.net b k)
          ∃ t, exec (.call p b) s = .next t ∧
            s.Serves t i p (.call b) (.withBody .new (callBody j ((slotRef s.net.incidents j).serial + 1) y s.net.now))
              (s.net.afterNewCall j y 3))) ∧
      ((∀ j x, ¬ s.net.PressureLowOpen b.zone.toNat j x) → (∀ sl ∈ s.net.incidents, sl.state ≠ .free) →
        ∃ t, exec (.call p b) s = .next t ∧ s.Refuses t i p (.call b) (.plain .noRoom))) ∧
  (∀ (s : State) (i : Nat) (p : Post) (b : CallBody) (k : CallKind) (z : Zone) (r q : Ref) (o : Outage) (x : Incident),
      s.ready i p (.call b) = true → s.net.callGood b k z → (k = .noSupply ∨ k = .lowPressure) → z.outage = some r →
      findRecord s.net.outages r = some o → o.incident = some q → findRecord s.net.incidents q = some x →
      let y := x.withCall s.net.params (callEntry s.net b k)
      ∃ t, exec (.call p b) s = .next t ∧
        s.Serves t i p (.call b) (.withBody .attachedOutage (callBody q.slot q.serial y s.net.now)) (s.net.afterCall q.slot x y)) ∧
  (∀ (s : State) (i : Nat) (p : Post) (b : CallBody) (k : CallKind) (z : Zone) (r : Ref) (o : Outage),
      s.ready i p (.call b) = true → s.net.callGood b k z → (k = .noSupply ∨ k = .lowPressure) → z.outage = some r →
      findRecord s.net.outages r = some o → o.incident = none →
      (∀ j, LowestFree s.net.incidents j →
        let y := { (madeByCall s.net .supplyLoss 1 [] b).withCall s.net.params (callEntry s.net b k) with outage := some r }
        ∃ t, exec (.call p b) s = .next t ∧
          s.Serves t i p (.call b) (.withBody .new (callBody j ((slotRef s.net.incidents j).serial + 1) y s.net.now))
            (s.net.afterRepair j y r o)) ∧
      ((∀ sl ∈ s.net.incidents, sl.state ≠ .free) →
        ∃ t, exec (.call p b) s = .next t ∧ s.Refuses t i p (.call b) (.plain .noRoom)))

/-- R95: ATTEND takes an OPEN incident to ATTENDING, DONE or, once the deadline was missed, DONE-LATE with LATE set, OVERDUE as it was, the
record marked; in ATTENDING or SAFE it is answered BAD-STATE. R96: SAFE takes an ATTENDING incident to SAFE, whatever its plans and its
outage; in OPEN or SAFE it is answered BAD-STATE. -/
def Obligations.AttendAndSafeAnswer : Prop :=
  (∀ (s : State) (i : Nat) (p : Post) (b : RefBody) (x : Incident), s.ready i p (actOrder b 1 0) = true →
      findRecord s.net.incidents (bodyRef b) = some x →
      (x.state = .opened →
        let y := { x with state := .attending, late := x.late || x.missed }
        ∃ t, exec (.attend p b) s = .next t ∧
          s.Serves t i p (actOrder b 1 0) (.withBody (if x.missed then .doneLate else .done) (actAnswerBody y))
            { s.net with
              incidents := putRecord s.net.incidents b.slot.toNat y
              marks := s.net.marks.add .ordinary (.incident b.slot.toNat) }) ∧
      (x.state = .attending ∨ x.state = .safe →
        ∃ t, exec (.attend p b) s = .next t ∧ s.Refuses t i p (actOrder b 1 0) (.withBody .badState (actAnswerBody x)))) ∧
  (∀ (s : State) (i : Nat) (p : Post) (b : RefBody) (x : Incident), s.ready i p (actOrder b 2 0) = true →
      findRecord s.net.incidents (bodyRef b) = some x →
      (x.state = .attending →
        let y := { x with state := .safe }
        ∃ t, exec (.safe p b) s = .next t ∧
          s.Serves t i p (actOrder b 2 0) (.withBody .done (actAnswerBody y))
            { s.net with
              incidents := putRecord s.net.incidents b.slot.toNat y
              marks := s.net.marks.add .ordinary (.incident b.slot.toNat) }) ∧
      (x.state = .opened ∨ x.state = .safe →
        ∃ t, exec (.safe p b) s = .next t ∧ s.Refuses t i p (actOrder b 2 0) (.withBody .badState (actAnswerBody x))))

/-- R97, R100, R102: CLOSE takes a SAFE incident to CLOSED when every linked plan has ended or retired, its outage is RESTORED or retired
and it holds no reservation; the timer is disarmed. Otherwise it is answered BAD-STATE. -/
def Obligations.CloseNeedsEverythingEnded : Prop :=
  ∀ (s : State) (i : Nat) (p : Post) (b : RefBody) (x : Incident), s.ready i p (actOrder b 3 0) = true →
    findRecord s.net.incidents (bodyRef b) = some x → x.state ≠ .closed →
    let plansEnded := ∀ r ∈ x.plans, ∀ q, findRecord s.net.plans r = some q → q.state = .complete ∨ q.state = .abandoned
    let outageEnded := ∀ r o, x.outage = some r → findRecord s.net.outages r = some o → o.state = .restored
    (x.state = .safe ∧ plansEnded ∧ outageEnded ∧ x.reservations = 0 →
      let y := { x with state := .closed, armed := false }
      ∃ t, exec (.close p b) s = .next t ∧
        s.Serves t i p (actOrder b 3 0) (.withBody .done (actAnswerBody y))
          { s.net with
            incidents := putRecord s.net.incidents b.slot.toNat y
            marks := s.net.marks.add .ordinary (.incident b.slot.toNat) }) ∧
    (¬ (x.state = .safe ∧ plansEnded ∧ outageEnded ∧ x.reservations = 0) →
      ∃ t, exec (.close p b) s = .next t ∧ s.Refuses t i p (actOrder b 3 0) (.withBody .badState (actAnswerBody x)))

/-- R98, R92, R93: RECLASS sets the class and recomputes the deadline from the opened time; a deadline that so lies in the past is expired
in the event of the order. R99: ACK clears OVERDUE, MISSED and LATE as they are, and marks the record only when OVERDUE was set. -/
def Obligations.ReclassAndAckAnswer : Prop :=
  (∀ (s : State) (i : Nat) (p : Post) (b : RefBody) (cls : Byte) (x : Incident), s.ready i p (actOrder b 4 cls) = true →
      findRecord s.net.incidents (bodyRef b) = some x → x.state ≠ .closed → 1 ≤ cls.toNat → cls.toNat ≤ 3 →
      let d := x.opened + s.net.params.deadline cls.toNat
      let y := { x with
        cls := cls.toNat, escalated := x.escalated && decide (cls.toNat = 1), deadline := d, armed := x.armed || decide (d ≠ x.deadline) }
      let due := y.armed = true ∧ d ≤ s.net.now
      let late := due ∧ x.state = .opened
      let w := { y with
        armed := y.armed && !decide due, overdue := y.overdue || decide late, missed := y.missed || decide late }
      let marks := if x.cls ≠ 1 ∧ cls.toNat = 1 then (s.net.marks.add .ordinary (.incident b.slot.toNat)).add .urgent (.incident b.slot.toNat)
        else s.net.marks.add .ordinary (.incident b.slot.toNat)
      ∃ t, exec (.reclass p b cls) s = .next t ∧
        s.Serves t i p (actOrder b 4 cls) (.withBody .done (actAnswerBody w))
          { s.net with
            incidents := putRecord s.net.incidents b.slot.toNat w
            marks := if late then marks.add .urgent (.incident b.slot.toNat) else marks }) ∧
  (∀ (s : State) (i : Nat) (p : Post) (b : RefBody) (x : Incident), s.ready i p (actOrder b 5 0) = true →
      findRecord s.net.incidents (bodyRef b) = some x → x.state ≠ .closed →
      let y := { x with overdue := false }
      ∃ t, exec (.ack p b) s = .next t ∧
        s.Serves t i p (actOrder b 5 0) (.withBody .done (actAnswerBody y))
          { s.net with
            incidents := putRecord s.net.incidents b.slot.toNat y
            marks := if x.overdue then s.net.marks.add .ordinary (.incident b.slot.toNat) else s.net.marks })

/-! ## Plans

A command that lets a line choose ends with `Net.arbitrateAll`, the choices of R21 (log 23), whose rule is stated with the lines. -/

/-- R110, R111, R72, R159: a PLAN that passes intake takes the lowest FREE slot in CHECKING and a reservation at its incident, and its
trial joins the queue, the folio staying TAKEN; with 4 trials queued the plan is made all the same and the cursor stalls on the folio. -/
def Obligations.PlanIntakeQueuesATrial : Prop :=
  ∀ (s : State) (i j : Nat) (p : Post) (b : PlanBody) (x : Incident), s.ready i p (.plan b) = true → planBodyOk b = true →
    1 ≤ b.entryCount.toNat → b.entryCount.toNat ≤ 8 →
    (∀ e ∈ b.entries, EntryBody.formGood e ∧ s.net.valvePresent e ∧ s.net.valveUnclaimed e ∧ s.net.valveMaster e) →
    LowestFree s.net.plans j → s.net.mayPlan b x →
    let n :=
      { s.net with
        plans := fillSlot s.net.plans j (orderedPlan b i)
        incidents := putRecord s.net.incidents b.slot.toNat { x with reservations := x.reservations + 1 } }
    ∃ t, exec (.plan p b) s = .next t ∧
      (s.net.survey.queue.length < 4 →
        s.TookPending t i p (.plan b) ∧ s.SameClock t ∧
        t.net =
          { n with
            survey :=
              { s.net.survey with
                queue := s.net.survey.queue ++ [.plan { slot := j, serial := (slotRef s.net.plans j).serial + 1 }] } }) ∧
      (4 ≤ s.net.survey.queue.length →
        t.net = n ∧ t.exch.stall = some (.plan i) ∧ t.exch.cursor = some i ∧ t.exch.sweep = none ∧ t.mem.read (t.folioAddr i) = 2)

/-- R110: a PLAN is refused at the first check that fails: form, valves, claims, lines, slot, incident. The number in the body of a refusal
at checks 1 to 4 counts entries from 1; a bad entry count has no entry to name (log 25). -/
def Obligations.PlanRefusedAtFirstFault : Prop :=
  ∀ (s : State) (i : Nat) (p : Post) (b : PlanBody), s.ready i p (.plan b) = true → planBodyOk b = true →
    let refused (a : Answer) : Prop := ∃ t, exec (.plan p b) s = .next t ∧ s.Refuses t i p (.plan b) a
    let count := 1 ≤ b.entryCount.toNat ∧ b.entryCount.toNat ≤ 8
    let form := count ∧ ∀ e ∈ b.entries, EntryBody.formGood e
    let present := form ∧ ∀ e ∈ b.entries, s.net.valvePresent e
    let unclaimed := present ∧ ∀ e ∈ b.entries, s.net.valveUnclaimed e
    let master := unclaimed ∧ ∀ e ∈ b.entries, s.net.valveMaster e
    (¬ count → refused (.plain .badForm)) ∧
    (∀ k, count → FirstBad EntryBody.formGood b.entries k → refused (.withBody .badForm (out 1 (k + 1)))) ∧
    (∀ k, form → FirstBad s.net.valvePresent b.entries k → refused (.withBody .noSuch (out 1 (k + 1)))) ∧
    (∀ k, present → FirstBad s.net.valveUnclaimed b.entries k → refused (.withBody .claimed (out 1 (k + 1)))) ∧
    (∀ k, unclaimed → FirstBad s.net.valveMaster b.entries k → refused (.withBody .notMaster (out 1 (k + 1)))) ∧
    (master → (∀ sl ∈ s.net.plans, sl.state ≠ .free) → refused (.plain .noRoom)) ∧
    (master → (∃ sl ∈ s.net.plans, sl.state = .free) →
      (findRecord s.net.incidents { slot := b.slot.toNat, serial := b.serial } = none → refused (.plain .noSuch)) ∧
      ∀ x, findRecord s.net.incidents { slot := b.slot.toNat, serial := b.serial } = some x →
        (x.state = .closed → refused (.plain .badState)) ∧
        (x.state ≠ .closed → 4 ≤ x.plans.length + x.reservations → refused (.plain .noRoom)))

/-- R119, R123, R114, R29: a PROCEED on a HOLDING plan at a REMOTE valve, and one on a BLOCKED plan whose cause has cleared and whose staged
step does not await PROCEED, enters the staged step: entry RUNNING, plan ACTIVE, the STEP listed with the line's next tag; a condition of
R114 that fails blocks it again. On a BLOCKED plan whose cause stands, at its running valve or at the block's, it is answered BAD-STATE;
once it has cleared, a staged step that awaits PROCEED returns the entry to HOLD, and a dwell not over goes on. The body of DONE (plan
state, block reason, valve), and that BAD-STATE has none, is the model's choice (log 25); the order of two marks in an event is deduced (log
14). -/
def Obligations.ProceedEntersTheStagedStep : Prop :=
  (∀ (s : State) (i : Nat) (p : Post) (b : ProceedBody) (q : Plan) (e : Nat) (ent : PlanEntry) (x : Valve) (stg : Staged) (l : Fin 4)
      (st : Nat), s.ready i p (.proceed b) = true → (b.position.toNat ≤ 100 ∨ b.position.toNat = 255) →
      s.net.RunningAt { slot := b.slot.toNat, serial := b.serial } q e ent x → s.net.MayEnter ent.valve x l st → x.staged = some stg →
      x.stopPending = false → listedCommand (s.net.line l).commands st ≠ some .stop →
      (q.state = .holding ∨
        (q.state = .blocked ∧ stg.awaiting = false ∧ s.net.statusOf st = .online ∧ ∀ bl, q.block = some bl → bl.valve = ent.valve)) →
      ∃ t, exec (.proceed p b) s = .next t ∧
        s.Serves t i p (.proceed b)
          (.withBody .done (proceedAnswerBody { q with entries := q.entryState e .running, state := .active, block := none }))
          (s.net.afterEntry b.slot.toNat q e ent.valve x stg l st).arbitrateAll) ∧
  (∀ (s : State) (i : Nat) (p : Post) (b : ProceedBody) (q : Plan) (e : Nat) (ent : PlanEntry) (x : Valve) (stg : Staged) (l : Fin 4)
      (st : Nat) (reason : BlockReason), s.ready i p (.proceed b) = true → (b.position.toNat ≤ 100 ∨ b.position.toNat = 255) →
      s.net.RunningAt { slot := b.slot.toNat, serial := b.serial } q e ent x → q.state = .holding → x.kind = .remote →
      s.net.valveLine ent.valve = some (l, st) → x.staged = some stg → x.inFlight = none → s.net.EntryFails x l st reason →
      let q1 := q.blockedBy e reason ent.valve
      ∃ t, exec (.proceed p b) s = .next t ∧
        s.Serves t i p (.proceed b) (.withBody .done (proceedAnswerBody q1))
          (Net.arbitrateAll
            { s.net with
              plans := putRecord s.net.plans b.slot.toNat q1
              valves := s.net.valves.set ent.valve { x with staged := some { stg with awaiting := false } }
              marks := (s.net.marks.add .ordinary (.plan b.slot.toNat)).add .urgent (.plan b.slot.toNat) })) ∧
  (∀ (s : State) (i : Nat) (p : Post) (b : ProceedBody) (q : Plan) (e : Nat) (ent : PlanEntry) (x : Valve),
      s.ready i p (.proceed b) = true → (b.position.toNat ≤ 100 ∨ b.position.toNat = 255) →
      s.net.RunningAt { slot := b.slot.toNat, serial := b.serial } q e ent x → q.state = .blocked →
      let cleared := s.net.Cleared ent.valve ∧ ∀ bl, q.block = some bl → s.net.Cleared bl.valve
      let resumed (q1 : Plan) : Prop :=
        ∃ t, exec (.proceed p b) s = .next t ∧
          s.Serves t i p (.proceed b) (.withBody .done (proceedAnswerBody q1))
            (Net.arbitrateAll
              { s.net with
                plans := putRecord s.net.plans b.slot.toNat q1
                marks := s.net.marks.add .ordinary (.plan b.slot.toNat) })
      (¬ cleared →
        ∃ t, exec (.proceed p b) s = .next t ∧ s.Serves t i p (.proceed b) (.plain .badState) s.net.arbitrateAll) ∧
      (cleared → ∀ stg, x.staged = some stg → stg.awaiting = true →
        resumed { q with entries := q.entryState e .hold, state := .holding, block := none }) ∧
      (cleared → x.staged = none → (∀ d, x.dwellEnd = some d → s.net.now < d) →
        resumed { q with entries := q.entryState e .running, state := .active, block := none }))

/-- R119, R120, R12, R14: a PROCEED on a HOLDING plan at a MANUAL valve sets the crew's position, counts the step as arrived and starts its
dwell; without a position it is answered BAD-FORM. R119: one with a position from 101 to 254 is answered BAD-FORM whatever it names, one for
an unknown plan NO-SUCH, one for a plan neither HOLDING nor BLOCKED BAD-STATE. The body of DONE, and that the refusals have none, is the
model's choice (log 25); the order of the marks is deduced (log 14). -/
def Obligations.ProceedTakesTheCrewPosition : Prop :=
  (∀ (s : State) (i : Nat) (p : Post) (b : ProceedBody), s.ready i p (.proceed b) = true →
    let refused (c : AnswerCode) : Prop :=
      ∃ t, exec (.proceed p b) s = .next t ∧ s.Serves t i p (.proceed b) (.plain c) s.net.arbitrateAll
    let plan := findRecord s.net.plans { slot := b.slot.toNat, serial := b.serial }
    (100 < b.position.toNat → b.position.toNat < 255 → refused .badForm) ∧
    (b.position.toNat ≤ 100 ∨ b.position.toNat = 255 →
      (plan = none → refused .noSuch) ∧ ∀ q, plan = some q → q.state ≠ .holding → q.state ≠ .blocked → refused .badState)) ∧
  ∀ (s : State) (i : Nat) (p : Post) (b : ProceedBody) (q : Plan) (e : Nat) (ent : PlanEntry) (x : Valve) (stg : Staged),
    s.ready i p (.proceed b) = true → s.net.RunningAt { slot := b.slot.toNat, serial := b.serial } q e ent x → x.kind = .manual →
    x.staged = some stg → q.state = .holding →
    (100 < b.position.toNat →
      ∃ t, exec (.proceed p b) s = .next t ∧ s.Serves t i p (.proceed b) (.plain .badForm) s.net.arbitrateAll) ∧
    (b.position.toNat ≤ 100 → stg.dwell ≠ 0 →
      let y := { x with
        position := some b.position.toNat, positionTime := some s.net.now, posState := posStateOfPosition b.position.toNat, staged := none
        dwellEnd := some (s.net.now + 1000 * stg.dwell) }
      let q1 := { q with entries := q.entryState e .running, state := .active, block := none }
      ∃ t, exec (.proceed p b) s = .next t ∧
        s.Serves t i p (.proceed b) (.withBody .done (proceedAnswerBody q1))
          (Net.arbitrateAll
            { s.net.afterPosition ent.valve x y with
              plans := putRecord s.net.plans b.slot.toNat q1
              marks := (s.net.marks.add .ordinary (.valve ent.valve)).add .ordinary (.plan b.slot.toNat) }))

/-- R125, R126, R109, R30: an ABANDON of a live plan none of whose valves has a step in flight or a STOP pending ends it at once: ABANDONED,
its staged steps and dwells discarded, its claims released in one claim change. With a step in flight at its one valve it is left
ABANDONING, a STOP listed in the place of the STEP; with a STOP pending there already, ABANDONING until it is settled. A plan that is not
live is answered BAD-STATE, an unknown one NO-SUCH. R108: that an ABANDONING plan keeps its running entry is deduced (log 26), and so is the
order of the marks (log 14). That none of the answers has a body is the model's choice (log 25). -/
def Obligations.AbandonStopsOrEndsThePlan : Prop :=
  (∀ (s : State) (i : Nat) (p : Post) (b : RefBody) (q : Plan), s.ready i p (.abandon b) = true →
      findRecord s.net.plans (bodyRef b) = some q → (q.state = .active ∨ q.state = .holding ∨ q.state = .blocked) →
      (∀ x ∈ s.net.valves, x.claim = some (bodyRef b) → x.inFlight = none ∧ x.stopPending = false) →
      let q1 := { q with
        state := .abandoned, block := none, running := none, endedTime := some s.net.now
        entries := q.entries.map (fun e => if e.state = .done then e else { e with state := .cancelled }) }
      ∃ t marks, exec (.abandon p b) s = .next t ∧
        s.Serves t i p (.abandon b) (.plain .done)
          (Net.arbitrateAll
            { s.net with
              plans := putRecord s.net.plans b.slot.toNat q1
              valves := s.net.valves.map (fun x =>
                if x.claim = some (bodyRef b) then { x with staged := none, dwellEnd := none, claim := none } else x)
              survey := { s.net.survey with generation := s.net.survey.generation + 1 }
              marks := marks }) ∧
        (.plan b.slot.toNat ∈ marks.urgent ∨ .plan b.slot.toNat ∈ marks.ordinary) ∧
        ∀ v x, s.net.valves[v]? = some x → x.claim = some (bodyRef b) → .valve v ∈ marks.urgent ∨ .valve v ∈ marks.ordinary) ∧
  (∀ (s : State) (i : Nat) (p : Post) (b : RefBody), s.ready i p (.abandon b) = true →
      (findRecord s.net.plans (bodyRef b) = none →
        ∃ t, exec (.abandon p b) s = .next t ∧ s.Serves t i p (.abandon b) (.plain .noSuch) s.net.arbitrateAll) ∧
      ∀ (q : Plan), findRecord s.net.plans (bodyRef b) = some q →
        (q.state = .checking ∨ q.state = .abandoning ∨ q.state = .abandoned ∨ q.state = .complete →
          ∃ t, exec (.abandon p b) s = .next t ∧ s.Serves t i p (.abandon b) (.plain .badState) s.net.arbitrateAll) ∧
        (∀ (v : Nat) (x : Valve) (l : Fin 4) (st : Nat), (q.state = .active ∨ q.state = .holding ∨ q.state = .blocked) →
          s.net.valves[v]? = some x → x.claim = some (bodyRef b) →
          (∀ w y, s.net.valves[w]? = some y → y.claim = some (bodyRef b) → w = v) → x.inFlight.isSome = true → x.stopPending = false →
          s.net.valveLine v = some (l, st) → (s.net.line l).role = .master → s.net.statusOf st ≠ .lost → s.net.statusOf st ≠ .siteOut →
          ∃ t, exec (.abandon p b) s = .next t ∧
            s.Serves t i p (.abandon b) (.plain .done)
              (Net.arbitrateAll
                { s.net with
                  plans := putRecord s.net.plans b.slot.toNat
                    { q with
                      state := .abandoning, block := none
                      entries := q.entries.map (fun e => if e.state = .done then e else { e with state := .cancelled }) }
                  valves := s.net.valves.set v { x with staged := none, dwellEnd := none, inFlight := none, stopPending := true }
                  lines := s.net.lines.set l { s.net.line l with commands := stopEntered (s.net.line l).commands st }
                  marks := (s.net.marks.add .ordinary (.plan b.slot.toNat)).add .ordinary (.valve v) })) ∧
        ∀ (v : Nat) (x : Valve), (q.state = .active ∨ q.state = .holding ∨ q.state = .blocked) → s.net.valves[v]? = some x →
          x.claim = some (bodyRef b) → (∀ w y, s.net.valves[w]? = some y → y.claim = some (bodyRef b) → w = v) → x.stopPending = true →
          let marks := s.net.marks.add .ordinary (.plan b.slot.toNat)
          ∃ t, exec (.abandon p b) s = .next t ∧
            s.Serves t i p (.abandon b) (.plain .done)
              (Net.arbitrateAll
                { s.net with
                  plans := putRecord s.net.plans b.slot.toNat
                    { q with
                      state := .abandoning, block := none
                      entries := q.entries.map (fun e => if e.state = .done then e else { e with state := .cancelled }) }
                  valves := s.net.valves.set v { x with staged := none, dwellEnd := none, inFlight := none }
                  marks := if x.stepState = .none then marks else marks.add .ordinary (.valve v) }))

/-- R127, R12, R14: a VALVE-NOTE is refused for a position above 100, an absent valve, a claimed one, and a REMOTE one whose station can
still report it; otherwise the valve takes the position, a REMOTE one NOTED, its motion and limits absent. That the refusals have no body is
the model's choice (log 25). -/
def Obligations.ValveNoteSetsThePosition : Prop :=
  ∀ (s : State) (i : Nat) (p : Post) (b : NoteBody), s.ready i p (.valveNote b) = true →
    let v := b.valve.toNat
    let refused (c : AnswerCode) : Prop := ∃ t, exec (.valveNote p b) s = .next t ∧ s.Refuses t i p (.valveNote b) (.plain c)
    (100 < b.position.toNat → refused .badForm) ∧
    (b.position.toNat ≤ 100 → s.net.valves.length ≤ v → refused .noSuch) ∧
    ∀ x, b.position.toNat ≤ 100 → s.net.valves[v]? = some x →
      (x.claim ≠ none → refused .claimed) ∧
      (∀ l st, x.claim = none → s.net.valveLine v = some (l, st) → s.net.statusOf st ≠ .lost → s.net.statusOf st ≠ .siteOut →
        refused .notPermitted) ∧
      (x.claim = none → (∀ l st, s.net.valveLine v = some (l, st) → s.net.statusOf st = .lost ∨ s.net.statusOf st = .siteOut) →
        let y := { x with
          position := some b.position.toNat, positionTime := some s.net.now, posState := posStateOfPosition b.position.toNat }
        let z := if x.kind = .remote then { y with noted := true, motion := none, closedLimit := none, openLimit := none } else y
        ∃ t, exec (.valveNote p b) s = .next t ∧
          s.Serves t i p (.valveNote b) (.withBody .done (noteBody z))
            { s.net.afterPosition v x z with marks := s.net.marks.add .ordinary (.valve v) })

/-- R117, R121, R30: the travel limit of a TRAVELLING valve of an ACTIVE plan's running entry blocks the plan with TRAVEL-FAULT, stages the
step again and enters a STOP for the valve's station; before the limit nothing is taken. R11, R14, R116, R124: a reading of such a valve
blocks the plan when its selector is LOCAL, is an arrival that starts the dwell when the valve is STILL at its target, and changes nothing
in the step otherwise; one of a valve of the running entry with no step in flight blocks the plan when the valve has moved. -/
def Obligations.TravelLimitBlocksAndStops : Prop :=
  (∀ (s : State) (r : Ref) (q : Plan) (e : Nat) (ent : PlanEntry) (x : Valve) (f : StepInFlight) (a : Time) (l : Fin 4) (st : Nat),
    s.net.RunningAt r q e ent x → q.state = .active → x.staged = none → x.inFlight = some f → f.accepted = some a →
    s.net.valveLine ent.valve = some (l, st) → (s.net.line l).role = .master → s.net.statusOf st ≠ .lost → s.net.statusOf st ≠ .siteOut →
    ∃ t, exec (.travelLimitExpiry ent.valve) s = .next t ∧
      (s.net.now < a + 1000 * x.travelLimit → s.OnlyNet t s.net.arbitrateAll) ∧
      ((s.net.mode = .running ∨ s.net.mode = .halting ∨ s.net.mode = .detached) → a + 1000 * x.travelLimit ≤ s.net.now →
        s.OnlyNet t
          (Net.arbitrateAll
            { s.net with
              plans := putRecord s.net.plans r.slot
                { q with
                  entries := q.entryState e .blocked, state := .blocked
                  block := some { reason := .travelFault, valve := ent.valve } }
              valves := s.net.valves.set ent.valve
                { x with
                  inFlight := none, stopPending := true
                  staged := some
                    { entry := f.entry, step := f.step, target := f.target
                      dwell := ((q.stepAt f.entry f.step).map (·.dwell)).getD 0, awaiting := false } }
              lines := s.net.lines.set l { s.net.line l with commands := stopEntered (s.net.line l).commands st }
              marks := (s.net.marks.add .urgent (.plan r.slot)).add .ordinary (.valve ent.valve) }))) ∧
  ∀ (s : State) (r : Ref) (q : Plan) (i : Nat) (ent : PlanEntry) (x : Valve) (l : Fin 4) (e : LineExchange) (z : Station) (b : Byte × Byte)
    (p : Payload), s.net.RunningAt r q i ent x → q.state = .active → ent.state = .running → (s.net.line l).role = .master →
    (s.net.line l).state = .await → (s.net.line l).exchange = some e → (s.net.line l).windowSince ≠ none → e.function = .read →
    s.net.stations[e.station]? = some z → z.line = l → z.kind ≠ .pressure → z.valve = some ent.valve → 0 < s.net.replyAgeLimit z →
    p.readings = [] → p.valve = some b → b.1.toNat ≤ 100 → b.2.toNat % 4 ≠ 3 →
    let read (y : Valve) (plans : List (Slot Plan)) : Prop :=
      ∃ (t : State) (n : Net), exec (.replyFrame l (ReplyFrame.bytes { address := z.address, kind := .data p })) s = .next t ∧
        s.OnlyNet t n.arbitrateAll ∧ n.valves = (s.net.afterPosition ent.valve x y).valves ∧
        n.survey = (s.net.afterPosition ent.valve x y).survey ∧ n.plans = plans
    let w := { x.afterReading s.net.now b with settleNext := false }
    let blocked (reason : BlockReason) := putRecord s.net.plans r.slot (q.blockedBy i reason ent.valve)
    (∀ f, x.inFlight = some f → f.unverified = false → f.accepted ≠ none →
      let dwell := ((q.stepAt f.entry f.step).map (·.dwell)).getD 0
      let reached := b.2.toNat % 4 = 0 ∧
        (if f.target = 0 then w.posState = .closed else b.1.toNat ≤ f.target + 2 ∧ f.target ≤ b.1.toNat + 2)
      (b.2.getLsbD 4 = false → read { w with inFlight := none, staged := some (f.again dwell) } (blocked .atSite)) ∧
      (b.2.getLsbD 4 = true → reached → dwell ≠ 0 →
        read { w with inFlight := none, dwellEnd := some (s.net.now + 1000 * dwell) } s.net.plans) ∧
      (b.2.getLsbD 4 = true → ¬ reached → read w s.net.plans)) ∧
    (x.inFlight = none →
      (b.2.getLsbD 4 = false → read w (blocked .atSite)) ∧
      (b.2.getLsbD 4 = true → x.Moved b → read w (blocked .unplannedMove)) ∧
      (b.2.getLsbD 4 = true → ¬ x.Moved b → read w s.net.plans))

/-- R118, R109: a dwell that ends after the last step of the last entry completes the plan: running entry absent, ended time set, claims
released in one claim change; in HALTED or STARTING, or before its time, it is not taken. R113, R114, R29: one that ends before the entry's
last step stages the next step; one that ends after it, with an entry to follow, ends the entry and stages the step of the next entry. A
step staged so awaits PROCEED when its hold flag is set or its valve is MANUAL, and is entered at once otherwise (a REMOTE valve past the
conditions of R114). The order of the marks is deduced (log 14). -/
def Obligations.DwellEndStagesOrCompletes : Prop :=
  (∀ (s : State) (r : Ref) (q : Plan) (e : Nat) (ent : PlanEntry) (x : Valve) (d : Time), s.net.RunningAt r q e ent x →
      ent.state = .running → x.dwellEnd = some d →
      ∃ t, exec (.dwellEnd ent.valve) s = .next t ∧
        (s.net.now < d ∨ s.net.mode = .halted ∨ s.net.mode = .starting → s.OnlyNet t s.net.arbitrateAll) ∧
        ((s.net.mode = .running ∨ s.net.mode = .halting ∨ s.net.mode = .detached) → d ≤ s.net.now → ent.steps.length ≤ ent.current + 1 →
          q.entries.length = e + 1 →
          let claimed := (List.range s.net.valves.length).filter (fun v => (s.net.valves[v]?).any (fun y => y.claim = some r))
          let marks := (s.net.marks.add .ordinary (.valve ent.valve)).add .ordinary (.plan r.slot)
          s.OnlyNet t
            (Net.arbitrateAll
              { s.net with
                plans := putRecord s.net.plans r.slot
                  { q with entries := q.entryState e .done, state := .complete, running := none, endedTime := some s.net.now }
                valves := (s.net.valves.set ent.valve { x with dwellEnd := none }).map (fun y =>
                  if y.claim = some r then { y with claim := none } else y)
                survey := { s.net.survey with generation := s.net.survey.generation + 1 }
                marks := claimed.foldl (fun m v => m.add .ordinary (.valve v)) marks }))) ∧
  (∀ (s : State) (r : Ref) (q : Plan) (e : Nat) (ent : PlanEntry) (x : Valve) (d : Time) (nx : PlanStep), s.net.RunningAt r q e ent x →
      ent.state = .running → x.dwellEnd = some d → d ≤ s.net.now →
      (s.net.mode = .running ∨ s.net.mode = .halting ∨ s.net.mode = .detached) → ent.steps[ent.current + 1]? = some nx →
      (x.kind = .manual ∧ s.net.valveLine ent.valve = none ∨ nx.hold = true ∧ ∃ l st, s.net.MayEnter ent.valve x l st) →
      ∃ t, exec (.dwellEnd ent.valve) s = .next t ∧
        s.OnlyNet t
          (Net.arbitrateAll
            { s.net with
              plans := putRecord s.net.plans r.slot
                { q with entries := q.entries.modify e (fun y => { y with current := y.current + 1, state := .hold }), state := .holding }
              valves := s.net.valves.set ent.valve
                { x with
                  dwellEnd := none, movedUnplanned := false
                  staged := some { entry := e, step := ent.current + 1, target := nx.target, dwell := nx.dwell, awaiting := true } }
              marks := (s.net.marks.add .ordinary (.valve ent.valve)).add .ordinary (.plan r.slot) })) ∧
  (∀ (s : State) (r : Ref) (q : Plan) (e : Nat) (ent : PlanEntry) (x : Valve) (d : Time) (nx : PlanStep) (l : Fin 4) (st : Nat),
      s.net.RunningAt r q e ent x → q.state = .active → ent.state = .running → x.dwellEnd = some d → d ≤ s.net.now →
      (s.net.mode = .running ∨ s.net.mode = .halting ∨ s.net.mode = .detached) → ent.steps[ent.current + 1]? = some nx → nx.hold = false →
      s.net.MayEnter ent.valve x l st → x.stopPending = false → listedCommand (s.net.line l).commands st ≠ some .stop →
      ∃ t, exec (.dwellEnd ent.valve) s = .next t ∧
        s.OnlyNet t
          (Net.arbitrateAll
            { s.net with
              plans := putRecord s.net.plans r.slot { q with entries := q.entries.modify e (fun y => { y with current := y.current + 1 }) }
              valves := s.net.valves.set ent.valve
                { x with
                  dwellEnd := none, movedUnplanned := false, staged := none
                  inFlight := some
                    { entry := e, step := ent.current + 1, tag := (s.net.line l).tagCounter, target := nx.target, accepted := none
                      unverified := false } }
              lines := s.net.lines.set l
                { s.net.line l with
                  tagCounter := (s.net.line l).tagCounter + 1
                  commands := stepEntered (s.net.line l).commands st (s.net.line l).tagCounter nx.target }
              marks := (s.net.marks.add .ordinary (.valve ent.valve)).add .ordinary (.plan r.slot) })) ∧
  ∀ (s : State) (r : Ref) (q : Plan) (e : Nat) (ent next : PlanEntry) (x y : Valve) (d : Time) (nx : PlanStep),
      s.net.RunningAt r q e ent x → q.state = .active → ent.state = .running → x.dwellEnd = some d → d ≤ s.net.now →
      (s.net.mode = .running ∨ s.net.mode = .halting ∨ s.net.mode = .detached) → ent.steps.length ≤ ent.current + 1 →
      q.entries[e + 1]? = some next → next.steps[next.current]? = some nx →
      let valves := s.net.valves.set ent.valve { x with dwellEnd := none }
      valves[next.valve]? = some y →
      let marks := ((s.net.marks.add .ordinary (.valve ent.valve)).add .ordinary (.plan r.slot)).add .ordinary (.valve next.valve)
      let started (state : EntryState) := (q.entryState e .done).modify (e + 1) (fun w => { w with state := state })
      ∃ t, exec (.dwellEnd ent.valve) s = .next t ∧
        ((y.kind = .manual ∧ s.net.valveLine next.valve = none ∨ nx.hold = true ∧ ∃ l st, s.net.MayEnter next.valve y l st) →
          s.OnlyNet t
            (Net.arbitrateAll
              { s.net with
                plans := putRecord s.net.plans r.slot { q with entries := started .hold, state := .holding, running := some (e + 1) }
                valves := valves.set next.valve
                  { y with
                    movedUnplanned := false
                    staged := some { entry := e + 1, step := next.current, target := nx.target, dwell := nx.dwell, awaiting := true } }
                marks := marks })) ∧
        ∀ l st, nx.hold = false → s.net.MayEnter next.valve y l st → y.stopPending = false →
          listedCommand (s.net.line l).commands st ≠ some .stop →
          s.OnlyNet t
            (Net.arbitrateAll
              { s.net with
                plans := putRecord s.net.plans r.slot { q with entries := started .running, running := some (e + 1) }
                valves := valves.set next.valve
                  { y with
                    movedUnplanned := false, staged := none
                    inFlight := some
                      { entry := e + 1, step := next.current, tag := (s.net.line l).tagCounter, target := nx.target, accepted := none
                        unverified := false } }
                lines := s.net.lines.set l
                  { s.net.line l with
                    tagCounter := (s.net.line l).tagCounter + 1
                    commands := stepEntered (s.net.line l).commands st (s.net.line l).tagCounter nx.target }
                marks := marks })

/-! ## Outages -/

/-- R141: a RESTORE of an ISOLATED outage makes it RESTORING and each of its REFED-UNCONTROLLED zones REPRESSURISED (one of 0 customers is
R140's); of an unknown one NO-SUCH, of any other BAD-STATE. That the refusals have no body is the model's choice (log 25). -/
def Obligations.RestoreDeclaresRestoration : Prop :=
  ∀ (s : State) (i : Nat) (p : Post) (b : RefBody), s.ready i p (.restore b) = true →
    (findRecord s.net.outages (bodyRef b) = none →
      ∃ t, exec (.restore p b) s = .next t ∧ s.Refuses t i p (.restore b) (.plain .noSuch)) ∧
    ∀ o, findRecord s.net.outages (bodyRef b) = some o →
      (o.state ≠ .isolated → ∃ t, exec (.restore p b) s = .next t ∧ s.Refuses t i p (.restore b) (.plain .badState)) ∧
      (o.state = .isolated →
        (∀ h ∈ o.held, ∀ x, s.net.zones[h.zone]? = some x → x.supply = .refedUncontrolled → x.customers ≠ 0) →
        let made := (o.held.map (·.zone)).filter (fun z => (s.net.zones[z]?).any (fun x => x.supply = .refedUncontrolled))
        let count := ((List.range s.net.zones.length).filter (fun z => z ∈ made)).length
        ∃ t, exec (.restore p b) s = .next t ∧
          s.Serves t i p (.restore b) (.withBody .done (restoreBody { o with state := .restoring } count 0))
            { s.net with
              outages := putRecord s.net.outages b.slot.toNat { o with state := .restoring }
              zones := s.net.zones.mapIdx (fun z x => if z ∈ made then { x with supply := .repressurised } else x)
              marks := made.foldl (fun m z => m.add .ordinary (.zone z)) (s.net.marks.add .ordinary (.outage b.slot.toNat)) })

/-- R142: a RELIGHT is refused at the first check that fails: a count of 0, an absent zone, one not REPRESSURISED, a point not GOOD or not
NORMAL, a count past the customers; nothing changes, and the body gives the zone and its outage as they stand (log 25; that BAD-FORM and
NO-SUCH for an absent zone have no body is log 25 too). R143: one that passes raises the relit count and lowers customers-off; the last
customer makes the zone SUPPLIED, the last zone a RESTORING record RESTORED. -/
def Obligations.RelightChecksAndCounts : Prop :=
  (∀ (s : State) (i : Nat) (p : Post) (b : RelightBody), s.ready i p (.relight b) = true →
      let z := b.zone.toNat
      let refused (a : Answer) : Prop := ∃ t, exec (.relight p b) s = .next t ∧ s.Refuses t i p (.relight b) a
      (s.net.zones.length ≤ z → b.count.toNat = 0 → refused (.plain .badForm)) ∧
      (s.net.zones.length ≤ z → b.count.toNat ≠ 0 → refused (.plain .noSuch)) ∧
      ∀ x, s.net.zones[z]? = some x →
        let relit := s.net.relitOf z
        let shown (c : AnswerCode) : Answer := .withBody c (relightBody x.supply relit x.customers ((s.net.zoneOutage z).map (·.2)))
        (b.count.toNat = 0 → refused (shown .badForm)) ∧
        (b.count.toNat ≠ 0 → x.supply ≠ .repressurised → refused (shown .badState)) ∧
        (b.count.toNat ≠ 0 → x.supply = .repressurised → ¬ s.net.PointsNormal x → refused (shown .pressureNotNormal)) ∧
        (b.count.toNat ≠ 0 → x.supply = .repressurised → s.net.PointsNormal x → x.customers < relit + b.count.toNat →
          refused (shown .overCount))) ∧
  (∀ (s : State) (i : Nat) (p : Post) (b : RelightBody) (x : Zone) (slot : Nat) (o : Outage) (h : HeldZone),
      s.ready i p (.relight b) = true → s.net.zones[b.zone.toNat]? = some x → x.supply = .repressurised → s.net.PointsNormal x →
      s.net.zoneOutage b.zone.toNat = some (slot, o) → o.entry b.zone.toNat = some h → b.count.toNat ≠ 0 →
      let relit := h.relit + b.count.toNat
      let marks := (s.net.marks.add .ordinary (.outage slot)).add .ordinary (.zone b.zone.toNat)
      (relit < x.customers →
        let o1 := o.holding (o.held.map (fun y => if y.zone = b.zone.toNat then { y with relit := relit } else y))
        ∃ t, exec (.relight p b) s = .next t ∧
          s.Serves t i p (.relight b) (.withBody .done (relightBody .repressurised relit x.customers (some o1)))
            { s.net with outages := putRecord s.net.outages slot o1, marks := marks }) ∧
      (relit = x.customers →
        let left := o.holding (o.held.filter (fun y => y.zone ≠ b.zone.toNat))
        let o1 := if left.held = [] ∧ o.state = .restoring then { left with state := .restored, restored := some s.net.now } else left
        ∃ t, exec (.relight p b) s = .next t ∧
          s.Serves t i p (.relight b) (.withBody .done (relightBody .supplied relit x.customers (some o1)))
            { s.net with
              outages := putRecord s.net.outages slot o1
              zones := s.net.zones.set b.zone.toNat { x with supply := .supplied, outage := none }
              marks := marks }))

/-! ## Surveys and trials -/

/-- R76, R72: a SOURCE order for no state is answered BAD-FORM, for an absent source NO-SUCH, for the state held ACCEPTED at once; any other
joins the trial queue and its folio stays TAKEN. R159: with 4 trials queued the cursor stalls on the folio, which stays TAKEN, and the sweep
ends; what becomes of an owed sweep and of the timer is deduced (log 15). That an order for no state of an absent source is BAD-FORM is the
model's choice (log 38). That BAD-FORM and NO-SUCH have no body is the model's choice (log 25). -/
def Obligations.SourceOrderQueuesATrial : Prop :=
  ∀ (s : State) (i : Nat) (p : Post) (b : SourceBody), s.ready i p (.source b) = true →
    (1 < b.target.toNat → ∃ t, exec (.source p b) s = .next t ∧ s.Refuses t i p (.source b) (.plain .badForm)) ∧
    (b.target.toNat ≤ 1 → s.net.sources.length ≤ b.source.toNat →
      ∃ t, exec (.source p b) s = .next t ∧ s.Refuses t i p (.source b) (.plain .noSuch)) ∧
    ∀ x, b.target.toNat ≤ 1 → s.net.sources[b.source.toNat]? = some x →
      let target : SourceState := if b.target.toNat = 0 then .live else .out
      (x.state = target →
        ∃ t, exec (.source p b) s = .next t ∧
          s.Refuses t i p (.source b) (.withBody .accepted (trialBody b.source.toNat 0 0 []))) ∧
      (x.state ≠ target → s.net.survey.queue.length < 4 →
        ∃ t, exec (.source p b) s = .next t ∧ s.TookPending t i p (.source b) ∧ s.SameClock t ∧
          t.net =
            { s.net with
              survey :=
                { s.net.survey with
                  queue := s.net.survey.queue ++
                    [.source b.source.toNat target (b.flags.getLsbD 0) (b.flags.getLsbD 1) (some i)] } }) ∧
      (x.state ≠ target → 4 ≤ s.net.survey.queue.length →
        ∃ t, exec (.source p b) s = .next t ∧ t.net = s.net ∧ s.SameClock t ∧
          s.TookStalled t i p (.source b) (.source i b.source.toNat target (b.flags.getLsbD 0) (b.flags.getLsbD 1)))

/-- R66: with at most 128 zones, a real survey reaches exactly the zones of the smallest set that R66 describes. -/
def Obligations.SurveyReachesTheReachableSet : Prop :=
  ∀ (n : Net), n.zones.length ≤ 128 → ∀ z, z ∈ n.realResult ↔ z < n.zones.length ∧ n.Feeds z

/-- R68, R69, R73: an idle engine in RUNNING or DETACHED starts an owed real survey, else the oldest trial, with the generation and the
inputs as they stand; in any other mode, or while it is not idle, it starts nothing. R73: a trial has one result for each prefix of its
subject, and each holds exactly the zones reached over the sources that count as LIVE and the valves that count as passing in it. -/
def Obligations.SurveysStartInOrder : Prop :=
  (∀ s : State, ∃ t u, exec .realSurveyStart s = .next t ∧ exec .trialStart s = .next u ∧
    let free := (s.net.mode = .running ∨ s.net.mode = .detached) ∧ s.net.survey.inFlight = none ∧ s.net.survey.held = none
    (¬ (free ∧ s.net.survey.pendingReal = true) → s.OnlyNet t s.net) ∧
    (free → s.net.survey.pendingReal = true →
      s.OnlyNet t
        { s.net with
          survey :=
            { s.net.survey with
              pendingReal := false, inFlight := some (.real s.net.survey.generation s.net.realResult) } } ∧
      s.OnlyNet u s.net) ∧
    (¬ free ∨ s.net.survey.queue = [] → s.OnlyNet u s.net) ∧
    ∀ sub rest, free → s.net.survey.pendingReal = false → s.net.survey.queue = sub :: rest →
      s.OnlyNet u
        { s.net with
          survey := { s.net.survey with inFlight := some (.trial s.net.survey.generation (s.net.trialResult sub)) } }) ∧
  ∀ (n : Net) (sub : Subject), (n.trialResult sub).length = n.prefixes sub ∧
    (n.zones.length ≤ 128 → ∀ k reached, (n.trialResult sub)[k]? = some reached →
      ∀ z, z ∈ reached ↔ z < n.zones.length ∧ n.TrialFeeds sub (k + 1) z)

/-- R70, R134: a real survey during which the generation moved is discarded and owed again; one whose losses have no place (no outage of
the planned incident, no slot FREE, no record ISOLATED or RESTORING) is held and changes nothing else; any other is applied: every zone FED
exactly if reached, UNFED in supply if not, the change set cleared, points judged before zones, records and incidents are marked. R138 to
R140: a held zone lost again is UNFED, relit 0; one gained is REPRESSURISED under a RESTORING record, or SUPPLIED and gone from it when it
has no customers, else REFED-UNCONTROLLED. R135 to R137: losses join the outage of the planned incident; else they open a record in the
lowest FREE slot, linked to the planned incident or to a SUPPLY-LOSS incident made for it, marked URGENT when it is linked to none; with no
slot FREE they join the newest ISOLATED, else the newest RESTORING record. -/
def Obligations.RealSurveyCompletes : Prop :=
  ∀ (s : State) (start : BitVec 32) (result : List Nat), s.net.survey.inFlight = some (.real start result) →
    let losses := ∃ z x, s.net.zones[z]? = some x ∧ x.supply = .supplied ∧ z ∉ result
    ∃ t, exec .realSurveyCompletion s = .next t ∧
      (s.net.survey.generation ≠ start →
        s.OnlyNet t { s.net with survey := { s.net.survey with inFlight := none, pendingReal := true } }) ∧
      (s.net.survey.generation = start → losses → s.net.NoPlace →
        s.OnlyNet t { s.net with survey := { s.net.survey with inFlight := none, held := some { start := start, reached := result } } }) ∧
      (s.net.survey.generation = start → (¬ losses ∨ ¬ s.net.NoPlace) →
        s.OnlyNet t t.net ∧ t.net.zones.length = s.net.zones.length ∧ t.net.survey.inFlight = none ∧ t.net.survey.held = s.net.survey.held ∧
        t.net.survey.changeValves = [] ∧ t.net.survey.changeSources = [] ∧
        ∀ z x, s.net.zones[z]? = some x → ∃ y, t.net.zones[z]? = some y ∧ (y.fed = .fed ↔ z ∈ result) ∧
          (z ∉ result → y.supply = .unfed) ∧ (z ∈ result → x.supply ≠ .unfed → y.supply = x.supply) ∧
          (z ∈ result → x.supply = .unfed → y.supply ≠ .unfed) ∧
          ∀ j o h, s.net.HeldBy z x j o h → s.net.HeldZoneTaken t.net result z x j o h) ∧
      (s.net.survey.generation = start → (¬ losses ∨ ¬ s.net.NoPlace) → s.net.PointsMarkedFirst t.net) ∧
      (s.net.survey.generation = start → losses → s.net.OnlyLosses result →
        let zs := s.net.lossesOf result
        let joined (r : Ref) (o : Outage) : Prop :=
          t.net.outages = putRecord s.net.outages r.slot (o.holding (o.held ++ s.net.newlyHeld zs)) ∧ t.net.incidents = s.net.incidents ∧
            s.net.LossesLinked t.net result r
        let opened (j : Nat) (link : Option Ref) : Prop :=
          t.net.outages = fillSlot s.net.outages j (s.net.madeOutage link zs) ∧ t.net.outageSeq = s.net.outageSeq + 1 ∧
            s.net.LossesLinked t.net result { slot := j, serial := (slotRef s.net.outages j).serial + 1 } ∧
            (link = none → .outage j ∈ t.net.marks.urgent)
        (∀ r o, s.net.PlannedOutage r o → joined r o) ∧
        ((∀ r o, ¬ s.net.PlannedOutage r o) →
          (∀ j, LowestFree s.net.outages j →
            let r : Ref := { slot := j, serial := (slotRef s.net.outages j).serial + 1 }
            (∀ q x, s.net.Planned q → findRecord s.net.incidents q = some x → x.state ≠ .closed →
              opened j (some q) ∧ t.net.incidents = putRecord s.net.incidents q.slot { x with outage := some r }) ∧
            (s.net.causeOfLosses = .planned →
              (∀ q x, s.net.Planned q → findRecord s.net.incidents q = some x → x.state = .closed) →
              opened j none ∧ t.net.incidents = s.net.incidents) ∧
            (s.net.causeOfLosses ≠ .planned →
              (∀ i z x, LowestFree s.net.incidents i → zs.head? = some z → s.net.zones[z]? = some x →
                opened j (some { slot := i, serial := (slotRef s.net.incidents i).serial + 1 }) ∧
                  t.net.incidents = fillSlot s.net.incidents i (s.net.madeSupplyLoss z x r)) ∧
              ((∀ sl ∈ s.net.incidents, sl.state ≠ .free) → opened j none ∧ t.net.incidents = s.net.incidents))) ∧
          ((∀ sl ∈ s.net.outages, sl.state ≠ .free) →
            (∀ j o, s.net.Newest .isolated j o → joined (slotRef s.net.outages j) o) ∧
            ((∀ j o, ¬ s.net.outageIn .isolated j o) → ∀ j o, s.net.Newest .restoring j o → joined (slotRef s.net.outages j) o))))

/-- R74: the prefixes of a trial are judged in order; the first that offends refuses it, naming its losses when those are not accepted, else
the zones refed without being allowed; when none offends it is accepted with every zone that loses feed in some prefix. -/
def Obligations.TrialJudgesPrefixesInOrder : Prop :=
  ∀ (n : Net) (flags : Bool × Bool) (prefixes : List (List Nat)),
    ((∀ r ∈ prefixes, ¬ n.Offends flags r) →
      n.judge flags [] prefixes =
        .accepted ((List.range n.zones.length).filter (fun z => prefixes.any (fun r => decide (z ∈ n.losing r))))) ∧
    ∀ before r after, prefixes = before ++ r :: after → (∀ q ∈ before, ¬ n.Offends flags q) → n.Offends flags r →
      n.judge flags [] prefixes =
        if flags.1 = false ∧ n.losing r ≠ [] then .wouldIsolate (n.losing r) else .wouldRefeed (n.refedUnallowed flags.2 r)

/-- R75, R76: a SOURCE trial during which the generation moved stays at the head of the queue; else it leaves the queue, and its folio is
answered: refused with the zones, the source as it was, or accepted, the source in the target state and, where that is a change, in the
change set. R164: with the exchange out of reach no answer is written, and the effect is the same. R159: the place that comes free takes an
order that stalled, a PLAN's trial or a SOURCE's, the stall flag is cleared, and in RUNNING a sweep begins from the cursor. The zones fit
in R1's sequence (an invariant, stated below). -/
def Obligations.SourceTrialCompletes : Prop :=
  ∀ (stores : List HostStore) (s : State) (start : BitVec 32) (result : List (List Nat)) (id : Nat) (target : SourceState) (o r : Bool)
    (f : Nat) (rest : List Subject) (x : Source), s.net.survey.inFlight = some (.trial start result) →
    s.net.survey.queue = .source id target o r (some f) :: rest → s.net.sources[id]? = some x → s.net.zonesFit = true →
    let u := s.store stores
    let popped := { s.net.survey with inFlight := none, queue := rest }
    let refused := Net.arbitrateAll { s.net with survey := popped }
    ∃ t, exec (.trialCompletion stores) s = .next t ∧
      (s.net.survey.generation ≠ start →
        u.OnlyNet t (Net.arbitrateAll { s.net with survey := { s.net.survey with inFlight := none } })) ∧
      (∀ zs, s.net.survey.generation = start → s.exch.stall = none →
        (s.net.judge (o, r) [] result = .wouldIsolate zs →
          u.EndsLate t f (.withBody .wouldIsolate (trialBody id 0 0 zs)) refused) ∧
        (s.net.judge (o, r) [] result = .wouldRefeed zs →
          u.EndsLate t f (.withBody .wouldRefeed (trialBody id 0 0 zs)) refused) ∧
        (s.net.judge (o, r) [] result = .accepted zs → x.state = target →
          u.EndsLate t f (.withBody .accepted (trialBody id 0 0 zs)) refused) ∧
        (s.net.judge (o, r) [] result = .accepted zs → x.state ≠ target →
          u.EndsLate t f (.withBody .accepted (trialBody id 0 0 zs))
            (Net.arbitrateAll
              { s.net with
                sources := s.net.sources.set id { x with state := target }
                marks := s.net.marks.add .ordinary (.source id)
                survey :=
                  { popped with
                    generation := s.net.survey.generation + 1, pendingReal := true
                    changeSources := noteSource s.net.survey.changeSources id } }))) ∧
      ∀ zs st sub, s.net.survey.generation = start → s.net.judge (o, r) [] result = .wouldIsolate zs → s.exch.stall = some st →
        s.net.OffersAgain st sub → refused.survey.queue.length < 4 →
        let offered := { refused with survey := { refused.survey with queue := refused.survey.queue ++ [sub] } }
        t.exch.stall = none ∧ (s.exch.reachable = true → t.Answered f (.withBody .wouldIsolate (trialBody id 0 0 zs))) ∧
          t.net.survey = offered.survey ∧
          (s.net.mode = .running → u.chainReadable → t.net = offered ∧ t.exch.sweep = some u.firstPhase ∧ t.exch.cursor = s.exch.cursor) ∧
          (s.net.mode ≠ .running → t.net = offered ∧ t.exch.sweep = s.exch.sweep ∧ t.exch.cursor = s.exch.cursor)

/-- R75, R112, R100: a PLAN trial during which the generation moved stays at the head of the queue. One that is refused, or that is accepted
with a valve claimed meanwhile (CLAIMED, with the first such entry), frees the plan's slot, its serial kept, takes back the reservation and
answers the folio. R109, R113: one accepted with no valve claimed makes the plan ACTIVE, its valves claimed, its incident linked, its first
entry started: the first step is staged, awaiting PROCEED with the plan HOLDING, or entered, or a condition of R114 blocks it; the answer
is ACCEPTED with the zones expected to lose feed. R164: with the exchange out of reach no answer is written, and the effect is the same. The
zones fit in R1's sequence (an invariant, stated below). -/
def Obligations.PlanTrialFreesOrClaims : Prop :=
  ∀ (stores : List HostStore) (s : State) (start : BitVec 32) (result : List (List Nat)) (k : Ref) (q : Plan) (x : Incident) (f : Nat)
    (rest : List Subject), s.net.survey.inFlight = some (.trial start result) → s.net.survey.queue = .plan k :: rest →
    findRecord s.net.plans k = some q → q.folio = some f → q.state = .checking → findRecord s.net.incidents q.incident = some x →
    s.net.zonesFit = true →
    let u := s.store stores
    let verdict := s.net.judge (q.outageAccepted, q.refeedAccepted) [] result
    let claimed (e : PlanEntry) : Prop := ∃ v, s.net.valves[e.valve]? = some v ∧ v.claim ≠ none
    let freed := Net.arbitrateAll
      { s.net with
        plans := s.net.plans.modify k.slot (fun sl => { sl with state := .free, record := none })
        incidents := putRecord s.net.incidents q.incident.slot { x with reservations := x.reservations - 1 }
        survey := { s.net.survey with inFlight := none, queue := rest } }
    ∃ t, exec (.trialCompletion stores) s = .next t ∧
      (s.net.survey.generation ≠ start →
        u.OnlyNet t (Net.arbitrateAll { s.net with survey := { s.net.survey with inFlight := none } })) ∧
      ∀ zs, s.net.survey.generation = start → s.exch.stall = none →
        (verdict = .wouldIsolate zs → u.EndsLate t f (.withBody .wouldIsolate (trialBody k.slot 0 k.serial zs)) freed) ∧
        (verdict = .wouldRefeed zs → u.EndsLate t f (.withBody .wouldRefeed (trialBody k.slot 0 k.serial zs)) freed) ∧
        (∀ i e, verdict = .accepted zs → q.entries[i]? = some e → claimed e → (∀ j d, j < i → q.entries[j]? = some d → ¬ claimed d) →
          u.EndsLate t f (.withBody .claimed (trialBody k.slot (i + 1) k.serial [])) freed) ∧
        (verdict = .accepted zs → (∀ e ∈ q.entries, ¬ claimed e) →
          ∃ n : Net, u.EndsLate t f (.withBody .accepted (trialBody k.slot 0 k.serial zs)) n.arbitrateAll ∧
            n.survey.inFlight = none ∧ n.survey.queue = rest ∧ n.survey.generation = s.net.survey.generation + 1 ∧
            (∃ q1, findRecord n.plans k = some q1 ∧ q1.expectedLosses = zs ∧ q1.acceptedTime = some s.net.now ∧ q1.folio = none ∧
              s.net.FirstEntryStarted n q q1) ∧
            (∃ x1, findRecord n.incidents q.incident = some x1 ∧ x1.plans = x.plans ++ [k] ∧ x1.reservations = x.reservations - 1) ∧
            ∀ v y, s.net.valves[v]? = some y → ∃ w, n.valves[v]? = some w ∧
              w.claim = if q.entries.any (fun e => e.valve = v) then some k else y.claim)

/-! ## Deadlines -/

/-- R93: a deadline that the run clock has reached, its timer ARMED, is expired in RUNNING, HALTING and DETACHED: the timer is disarmed, and
an OPEN incident takes OVERDUE and MISSED and is marked URGENT; in HALTED and STARTING, or before its time, nothing is taken. -/
def Obligations.DeadlineExpiryMarksOverdue : Prop :=
  ∀ (s : State) (j : Nat) (x : Incident), slotRecord s.net.incidents j = some x → ∃ t, exec (.deadlineExpiry j) s = .next t ∧
    let taken := (s.net.mode = .running ∨ s.net.mode = .halting ∨ s.net.mode = .detached) ∧ x.armed = true ∧ x.deadline ≤ s.net.now
    (¬ taken → s.OnlyNet t s.net) ∧
    (taken → x.state = .opened →
      s.OnlyNet t
        { s.net with
          incidents := putRecord s.net.incidents j { x with armed := false, overdue := true, missed := true }
          marks := s.net.marks.add .urgent (.incident j) }) ∧
    (taken → x.state ≠ .opened →
      s.OnlyNet t { s.net with incidents := putRecord s.net.incidents j { x with armed := false } })

/-! ## Lines -/

/-- R33, R34, R37: a HOLD of a line is answered DONE and holds it; a RELEASE of a line not HELD is answered BAD-STATE; of a HELD one DONE:
to IDLE, or, reconfigured, to SETTLING with every station UNKNOWN; a line above 3 is NO-SUCH. A HOLD in SETTLING sets the reconfigured flag
(log 10), and the answer shows the line before its next choice (log 23). That NO-SUCH has no body is the model's choice (log 25). -/
def Obligations.HoldAndReleaseALine : Prop :=
  ∀ (s : State) (i : Nat) (p : Post) (line : Byte) (o w : Order), postedBy (.hold p line) = some (p, o) →
    postedBy (.release p line) = some (p, w) → s.ready i p o = true → s.ready i p w = true →
    (4 ≤ line.toNat →
      (∃ t, exec (.hold p line) s = .next t ∧ s.Serves t i p o (.plain .noSuch) s.net.arbitrateAll) ∧
      ∃ t, exec (.release p line) s = .next t ∧ s.Serves t i p w (.plain .noSuch) s.net.arbitrateAll) ∧
    ∀ l : Fin 4, line.toNat = l.val →
      let x := s.net.line l
      (∃ t, exec (.hold p line) s = .next t ∧ s.Serves t i p o (.withBody .done (lineBody x.afterHold)) (s.net.afterHold l).arbitrateAll) ∧
      (x.state ≠ .held →
        ∃ t, exec (.release p line) s = .next t ∧ s.Serves t i p w (.withBody .badState (lineBody x)) s.net.arbitrateAll) ∧
      (x.state = .held → x.reconfigured = false →
        ∃ t, exec (.release p line) s = .next t ∧
          s.Serves t i p w (.withBody .done (lineBody { x with state := .idle }))
            (s.net.afterIdle l { x with orderHold := false }).arbitrateAll) ∧
      (x.state = .held → x.reconfigured = true →
        let y := { x with
          orderHold := false, state := .settling, reconfigured := false, continuation := none, roundRobin := none, since := s.net.now }
        ∃ (t : State) (n : Net), exec (.release p line) s = .next t ∧
          s.Serves t i p w (.withBody .done (lineBody y)) n.arbitrateAll ∧ n.lines = s.net.lines.set l y ∧
          n.stations = s.net.stations.map (fun z =>
            if z.line = l then { z with status := .unknown, resume := .unknown, silent := 0, busy := 0, backoff := 0 } else z) ∧
          n.valves = s.net.valves ∧ n.plans = s.net.plans ∧ n.survey = s.net.survey)

/-- R35: a CONFIGURE on a HELD line, MASTER or LISTEN, is answered DONE: the line takes speed, window and gap, and the reconfigured flag is
set even where they are as before; on a line in any other state it is answered BAD-STATE, and the line is as it was. R33: one with a value
out of range is answered BAD-FORM, in any line state, one for a line above 3 NO-SUCH; neither changes anything. -/
def Obligations.ConfigureNeedsAHeldLine : Prop :=
  (∀ (s : State) (i : Nat) (p : Post) (line speed window gap : Byte) (o : Order),
    postedBy (.configure p line speed window gap) = some (p, o) → s.ready i p o = true →
    let good := speed.toNat < 6 ∧ 2 ≤ window.toNat ∧ 2 ≤ gap.toNat ∧ gap.toNat ≤ 250
    let refused (codes : List AnswerCode) : Prop :=
      ∃ t a, exec (.configure p line speed window gap) s = .next t ∧ a.code ∈ codes ∧ s.Serves t i p o a s.net.arbitrateAll
    (¬ good → line.toNat ≤ 3 → refused [.badForm]) ∧ (good → 4 ≤ line.toNat → refused [.noSuch]) ∧
      (¬ good → 4 ≤ line.toNat → refused [.badForm, .noSuch])) ∧
  ∀ (s : State) (i : Nat) (p : Post) (line speed window gap : Byte) (o : Order) (l : Fin 4) (sp : Speed),
    postedBy (.configure p line speed window gap) = some (p, o) → s.ready i p o = true → line.toNat = l.val →
    Speed.ofCode speed.toNat = some sp → 2 ≤ window.toNat → 2 ≤ gap.toNat → gap.toNat ≤ 250 →
    let x := s.net.line l
    let y := { x with params := { speed := sp, window := window.toNat, gap := gap.toNat }, reconfigured := true }
    (x.state = .held →
      ∃ t, exec (.configure p line speed window gap) s = .next t ∧
        s.Serves t i p o (.withBody .done (lineBody y))
          (Net.arbitrateAll
            { s.net with
              lines := s.net.lines.set l y
              marks := if y.params = x.params then s.net.marks else s.net.marks.add .ordinary (.line l) })) ∧
    (x.state ≠ .held →
      ∃ t, exec (.configure p line speed window gap) s = .next t ∧
        s.Serves t i p o (.withBody .badState (lineBody x)) s.net.arbitrateAll)

/-- R33, R36: ROLE for the role held is answered DONE and changes nothing; MASTER needs a HELD line with its permit, else NOT-PERMITTED;
LISTEN needs a HELD line, else BAD-STATE, and leaves it with no command and no continuation; another role code is BAD-FORM, its body role
and line state by log 25; a line above 3 is NO-SUCH. -/
def Obligations.RoleChangesAHeldLine : Prop :=
  (∀ (s : State) (i : Nat) (p : Post) (line role : Byte) (o : Order), postedBy (.role p line role) = some (p, o) → s.ready i p o = true →
    4 ≤ line.toNat →
    let refused (codes : List AnswerCode) : Prop :=
      ∃ t a, exec (.role p line role) s = .next t ∧ a.code ∈ codes ∧ s.Serves t i p o a s.net.arbitrateAll
    (role.toNat ≤ 1 → refused [.noSuch]) ∧ (1 < role.toNat → refused [.badForm, .noSuch])) ∧
  ∀ (s : State) (i : Nat) (p : Post) (line role : Byte) (o : Order) (l : Fin 4), postedBy (.role p line role) = some (p, o) →
    s.ready i p o = true → line.toNat = l.val →
    let x := s.net.line l
    let answered (c : AnswerCode) (y : Line) (n : Net) : Prop :=
      ∃ t, exec (.role p line role) s = .next t ∧ s.Serves t i p o (.withBody c (lineBody y)) n.arbitrateAll
    (1 < role.toNat → answered .badForm x s.net) ∧
    ((role.toNat = 0 ∧ x.role = .master ∨ role.toNat = 1 ∧ x.role = .listen) → answered .done x s.net) ∧
    (role.toNat = 0 → x.role = .listen → ¬ (x.state = .held ∧ x.permit = true) → answered .notPermitted x s.net) ∧
    (role.toNat = 0 → x.role = .listen → x.state = .held → x.permit = true →
      let y := { x with role := .master, reconfigured := true }
      answered .done y { s.net with lines := s.net.lines.set l y, marks := s.net.marks.add .ordinary (.line l) }) ∧
    (role.toNat = 1 → x.role = .master → x.state ≠ .held → answered .badState x s.net) ∧
    (role.toNat = 1 → x.role = .master → x.state = .held →
      let y := { x with role := .listen, reconfigured := true, continuation := none, commands := [] }
      ∃ n : Net, answered .done y n ∧ n.line l = y ∧ n.stations = s.net.stations ∧ n.points = s.net.points ∧ n.zones = s.net.zones)

/-- R21, R22: a MASTER line in IDLE with no exchange chooses the oldest STOP that may be sent, else a CONTINUE owed, else the oldest STEP
that may be sent, else, with no idle wait, a READ to the next due station; in any other case it chooses nothing. R20, R45: with no station
due the cycle closes: the count goes up, the position returns to the start, each BACKOFF of the line counts down, an idle wait starts when
no READ was sent; then the line chooses again. `resumesOk` is an invariant, stated below. -/
def Obligations.LineChoosesByPriority : Prop :=
  ∀ (n : Net) (l : Fin 4), let x := n.line l
    (¬ (x.role = .master ∧ x.state = .idle ∧ x.exchange = none) → n.arbitrate l = n) ∧
    (x.role = .master → x.state = .idle → x.exchange = none →
      (∀ c z, Oldest x.commands n.stopMay c → n.stations[c.station]? = some z → n.arbitrate l = n.afterChoice l c.station z .stop) ∧
      ((∀ c ∈ x.commands, ¬ n.stopMay c) →
        (∀ st z, x.continuation = some st → n.stations[st]? = some z → n.arbitrate l = n.afterChoice l st z .continue_) ∧
        (x.continuation = none →
          (∀ st z tag target, Oldest x.commands n.stepMay { station := st, command := .step tag target } → n.stations[st]? = some z →
            n.arbitrate l = n.afterChoice l st z (.step tag target)) ∧
          ((∀ c ∈ x.commands, ¬ n.stepMay c) →
            (x.idleWait ≠ none ∨ (∀ z ∈ n.stations, z.line ≠ l) → n.arbitrate l = n) ∧
            (∀ st z, x.idleWait = none → n.readMay l st z → (∀ j y, n.readMay l j y → st ≤ j) →
              n.arbitrate l = n.afterChoice l st z .read) ∧
            (x.idleWait = none → (∃ z ∈ n.stations, z.line = l) → (∀ st z, ¬ n.readMay l st z) → n.resumesOk = true →
              ∃ m : Net, n.arbitrate l = m.arbitrate l ∧
                { m with lines := n.lines, stations := n.stations, marks := n.marks } = n ∧
                m.lines = n.lines.set l (x.afterClose n.now) ∧
                m.stations = n.stations.map (fun z => if z.line = l then z.afterClose else z) ∧
                ∀ i z, n.stations[i]? = some z → z.line = l → z.afterClose.status ≠ z.status →
                  .station i ∈ m.marks.urgent ∨ .station i ∈ m.marks.ordinary)))))

/-- R25, R20, R37: the gap of a line, its idle wait and its settling time, once over by the run clock, let it choose (R21); the gap and the
settling time take it to IDLE. An expiry not due changes nothing. Settling is 20 characters of ten bits (log 11). -/
def Obligations.LineTimersLetTheLineChoose : Prop :=
  ∀ (s : State) (l : Fin 4), let x := s.net.line l
    (∃ t, exec (.gapExpiry l) s = .next t ∧
      (x.state = .gap → x.since + x.params.gap ≤ s.net.now →
        s.OnlyNet t (Net.arbitrate l { s.net with lines := s.net.lines.set l { x with state := .idle } })) ∧
      (x.state ≠ .gap ∨ s.net.now < x.since + x.params.gap → s.OnlyNet t s.net)) ∧
    (∃ t, exec (.idleWaitExpiry l) s = .next t ∧
      (∀ w, x.idleWait = some w → w ≤ s.net.now →
        s.OnlyNet t (Net.arbitrate l { s.net with lines := s.net.lines.set l { x with idleWait := none } })) ∧
      ((∀ w, x.idleWait = some w → s.net.now < w) → s.OnlyNet t s.net)) ∧
    ∃ t, exec (.settlingExpiry l) s = .next t ∧
      (x.state = .settling → x.since + 20 * 10 * 1000 / x.params.speed.rate ≤ s.net.now →
        s.OnlyNet t (Net.arbitrate l (s.net.afterIdle l x))) ∧
      (x.state ≠ .settling ∨ s.net.now < x.since + 20 * 10 * 1000 / x.params.speed.rate → s.OnlyNet t s.net)

/-- R22 to R25, R43 to R47, R53, R54: the poll of a MASTER line is sent and its window starts; a reply begins; a valid reply of the polled
station ends the exchange as its kind says, any other frame, or the window with no frame begun, as silence. The station is one whose reply
age is not reached (R49). R26 to R28, R115, R126: what the ending makes of the listed command, of the continuation, and of the plan's step
or STOP, here for replies without readings and a valve part, and for a plan that enters nothing in the same event. R59, R61, R63: what a
reading hands on. R32, R51, R122: a station that so becomes LOST or SITE-OUT loses its command and continuation, and blocks its plan. R23:
a frame that ends on a line that awaits no reply is discarded; lines in IDLE choose as at the end of any event (log 23). -/
def Obligations.ExchangeRunsToItsEnding : Prop :=
  ∀ (s : State) (l : Fin 4), let x := s.net.line l
    let polling := x.role = .master ∧ (x.state = .await ∨ x.state = .holding) ∧ x.exchange ≠ none
    (∃ t, exec (.pollSent l) s = .next t ∧
      (polling → x.windowSince = none →
        s.OnlyNet t { s.net with lines := s.net.lines.set l { x with windowSince := some s.net.now } }) ∧
      (¬ polling ∨ x.windowSince ≠ none → s.OnlyNet t s.net)) ∧
    (∃ t, exec (.replyFrameBegun l) s = .next t ∧
      (polling → x.windowSince ≠ none → s.OnlyNet t { s.net with lines := s.net.lines.set l { x with frameBegun := true } }) ∧
      (¬ polling ∨ x.windowSince = none → s.OnlyNet t s.net)) ∧
    (¬ polling ∨ x.windowSince = none →
      (∀ bytes, ∃ t, exec (.replyFrame l bytes) s = .next t ∧ s.OnlyNet t s.net.arbitrateAll) ∧
        ∃ t, exec (.responseWindowExpiry l) s = .next t ∧ s.OnlyNet t s.net) ∧
    ∀ (e : LineExchange) (z : Station) (w : Time), polling → x.exchange = some e → x.windowSince = some w →
      s.net.stations[e.station]? = some z → z.line = l → 0 < s.net.replyAgeLimit z →
      s.net.now < z.replyRef + 1000 * s.net.replyAgeLimit z →
      let ended (k : Option ReplyKind) (c : Instr) : Prop :=
        ∃ (t : State) (n : Net), exec c s = .next t ∧ s.OnlyNet t n.arbitrateAll ∧ s.net.ExchangeEnded n l ∧
          n.stations[e.station]? = some (z.afterEnding s.net.now e.function k) ∧
          (∀ p, k = some (.data p) ∨ k = some (.part p) → s.net.ReadingApplied n e.station p) ∧
          (z.status ≠ .lost → z.status ≠ .siteOut →
            (z.afterEnding s.net.now e.function k).status = .lost ∨ (z.afterEnding s.net.now e.function k).status = .siteOut →
            s.net.OutOfReach n e.station z (if e.function = .continue_ then none else x.continuation))
      (∀ k : ReplyKind, k.ok = true → ended (some k) (.replyFrame l (ReplyFrame.bytes { address := z.address, kind := k }))) ∧
      (∀ bytes, (∀ r, parseReply bytes = some r → r.address ≠ z.address) → ended none (.replyFrame l bytes)) ∧
      (x.frameBegun = false → w + 10 * x.params.window ≤ s.net.now → ended none (.responseWindowExpiry l)) ∧
      (x.frameBegun = true ∨ s.net.now < w + 10 * x.params.window →
        ∃ t, exec (.responseWindowExpiry l) s = .next t ∧ s.OnlyNet t s.net) ∧
      let settles (c : Instr) (commands : List Listed) (continuation : Option Nat) (valves : List Valve) (plans : List (Slot Plan)) : Prop :=
        ∃ (t : State) (n : Net), exec c s = .next t ∧ s.OnlyNet t n.arbitrateAll ∧ s.net.ExchangeEnded n l ∧
          (n.line l).commands = commands ∧ (n.line l).continuation = continuation ∧ n.valves = valves ∧ n.plans = plans
      let reply (k : ReplyKind) : Instr := .replyFrame l (ReplyFrame.bytes { address := z.address, kind := k })
      let others := x.commands.filter (fun c => c.station ≠ e.station)
      let owed := if e.function = .continue_ then none else x.continuation
      let bare (p : Payload) : Prop := p.readings = [] ∧ p.valve = none
      (x.frameBegun = false → w + 10 * x.params.window ≤ s.net.now → z.silent < 2 →
        settles (.responseWindowExpiry l) x.commands owed s.net.valves s.net.plans) ∧
      (z.busy < 5 → settles (reply .busy) x.commands owed s.net.valves s.net.plans) ∧
      ((e.function = .read ∨ e.function = .continue_) →
        (∀ p, bare p → settles (reply (.data p)) x.commands owed s.net.valves s.net.plans) ∧
        ∀ p, bare p → settles (reply (.part p)) x.commands (some e.station) s.net.valves s.net.plans) ∧
      (∀ tag target, e.function = .step tag target →
        (∀ p, bare p → p.echo ≠ some tag → settles (reply (.data p)) x.commands x.continuation s.net.valves s.net.plans) ∧
        ∀ (r : Ref) (q : Plan) (i : Nat) (ent : PlanEntry) (v : Valve) (f : StepInFlight),
          (∀ c ∈ x.commands, c.station = e.station → c = { station := e.station, command := .step tag target }) →
          s.net.stationValve e.station = some ent.valve → s.net.valveLine ent.valve = some (l, e.station) → s.net.RunningAt r q i ent v →
          q.state = .active → v.inFlight = some f → f.tag = tag → f.accepted = none → f.unverified = false →
          let taken := s.net.valves.set ent.valve { v with inFlight := some { f with accepted := some s.net.now } }
          (∀ p, bare p → p.echo = some tag → settles (reply (.data p)) others x.continuation taken s.net.plans) ∧
          (∀ p, bare p → p.echo = some tag → settles (reply (.part p)) others (some e.station) taken s.net.plans) ∧
          settles (reply .refuse) others x.continuation
            (s.net.valves.set ent.valve
              { v with inFlight := none, staged := some (f.again (((q.stepAt f.entry f.step).map (·.dwell)).getD 0)) })
            (putRecord s.net.plans r.slot (q.blockedBy i .stepRefused ent.valve))) ∧
      (e.function = .stop →
        ∀ (r : Ref) (q : Plan) (i : Nat) (ent : PlanEntry) (v : Valve),
          x.commands.any (fun c => c.station = e.station) = true →
          (∀ c ∈ x.commands, c.station = e.station → c = { station := e.station, command := .stop }) →
          s.net.stationValve e.station = some ent.valve → s.net.RunningAt r q i ent v → q.state = .blocked → v.stopPending = true →
          let settled := s.net.valves.set ent.valve { v with stopPending := false, settleNext := true }
          (∀ p, bare p → settles (reply (.data p)) others x.continuation settled s.net.plans) ∧
          (∀ p, bare p → settles (reply (.part p)) others (some e.station) settled s.net.plans) ∧
          settles (reply .refuse) others x.continuation settled s.net.plans)

/-- R38, R39, R48, R49, R51, R55: a LISTEN line in IDLE hears its stations' replies; a station unheard for the listen timeout, or past its
reply age on a running MASTER line, is made LOST with its points; a point past its stale age is made STALE. R9 to R11, R14, R124: the valve
part of a reply is read into the station's valve, here an unclaimed one: its position state, its passing state handed on, MOVED-UNPLANNED
set and the valve marked when it has moved (also when it was set before, log 35); a part without meaning is discarded whole. R59, R61, R63:
what a reading hands on; R32, R115, R122: a station made LOST loses its command and continuation, and blocks its plan. -/
def Obligations.HeardLostAndStale : Prop :=
  ∀ s : State,
    (∀ (l : Fin 4) (bytes : List Byte), ∃ t, exec (.listenFrame l bytes) s = .next t ∧
      (parseReply bytes = none ∨ (s.net.line l).role = .master ∨ (s.net.line l).state ≠ .idle → s.OnlyNet t s.net.arbitrateAll) ∧
      ∀ (st : Nat) (z : Station) (k : ReplyKind), (s.net.line l).role = .listen → (s.net.line l).state = .idle →
        s.net.stationAt l z.address = some st → s.net.stations[st]? = some z → k.ok = true →
        bytes = ReplyFrame.bytes { address := z.address, kind := k } →
        let heard := { z with lastHeard := some s.net.now }
        (k = .busy ∨ k = .refuse →
          s.OnlyNet t (Net.arbitrateAll { s.net with stations := s.net.stations.set st heard })) ∧
        ∀ p, k = .data p ∨ k = .part p → ∃ n : Net, s.OnlyNet t n.arbitrateAll ∧
          n.stations[st]? = some (heard.afterEnding s.net.now .read (some k)) ∧ s.net.ReadingApplied n st p ∧
          ∀ (v : Nat) (y : Valve) (b : Byte × Byte), z.kind ≠ .pressure → z.valve = some v → s.net.valves[v]? = some y → y.claim = none →
            p.valve = some b → (100 < b.1.toNat ∨ b.2.toNat % 4 = 3 → n.valves = s.net.valves) ∧
            (b.1.toNat ≤ 100 → b.2.toNat % 4 ≠ 3 →
              let w := { y.afterReading s.net.now b with settleNext := false }
              (y.Moved b → n.valves = (s.net.afterPosition v y { w with movedUnplanned := true }).valves ∧
                (.valve v ∈ n.marks.urgent ∨ .valve v ∈ n.marks.ordinary)) ∧
              (¬ y.Moved b → n.valves = (s.net.afterPosition v y w).valves) ∧
              (p.readings = [] → n.survey = (s.net.afterPosition v y w).survey))) ∧
    (∀ (st : Nat) (z : Station), s.net.stations[st]? = some z →
      let x := s.net.line z.line
      let unheard := x.role = .listen ∧ x.state = .idle ∧ z.status ≠ .lost ∧
        ∃ h, z.lastHeard = some h ∧ h + 1000 * x.listenTimeout ≤ s.net.now
      let aged := z.replyRef + 1000 * s.net.replyAgeLimit z ≤ s.net.now ∧ z.status ≠ .lost ∧ z.status ≠ .siteOut ∧ x.role = .master ∧
        (x.state = .idle ∨ x.state = .await ∨ x.state = .gap) ∧ ∀ e, x.exchange = some e → e.station ≠ st
      (∃ t, exec (.listenLost st) s = .next t ∧ (¬ unheard → s.OnlyNet t s.net.arbitrateAll) ∧
        (unheard → ∃ n : Net, s.OnlyNet t n.arbitrateAll ∧ s.net.StationLost n st z)) ∧
      ∃ t, exec (.replyAgeExpiry st) s = .next t ∧ (¬ aged → s.OnlyNet t s.net.arbitrateAll) ∧
        (aged → ∃ n : Net, s.OnlyNet t n.arbitrateAll ∧ s.net.StationLost n st z)) ∧
    ∀ (i : Nat) (q : Point), s.net.points[i]? = some q → ∃ t, exec (.staleExpiry i) s = .next t ∧
      let stale := (s.net.mode = .running ∨ s.net.mode = .halting ∨ s.net.mode = .detached) ∧
        q.freshSince + 1000 * q.settings.stale ≤ s.net.now ∧ (q.quality = .unknown ∨ q.quality = .good ∨ q.quality = .suspect)
      (¬ stale → s.OnlyNet t s.net) ∧
      (stale → ∃ n : Net, s.OnlyNet t n ∧ n.points = s.net.points.set i { q with quality := .stale, pendingBand := none } ∧
        n.stations = s.net.stations ∧ n.valves = s.net.valves ∧ n.lines = s.net.lines)

/-! ## LIMITS, LEND, QUERY, CLOCK, and folios taken -/

/-- R58: a LIMITS for an absent point is answered NO-SUCH, whatever its values (log 38, the model's choice where both are wrong), with
values out of range or out of order BAD-FORM; otherwise the point takes them, a pending band's delay restarts, and a point already past its
new stale age is STALE in the same event; band, value and, but for that, quality stay. That none of the answers has a body is the model's
choice (log 25). -/
def Obligations.LimitsGiveAPointNewValues : Prop :=
  ∀ (s : State) (i : Nat) (p : Post) (b : LimitsBody), s.ready i p (.limits b) = true →
    let id := b.point.toNat
    let good := b.ll.toNat < b.l.toNat ∧ b.l.toNat < b.h.toNat ∧ b.h.toNat < b.hh.toNat ∧
      2 * b.deadband.toNat < b.h.toNat - b.l.toNat ∧ b.confirm.toNat ≤ 60 ∧ 10 ≤ b.stale.toNat ∧ b.stale.toNat ≤ 3600
    (s.net.points.length ≤ id → ∃ t, exec (.limits p b) s = .next t ∧ s.Refuses t i p (.limits b) (.plain .noSuch)) ∧
    ∀ q, s.net.points[id]? = some q →
      (¬ good → ∃ t, exec (.limits p b) s = .next t ∧ s.Refuses t i p (.limits b) (.plain .badForm)) ∧
      (good →
        let w : Point := { q with
          settings :=
            { ll := b.ll.toNat, l := b.l.toNat, h := b.h.toNat, hh := b.hh.toNat, deadband := b.deadband.toNat, confirm := b.confirm.toNat
              stale := b.stale.toNat }
          pendingBand := q.pendingBand.map (fun pb => { pb with since := s.net.now }) }
        let stale := q.freshSince + 1000 * b.stale.toNat ≤ s.net.now ∧
          (q.quality = .unknown ∨ q.quality = .good ∨ q.quality = .suspect)
        (¬ stale →
          ∃ t, exec (.limits p b) s = .next t ∧
            s.Serves t i p (.limits b) (.plain .done)
              { s.net with points := s.net.points.set id w, marks := s.net.marks.add .ordinary (.point id) }) ∧
        (stale →
          ∃ (t : State) (n : Net), exec (.limits p b) s = .next t ∧ s.Serves t i p (.limits b) (.plain .done) n ∧
            n.points = s.net.points.set id { w with quality := .stale, pendingBand := none } ∧ n.stations = s.net.stations ∧
            n.valves = s.net.valves ∧ n.lines = s.net.lines ∧ n.survey = s.net.survey ∧
            (.point id ∈ n.marks.urgent ∨ .point id ∈ n.marks.ordinary)))

/-- R160: a LEND with fewer than 32 indices on the lent list is turned LENT, its index at the tail, nothing answered and nothing latched;
with 32 it is answered NO-ROOM. The index itself was removed first (R158). That NO-ROOM has no body is the model's choice (log 25). -/
def Obligations.LendJoinsTheLentList : Prop :=
  ∀ (s : State) (i : Nat) (p : Post), s.ready i p .lend = true →
    let others := s.exch.lent.filter (fun j => j ≠ i)
    (others.length < 32 →
      ∃ t, exec (.lend p) s = .next t ∧ t.net = s.net ∧ t.report = s.report ∧ t.pending = s.pending ∧ s.SameClock t ∧
        t.exch =
          { s.exch with lent := others ++ [i], cursor := some i, sweep := some (phaseAfter p.link.toNat), cause := causeAfter s t false } ∧
        t.mem.read (t.folioAddr i) = 4 ∧ t.HeaderKept i p .lend ∧
        t.mem.read (t.folioAddr i + 3) = s.mem.read (s.folioAddr i + 3) ∧
        ∀ a, a < s.folioAddr i ∨ s.folioAddr i + 256 ≤ a → t.mem.read a = s.mem.read a) ∧
    (32 ≤ others.length → ∃ t, exec (.lend p) s = .next t ∧ s.Refuses t i p .lend (.plain .noRoom))

/-- R161, R186: a QUERY changes no record; it is answered with the portion of 240 bytes it names and the number of portions; a kind that
names no record and a portion past the last are BAD-FORM, an unknown identifier NO-SUCH. The content layouts (log 9) and the head's bits and
counts and, for a unit, its identifier and serial (log 42) are the model's. That BAD-FORM and NO-SUCH have no body is the model's choice
(log 25). -/
def Obligations.QueryAnswersAPortion : Prop :=
  ∀ (s : State) (i : Nat) (p : Post) (b : QueryBody), s.ready i p (.query b) = true →
    let u := { s with exch := { s.exch with cursor := some i, lent := s.exch.lent.filter (fun j => j ≠ i) } }
    let answered (a : Answer) : Prop := ∃ t, exec (.query p b) s = .next t ∧ s.Refuses t i p (.query b) a
    (b.kind.toNat = 0 ∨ 15 < b.kind.toNat → answered (.plain .badForm)) ∧
    (b.kind.toNat = 1 ∧ s.net.zones.length ≤ b.ident.toNat ∨ b.kind.toNat = 2 ∧ s.net.sources.length ≤ b.ident.toNat ∨
      b.kind.toNat = 3 ∧ s.net.valves.length ≤ b.ident.toNat ∨ b.kind.toNat = 4 ∧ s.net.stations.length ≤ b.ident.toNat ∨
      b.kind.toNat = 5 ∧ s.net.points.length ≤ b.ident.toNat ∨ b.kind.toNat = 6 ∧ 4 ≤ b.ident.toNat → answered (.plain .noSuch)) ∧
    ∀ q, u.queryContent b = .ok q →
      let bytes := contentBytes b.kind.toNat s.net.now q
      (240 * b.portion.toNat < bytes.length →
        answered
          { code := .done, body := (bytes.drop (240 * b.portion.toNat)).take 240, portions := some ((bytes.length + 239) / 240) }) ∧
      (bytes.length ≤ 240 * b.portion.toNat → answered (.plain .badForm))

/-- R162: a CLOCK that names a moment from 2000 to 2099 sets the time of day to it and clears TIME-UNSET, and its answer DONE carries the
new time as stamp; any other is BAD-FORM and leaves the clock. No run-clock time changes. A QUERY of the clock gives run clock, time of day
and TIME-UNSET (R178, R186); their byte places and widths there are the model's choice (log 9). That DONE and BAD-FORM have no body is the
model's choice (log 25). -/
def Obligations.ClockOrderSetsTheTimeOfDay : Prop :=
  (∀ (s : State) (i : Nat) (p : Post) (b : ClockBody), s.ready i p (.clock b) = true →
    (ClockBody.good b →
      ∃ t, exec (.clock p b) s = .next t ∧ s.TookAnswered t i p (.clock b) (.plain .done) ∧ t.net = s.net ∧ t.timeUnset = false ∧
        t.tod = 86400000 * ClockBody.days b + 3600000 * b.hour.toNat + 60000 * b.minute.toNat + 1000 * b.second.toNat + b.ms.toNat ∧
        t.mem.number (t.folioAddr i + 8) 8 = t.tod) ∧
    (¬ ClockBody.good b → ∃ t, exec (.clock p b) s = .next t ∧ s.Refuses t i p (.clock b) (.plain .badForm))) ∧
  ∀ (s : State) (i : Nat) (p : Post) (b : QueryBody), s.ready i p (.query b) = true → b.kind.toNat = 15 → b.portion.toNat = 0 →
    ∃ (t : State) (body : List OutByte), exec (.query p b) s = .next t ∧
      s.Refuses t i p (.query b) { code := .done, body := body, portions := some 1 } ∧
      ∃ lead between rest, lead.length = 18 ∧ between.length = 2 ∧
        body = lead ++ out 6 s.net.now ++ out 8 s.tod ++ between ++ out 1 (bitOf s.timeUnset) ++ rest

/-- R157, R158, R185: FOLIO_TAKEN on a folio in which the host has posted an order does what the command of that order does; on one whose
header names no order, or whose body is above 240 bytes or too short, it answers BAD-FORM; on one not POSTED it does nothing. That an order
command and its folio are one event is log 7, that a body is short by its table, unread fields counted, log 8. That BAD-FORM has no body is
log 25. -/
def Obligations.FolioTakenRunsThePostedOrder : Prop :=
  ∀ (stores : List HostStore) (s : State) (i : Nat),
    (∀ (c : Instr) (p : Post) (o : Order), postedBy c = some (p, o) → wellFormed c = true → s.ready i p o = true →
      s.store stores = s.hostPosts i p o →
      ∃ t, exec (.folioTaken stores) s = .next t ∧ exec c s = .next t) ∧
    (s.net.mode = .running → s.exch.reachable = true → s.exch.nextFolio = some i → s.exch.stall = none → s.folioFree i = true →
      let u := s.store stores
      let a := u.folioAddr i
      (u.turnOf i ≠ 1 → ∃ t, exec (.folioTaken stores) s = .next t ∧ u.OnlyNet t s.net) ∧
      (u.turnOf i = 1 →
        headerBad (u.mem.read (a + 1)) (u.mem.read (a + 6)) ∨ bodyShort (u.mem.read (a + 1)) (u.mem.read (a + 6)) (u.mem.read (a + 20)) →
        (u.linkOf i = 65535 ∨ u.linkOf i < s.exch.folioCount) →
        ∃ t, exec (.folioTaken stores) s = .next t ∧ t.net = s.net ∧ t.report = s.report ∧ t.pending = s.pending ∧ s.SameClock t ∧
          t.Answered i (.plain .badForm) ∧ t.mem.read (a + 1) = u.mem.read (a + 1) ∧ t.linkOf i = u.linkOf i ∧
          t.exch =
            { s.exch with
              lent := s.exch.lent.filter (fun j => j ≠ i), cursor := some i, sweep := some (phaseAfter (u.linkOf i))
              cause := causeAfter s t ((u.mem.read (a + 2)).getLsbD 0) } ∧
          ∀ b, b < a ∨ a + 256 ≤ b → t.mem.read b = u.mem.read b))

/-! ## Reports -/

/-- R169 to R171: in RUNNING, with a folio and no report in progress, the record at the head of the URGENT, else of the ORDINARY list is
written behind the records already there when it fits, and the folio is returned when it is full or the last urgent report is in it; one
that does not fit returns the folio first. With nothing to write, no folio, or outside RUNNING and HALTING, nothing is written. R170, R187:
a report too long for an empty folio goes on in the folios lent after it, a head and 14 content records to a folio. R173: a closing report
written whole makes its slot RETIRING, and its folio's return makes it FREE (R79, R107, R145). R174: the reports of a folio lost at a
detachment and a report in progress are marked again, and their slots are IN-USE again; with no folio being filled a report in progress
stands (log 40). R175: a drain that ends returns the folio being filled and every lent one; a bus error in HALTING ends a report in progress
in any case. That no folio is being filled from a return to the next write, though marks wait and a folio is lent, is the model's choice
(log 39). -/
def Obligations.ReportsFillTheFolio : Prop :=
  (∀ s : State, ∃ t, exec .reportWrite s = .next t ∧ t.pending = s.pending ∧ s.SameClock t ∧
    (s.net.mode ≠ .halting → (s.net.mode ≠ .running ∨ (s.net.marks = ⟨[], []⟩ ∧ s.report.inProgress = none) ∨
      (s.report.filling = none ∧ s.exch.lent = [])) → s.OnlyNet t s.net) ∧
    ∀ (f c : Nat) (r : RecordName) (k : MarkKind), s.net.mode = .running → s.exch.reachable = true → s.report.inProgress = none →
      s.Fills f c → s.net.marks.next r k →
      let body := s.net.content r
      let left := s.net.marks.remove r
      let owed := (s.report.filling.isSome && s.report.urgentOwed) || decide (k = .urgent)
      let full := c + body.length + 1 = 15
      let net := { s.net with marks := left }.retired r (s.net.closing r)
      let closed : List Retiring := if s.net.closing r then [{ record := r, folio := f }] else []
      let head : HeadRecord :=
        { kind := r.kind, closing := s.net.closing r, urgent := decide (k = .urgent), records := body.length + 1, part := 0, parts := 1
          ident := r.ident, serial := s.net.serialOf r, time := s.net.now }
      let written := ∀ j b, (shareBytes head body)[j]? = some (some b) → t.mem.read (t.folioAddr f + 16 + 16 * c + j) = b
      (c + body.length + 1 ≤ 15 → ¬ full → ¬ (owed = true ∧ left.urgent = []) →
        written ∧ t.net = net ∧ t.report.retiring = s.report.retiring ++ closed ∧
          t.report.filling = some f ∧ t.report.count = c + body.length + 1 ∧
          t.report.urgentOwed = owed ∧ t.report.inProgress = none ∧
          t.report.flush = (if c = 0 then some (s.net.now + s.report.flushInterval) else s.report.flush) ∧
          t.exch.lent = (if s.report.filling = none then s.exch.lent.tail else s.exch.lent) ∧
          ∀ a, a < s.folioAddr f + 16 ∨ s.folioAddr f + 256 ≤ a → t.mem.read a = s.mem.read a) ∧
      (c + body.length + 1 ≤ 15 → (full ∨ owed = true ∧ left.urgent = []) →
        written ∧ s.Returned t f (c + body.length + 1) owed net (s.report.retiring ++ closed)) ∧
      (s.report.filling = some f → 15 < c + body.length + 1 → 0 < c → s.Returned t f c s.report.urgentOwed s.net s.report.retiring) ∧
      (c = 0 → 15 < body.length + 1 →
        let p : ReportInProgress :=
          { record := r, list := k, closing := s.net.closing r, serial := s.net.serialOf r, time := s.net.now, rest := body, part := 0
            parts := (body.length + 13) / 14 }
        (∀ j b, p.share[j]? = some (some b) → t.mem.read (t.folioAddr f + 16 + j) = b) ∧ t.report.inProgress = p.after ∧
          s.Returned t f 15 (s.report.filling.isSome && s.report.urgentOwed) { s.net with marks := left } s.report.retiring)) ∧
  (∀ (s : State) (f : Nat) (rest : List Nat) (p : ReportInProgress), s.net.mode = .running → s.exch.reachable = true →
    s.report.inProgress = some p → s.report.filling = none → s.exch.lent = f :: rest →
    let last := decide (p.rest.length ≤ 14)
    let net := s.net.retired p.record (last && p.closing)
    let retiring := s.report.retiring ++ (if last && p.closing then [{ record := p.record, folio := f }] else [])
    let due := 14 ≤ p.rest.length ∨ p.list = .urgent ∧ s.net.marks.urgent = []
    ∃ t, exec .reportWrite s = .next t ∧ t.exch.lent = rest ∧ t.report.inProgress = p.after ∧
      (∀ j b, p.share[j]? = some (some b) → t.mem.read (t.folioAddr f + 16 + j) = b) ∧
      (due → s.Returned t f ((p.rest.take 14).length + 1) (last && decide (p.list = .urgent)) net retiring) ∧
      (¬ due → t.net = net ∧ t.report.retiring = retiring ∧ t.report.filling = some f)) ∧
  (∀ (stores : List HostStore) (s : State), s.exch.startOp = none → s.net.mode = .running → s.exch.stall = none →
    ∃ t, exec (.memoryFault .headerRead stores) s = .next t ∧
      (s.report.filling = none → t.net.marks = s.net.marks ∧ t.report.inProgress = s.report.inProgress) ∧
      ∀ f, s.report.filling = some f →
        t.net.marks = marksAgain s.net.marks s.report.contents s.report.inProgress ∧ t.report.inProgress = none ∧ t.report.filling = none ∧
          t.report.count = 0 ∧ t.report.contents = [] ∧ t.report.flush = none ∧ t.report.urgentOwed = false ∧
          t.report.retiring = s.report.retiring.filter (fun x => x.folio ≠ f) ∧
          let lost (r : RecordName) : Bool := s.report.retiring.any (fun x => x.folio = f && x.record = r)
          t.net.incidents = s.net.incidents.mapIdx (fun i sl => if lost (.incident i) then shiftSlot .retiring .inUse sl else sl) ∧
          t.net.plans = s.net.plans.mapIdx (fun i sl => if lost (.plan i) then shiftSlot .retiring .inUse sl else sl) ∧
          t.net.outages = s.net.outages.mapIdx (fun i sl => if lost (.outage i) then shiftSlot .retiring .inUse sl else sl)) ∧
  (∀ (stores : List HostStore) (s : State), s.exch.startOp = none → s.net.mode = .halting → s.exch.reachable = true →
    ∃ t, exec (.memoryFault .headerRead stores) s = .next t ∧ t.report.drained = true ∧ t.report.inProgress = none ∧
      t.net.marks = marksAgain s.net.marks (if s.report.filling.isSome then s.report.contents else []) s.report.inProgress) ∧
  ∀ s : State, s.net.mode = .halting → s.exch.reachable = true → s.report.drained = false →
    ((s.net.marks = ⟨[], []⟩ ∧ s.report.inProgress = none) ∨ (s.report.filling = none ∧ s.exch.lent = [])) →
    ∃ t, exec .reportWrite s = .next t ∧ t.report.drained = true ∧ t.report.filling = none ∧ t.report.inProgress = none ∧ t.exch.lent = [] ∧
      (∀ f ∈ s.exch.lent, t.mem.read (t.folioAddr f) = 5 ∧ t.mem.read (t.folioAddr f + 6) = 0 ∧ t.mem.read (t.folioAddr f + 7) = 0) ∧
      (∀ f, s.report.filling = some f → f ∉ s.exch.lent →
        t.mem.read (t.folioAddr f) = 5 ∧ t.mem.read (t.folioAddr f + 7) = BitVec.ofNat 8 s.report.count) ∧
      (∀ f, s.report.filling = some f → s.net.SlotsFreed t.net (s.report.retiring.filter (fun x => x.folio = f))) ∧
      (s.report.filling = none → t.net.marks = marksAgain s.net.marks [] s.report.inProgress) ∧
      t.latched .return_ = (s.latched .return_ || s.report.filling.isSome || !s.exch.lent.isEmpty)

/-- R171: the flush timer, once reached in RUNNING or HALTING, returns the folio being filled with its records; not reached, or in HALTED,
STARTING or DETACHED, nothing is returned. R173: the slots whose closing reports it holds are FREE (R79, R107, R145). In HALTING the drain
finishes in the same event when nothing is left to write, or no folio is lent (R175); here no report is in progress. That no folio is being
filled after the return, though marks wait and a folio is lent, is the model's choice (log 39). -/
def Obligations.FlushReturnsTheFolio : Prop :=
  ∀ (s : State) (e : Time), s.report.flush = some e → ∃ t, exec .flushTimerExpiry s = .next t ∧ t.pending = s.pending ∧ s.SameClock t ∧
    (s.net.now < e ∨ s.net.mode = .halted ∨ s.net.mode = .starting ∨ s.net.mode = .detached → s.OnlyNet t s.net) ∧
    (∀ f, e ≤ s.net.now → s.net.mode = .running → s.exch.reachable = true → s.report.filling = some f →
      s.Returned t f s.report.count s.report.urgentOwed s.net s.report.retiring ∧
        (∀ a, a < s.folioAddr f ∨ s.folioAddr f + 16 ≤ a → t.mem.read a = s.mem.read a) ∧
        ((∀ x ∈ s.report.retiring, x.folio ≠ f) → t.net = s.net)) ∧
    ∀ f, e ≤ s.net.now → s.net.mode = .halting → s.exch.reachable = true → s.report.filling = some f → f ∉ s.exch.lent →
      s.report.inProgress = none → s.report.drained = false →
      s.Returned t f s.report.count s.report.urgentOwed s.net s.report.retiring ∧
        (t.net.marks = ⟨[], []⟩ ∨ s.exch.lent = [] → t.report.drained = true ∧ t.exch.lent = []) ∧
        (t.net.marks ≠ ⟨[], []⟩ → s.exch.lent ≠ [] → t.report.drained = false ∧ t.exch.lent = s.exch.lent)

/-! ## Over all commands and all states -/

/-- R56, R57: the candidate band of a GOOD reading, by the band held, and how the band moves toward it. -/
def Obligations.BandsFollowTheReading : Prop :=
  (∀ (s : Settings) (v : Nat),
    let raw : Band := if v ≤ s.ll then .lowlow else if v ≤ s.l then .low else if v < s.h then .normal else if v < s.hh then .high
      else .highhigh
    candidateBand s .normal v = raw ∧
    candidateBand s .lowlow v =
      (if v ≤ min (s.ll + s.deadband) 65535 then .lowlow else if v ≤ min (s.l + s.deadband) 65535 then .low else raw) ∧
    candidateBand s .low v = (if raw = .lowlow then .lowlow else if v ≤ min (s.l + s.deadband) 65535 then .low else raw) ∧
    candidateBand s .highhigh v =
      (if s.hh - s.deadband ≤ v then .highhigh else if s.h - s.deadband ≤ v then .high else raw) ∧
    candidateBand s .high v = (if raw = .highhigh then .highhigh else if s.h - s.deadband ≤ v then .high else raw)) ∧
  ∀ (now : Time) (s : Settings) (cand held : Band) (pb : Option PendingBand),
    (cand = held → moveBand now s cand held pb = (held, none)) ∧
    (cand ≠ held → (cand = .lowlow ∨ cand = .highhigh ∨ cand = .normal ∨ (cand = .low ∧ held = .lowlow) ∨ (cand = .high ∧ held = .highhigh)) →
      moveBand now s cand held pb = (cand, none)) ∧
    (cand ≠ held → (cand = .low ∧ held ≠ .lowlow ∨ cand = .high ∧ held ≠ .highhigh) →
      (∀ p, pb = some p → p.band = cand →
        moveBand now s cand held pb = if p.since + 1000 * s.confirm ≤ now then (cand, none) else (.normal, some p)) ∧
      ((∀ p, pb = some p → p.band ≠ cand) →
        moveBand now s cand held pb = if s.confirm = 0 then (cand, none) else (.normal, some { band := cand, since := now })))

/-- R167: a mark of a record, by the table of its place before; with the lists free of repetition before, they are so after. -/
def Obligations.MarksFollowTheTable : Prop :=
  ∀ (m : Marks) (r : RecordName), m.ok = true → (∀ k, (m.add k r).ok = true) ∧
    (r ∉ m.urgent → r ∉ m.ordinary →
      m.add .urgent r = { m with urgent := m.urgent ++ [r] } ∧ m.add .ordinary r = { m with ordinary := m.ordinary ++ [r] }) ∧
    (r ∈ m.ordinary →
      m.add .urgent r = { urgent := m.urgent ++ [r], ordinary := m.ordinary.filter (fun x => x ≠ r) } ∧ m.add .ordinary r = m) ∧
    (r ∈ m.urgent → m.add .urgent r = m ∧ m.add .ordinary r = m)

/-- No command faults or is refused, none touches the queue, and a zone's fed-state changes only by HARDWARE_RESET, a RUN-COLD (bits 0 to 7
of a MODE write are 1), a start, the completion of a real survey, or a returned folio that lets a held completion be applied (R65, R70,
R71). -/
def Obligations.EveryCommandAnswersNext : Prop :=
  ∀ (c : Instr) (s : State), ∃ t, exec c s = .next t ∧ t.pending = s.pending ∧
    ((∀ straps, c ≠ .hardwareReset straps) → (∀ v : Word, c = .runCold v ∨ c = .runWarm v ∨ c = .halt v → v.toNat % 256 ≠ 1) →
      (∀ stores, c ≠ .startingEnd stores) → c ≠ .realSurveyCompletion → c ≠ .reportWrite → c ≠ .flushTimerExpiry →
      (∀ event done stores, c ≠ .memoryFault (.folioReturn event done) stores) → t.net.zones.map Zone.fed = s.net.zones.map Zone.fed)

/-- R149, R151, R160, R166, R167, R172, R178 as invariants every step keeps: memory in canonical form, registers within their defined
bits, clocks within their range, marks and lent indices without repetition, STARVED latched while starving. -/
def Obligations.EveryStepKeepsTheRegistersAndLists : Prop :=
  ∀ s t : State, s.Inv → step s = .next t → t.Inv

/-- R1, R42, R130, R132, R133, R155, R156, R160, R163, R179 as invariants every step keeps: at most 128 zones, resume status UNKNOWN or
ONLINE, supply and fed-state agree, a zone has an outage link exactly while not SUPPLIED, customers-off is its sum, the exchange agrees with
the run mode. -/
def Obligations.EveryStepKeepsRecordsInAgreement : Prop :=
  ∀ s t : State, s.Agrees → step s = .next t → t.Agrees

/-- R188, spec/11: a reply frame and an order body read back as what was written, whatever host bytes follow the body; the check over
"123456789" is 0x29B1. -/
def Obligations.FramesAndBodiesReadBack : Prop :=
  (∀ r : ReplyFrame, r.kind.ok = true → parseReply r.bytes = some r) ∧
  (∀ (c : Instr) (p : Post) (o : Order) (tail : List Byte), postedBy c = some (p, o) → wellFormed c = true →
    readOrder o.kind (o.bytes ++ tail) = some o) ∧
  crc16 [0x31, 0x32, 0x33, 0x34, 0x35, 0x36, 0x37, 0x38, 0x39] = 0x29B1
end

