-- ==== Sys2Proof/Laws/Memory.lean ====
section
/-! SUPPORT. Host memory: what a read gives after a write, and that every operation keeps the canonical form. -/

namespace Sys2Proof.Machine

/-! ## One byte -/

theorem Memory.read_insert (m : Memory) (a b : Nat) (v : Byte) : (m.insert a v).read b = if b = a then v else m.read b := by
  induction m with
  | nil => simp only [Memory.insert, Memory.read]
  | cons c t ih =>
    obtain ⟨x, w⟩ := c
    simp only [Memory.insert]
    by_cases hax : a = x
    · subst hax
      by_cases hb : b = a <;> simp [Memory.read, hb]
    · by_cases hlt : a < x
      · by_cases hb : b = a <;> simp [Memory.read, hax, hlt, hb]
      · by_cases hbx : b = x
        · subst hbx
          have : b ≠ a := fun h => hax h.symm
          simp [Memory.read, hax, hlt, this]
        · simp [Memory.read, hax, hlt, hbx, ih]

theorem Memory.read_filter (m : Memory) (a b : Nat) :
    Memory.read (m.filter (fun c => c.1 ≠ a)) b = if b = a then 0 else m.read b := by
  induction m with
  | nil => simp [Memory.read]
  | cons c t ih =>
    obtain ⟨x, w⟩ := c
    by_cases hxa : x = a
    · subst hxa
      by_cases hb : b = x <;> simp_all [List.filter, Memory.read]
    · by_cases hb : b = x
      · subst hb
        simp_all [List.filter, Memory.read]
      · by_cases hba : b = a <;> simp_all [List.filter, Memory.read]

/-- The byte written reads back; every other reads as before. -/
theorem Memory.read_write (m : Memory) (a b : Nat) (v : Byte) : (m.write a v).read b = if b = a then v else m.read b := by
  unfold Memory.write
  split
  · rename_i h
    rw [Memory.read_filter]
    split <;> simp [h]
  · exact Memory.read_insert m a b v

/-! ## Runs of bytes -/

theorem Memory.read_writeBytes (m : Memory) (a b : Nat) (bs : List Byte) :
    (m.writeBytes a bs).read b = if h : a ≤ b ∧ b - a < bs.length then bs[b - a]'h.2 else m.read b := by
  induction bs generalizing m a with
  | nil => simp [Memory.writeBytes]
  | cons c cs ih =>
    rw [Memory.writeBytes, ih, Memory.read_write]
    by_cases hab : b = a
    · subst hab
      simp [show ¬ b + 1 ≤ b by omega]
    · by_cases hlt : a + 1 ≤ b
      · have he : b - a = (b - (a + 1)) + 1 := by omega
        by_cases hlen : b - (a + 1) < cs.length
        · rw [dif_pos ⟨hlt, hlen⟩, dif_pos ⟨by omega, by simp only [List.length_cons]; omega⟩]
          simp only [he, List.getElem_cons_succ]
        · rw [dif_neg (fun h => hlen h.2), dif_neg (fun h => hlen (by have := h.2; simp only [List.length_cons] at this; omega)),
            if_neg hab]
      · rw [dif_neg (fun h => hlt h.1), dif_neg (fun h => hlt (by have := h.1; omega)), if_neg hab]

/-- What the part writes: a byte given is read back, a byte left alone and every byte outside reads as before. -/
theorem Memory.read_writeOut (m : Memory) (a b : Nat) (bs : List OutByte) :
    (m.writeOut a bs).read b = if a ≤ b then ((bs[b - a]?).join).getD (m.read b) else m.read b := by
  induction bs generalizing m a with
  | nil => simp [Memory.writeOut]
  | cons c cs ih =>
    have step : ∀ m' : Memory, (∀ x, x ≠ a → m'.read x = m.read x) → m'.read a = c.getD (m.read a) →
        (Memory.writeOut m' (a + 1) cs).read b = if a ≤ b then (((c :: cs)[b - a]?).join).getD (m.read b) else m.read b := by
      intro m' hne heq
      rw [ih]
      by_cases hab : b = a
      · subst hab
        rw [if_neg (by omega), if_pos (Nat.le_refl _), heq]
        simp
      · by_cases hlt : a + 1 ≤ b
        · have he : b - a = (b - (a + 1)) + 1 := by omega
          rw [if_pos hlt, if_pos (by omega), hne b hab, he]
          simp
        · rw [if_neg hlt, if_neg (by omega), hne b hab]
    cases c with
    | none => rw [Memory.writeOut]; exact step m (fun _ _ => rfl) rfl
    | some v =>
      rw [Memory.writeOut]
      exact step (m.write a v) (fun x hx => by rw [Memory.read_write, if_neg hx]) (by rw [Memory.read_write, if_pos rfl]; rfl)

theorem Memory.read_writeOut_below (m : Memory) (a b : Nat) (bs : List OutByte) (h : b < a) :
    (m.writeOut a bs).read b = m.read b := by
  rw [Memory.read_writeOut, if_neg (by omega)]

theorem Memory.read_writeOut_above (m : Memory) (a b : Nat) (bs : List OutByte) (h : a + bs.length ≤ b) :
    (m.writeOut a bs).read b = m.read b := by
  rw [Memory.read_writeOut]
  split
  · rw [List.getElem?_eq_none (by omega)]; rfl
  · rfl

theorem Memory.length_bytes (m : Memory) (a n : Nat) : (m.bytes a n).length = n := by
  induction n generalizing a with
  | zero => rfl
  | succ n ih => simp [Memory.bytes, ih]

/-- Equal bytes give equal runs. -/
theorem Memory.bytes_congr (m k : Memory) (a n : Nat) (h : ∀ b, a ≤ b → b < a + n → m.read b = k.read b) : m.bytes a n = k.bytes a n := by
  induction n generalizing a with
  | zero => rfl
  | succ n ih =>
    rw [Memory.bytes, Memory.bytes, h a (Nat.le_refl _) (by omega), ih (a + 1) (fun b h1 h2 => h b (by omega) (by omega))]

/-! ## The canonical form -/

/-- Every listed address lies above a bound. -/
def Memory.above (a : Nat) (m : Memory) : Prop := ∀ c ∈ m, a < c.1

theorem Memory.wf_cons (a : Nat) (v : Byte) (m : Memory) :
    Memory.wf ((a, v) :: m) = true ↔ v ≠ 0 ∧ Memory.above a m ∧ Memory.wf m = true := by
  induction m generalizing a v with
  | nil => simp [Memory.wf, Memory.above]
  | cons c t ih =>
    obtain ⟨b, w⟩ := c
    constructor
    · intro h
      simp only [Memory.wf, Bool.and_eq_true, decide_eq_true_eq] at h
      obtain ⟨⟨hv, hab⟩, ht⟩ := h
      refine ⟨hv, ?_, ht⟩
      intro d hd
      rcases List.mem_cons.1 hd with rfl | hd
      · exact hab
      · exact Nat.lt_trans hab (((ih b w).1 ht).2.1 d hd)
    · rintro ⟨hv, hab, ht⟩
      simp only [Memory.wf, Bool.and_eq_true, decide_eq_true_eq]
      exact ⟨⟨hv, hab (b, w) (by simp)⟩, ht⟩

theorem Memory.above_insert (m : Memory) (a b : Nat) (v : Byte) (hba : b < a) (h : Memory.above b m) : Memory.above b (m.insert a v) := by
  induction m with
  | nil => intro c hc; simp [Memory.insert] at hc; subst hc; exact hba
  | cons d t ih =>
    obtain ⟨x, w⟩ := d
    have hx : b < x := h (x, w) (by simp)
    have ht : Memory.above b t := fun c hc => h c (by simp [hc])
    intro c hc
    simp only [Memory.insert] at hc
    split at hc
    · rcases List.mem_cons.1 hc with rfl | hc
      · exact hba
      · exact ht c hc
    · split at hc
      · rcases List.mem_cons.1 hc with rfl | hc
        · exact hba
        · rcases List.mem_cons.1 hc with rfl | hc
          · exact hx
          · exact ht c hc
      · rcases List.mem_cons.1 hc with rfl | hc
        · exact hx
        · exact ih ht c hc

theorem Memory.wf_insert (m : Memory) (a : Nat) (v : Byte) (hv : v ≠ 0) (h : m.wf = true) : (m.insert a v).wf = true := by
  induction m with
  | nil => exact (Memory.wf_cons a v []).2 ⟨hv, by simp [Memory.above], rfl⟩
  | cons d t ih =>
    obtain ⟨x, w⟩ := d
    obtain ⟨hw, hx, ht⟩ := (Memory.wf_cons x w t).1 h
    simp only [Memory.insert]
    split
    · rename_i e; subst e; exact (Memory.wf_cons a v t).2 ⟨hv, hx, ht⟩
    · split
      · rename_i hlt
        refine (Memory.wf_cons a v _).2 ⟨hv, ?_, h⟩
        intro c hc
        rcases List.mem_cons.1 hc with rfl | hc
        · exact hlt
        · exact Nat.lt_trans hlt (hx c hc)
      · exact (Memory.wf_cons x w _).2 ⟨hw, Memory.above_insert t a x v (by omega) hx, ih ht⟩

theorem Memory.wf_filter (m : Memory) (q : Host.Cell → Bool) (h : m.wf = true) : Memory.wf (m.filter q) = true := by
  induction m with
  | nil => rfl
  | cons d t ih =>
    obtain ⟨x, w⟩ := d
    obtain ⟨hw, hx, ht⟩ := (Memory.wf_cons x w t).1 h
    rw [List.filter_cons]
    split
    · exact (Memory.wf_cons x w _).2 ⟨hw, fun c hc => hx c (List.mem_of_mem_filter hc), ih ht⟩
    · exact ih ht

theorem Memory.wf_write (m : Memory) (a : Nat) (v : Byte) (h : m.wf = true) : (m.write a v).wf = true := by
  unfold Memory.write
  split
  · exact Memory.wf_filter m _ h
  · exact Memory.wf_insert m a v (by assumption) h

theorem Memory.wf_writeBytes (m : Memory) (a : Nat) (bs : List Byte) (h : m.wf = true) : (m.writeBytes a bs).wf = true := by
  induction bs generalizing m a with
  | nil => exact h
  | cons b bs ih => exact ih _ _ (Memory.wf_write m a b h)

theorem Memory.wf_writeOut (m : Memory) (a : Nat) (bs : List OutByte) (h : m.wf = true) : (m.writeOut a bs).wf = true := by
  induction bs generalizing m a with
  | nil => exact h
  | cons b bs ih =>
    cases b with
    | none => exact ih _ _ h
    | some v => exact ih _ _ (Memory.wf_write m a v h)

theorem Memory.wf_store (m : Memory) (stores : List HostStore) (h : m.wf = true) : (m.store stores).wf = true := by
  unfold Memory.store
  induction stores generalizing m with
  | nil => exact h
  | cons st sts ih => exact ih _ (Memory.wf_writeBytes m st.addr st.bytes h)

end Sys2Proof.Machine
end

