-- ==== Sys2Proof/Laws/State.lean ====
section
/-! SUPPORT. What each update of one field leaves in every field, each true by rfl, so that no proof unfolds a record update. -/

namespace Sys2Proof.Machine


/-! ## The whole state: the exchange unit -/

@[simp] theorem State.setExch_pending (g : Exchange → Exchange) (s : State) : (s.setExch g).pending = s.pending := rfl
@[simp] theorem State.setExch_mem (g : Exchange → Exchange) (s : State) : (s.setExch g).mem = s.mem := rfl
@[simp] theorem State.setExch_exch (g : Exchange → Exchange) (s : State) : (s.setExch g).exch = g s.exch := rfl
@[simp] theorem State.setExch_report (g : Exchange → Exchange) (s : State) : (s.setExch g).report = s.report := rfl
@[simp] theorem State.setExch_tod (g : Exchange → Exchange) (s : State) : (s.setExch g).tod = s.tod := rfl
@[simp] theorem State.setExch_timeUnset (g : Exchange → Exchange) (s : State) : (s.setExch g).timeUnset = s.timeUnset := rfl
@[simp] theorem State.setExch_net (g : Exchange → Exchange) (s : State) : (s.setExch g).net = s.net := rfl

/-! ## The whole state: the report unit -/

@[simp] theorem State.setReport_pending (g : ReportUnit → ReportUnit) (s : State) : (s.setReport g).pending = s.pending := rfl
@[simp] theorem State.setReport_mem (g : ReportUnit → ReportUnit) (s : State) : (s.setReport g).mem = s.mem := rfl
@[simp] theorem State.setReport_exch (g : ReportUnit → ReportUnit) (s : State) : (s.setReport g).exch = s.exch := rfl
@[simp] theorem State.setReport_report (g : ReportUnit → ReportUnit) (s : State) : (s.setReport g).report = g s.report := rfl
@[simp] theorem State.setReport_tod (g : ReportUnit → ReportUnit) (s : State) : (s.setReport g).tod = s.tod := rfl
@[simp] theorem State.setReport_timeUnset (g : ReportUnit → ReportUnit) (s : State) : (s.setReport g).timeUnset = s.timeUnset := rfl
@[simp] theorem State.setReport_net (g : ReportUnit → ReportUnit) (s : State) : (s.setReport g).net = s.net := rfl

/-! ## The whole state: the net -/

@[simp] theorem State.onNet_pending (g : Net → Net) (s : State) : (s.onNet g).pending = s.pending := rfl
@[simp] theorem State.onNet_mem (g : Net → Net) (s : State) : (s.onNet g).mem = s.mem := rfl
@[simp] theorem State.onNet_exch (g : Net → Net) (s : State) : (s.onNet g).exch = s.exch := rfl
@[simp] theorem State.onNet_report (g : Net → Net) (s : State) : (s.onNet g).report = s.report := rfl
@[simp] theorem State.onNet_tod (g : Net → Net) (s : State) : (s.onNet g).tod = s.tod := rfl
@[simp] theorem State.onNet_timeUnset (g : Net → Net) (s : State) : (s.onNet g).timeUnset = s.timeUnset := rfl
@[simp] theorem State.onNet_net (g : Net → Net) (s : State) : (s.onNet g).net = g s.net := rfl

/-! ## The whole state: host stores -/

@[simp] theorem State.store_pending (st : List HostStore) (s : State) : (s.store st).pending = s.pending := rfl
@[simp] theorem State.store_mem (st : List HostStore) (s : State) : (s.store st).mem = s.mem.store st := rfl
@[simp] theorem State.store_exch (st : List HostStore) (s : State) : (s.store st).exch = s.exch := rfl
@[simp] theorem State.store_report (st : List HostStore) (s : State) : (s.store st).report = s.report := rfl
@[simp] theorem State.store_tod (st : List HostStore) (s : State) : (s.store st).tod = s.tod := rfl
@[simp] theorem State.store_timeUnset (st : List HostStore) (s : State) : (s.store st).timeUnset = s.timeUnset := rfl
@[simp] theorem State.store_net (st : List HostStore) (s : State) : (s.store st).net = s.net := rfl

/-! ## The whole state: a cause latched -/

@[simp] theorem State.latch_pending (c : Cause) (s : State) : (s.latch c).pending = s.pending := rfl
@[simp] theorem State.latch_mem (c : Cause) (s : State) : (s.latch c).mem = s.mem := rfl
@[simp] theorem State.latch_report (c : Cause) (s : State) : (s.latch c).report = s.report := rfl
@[simp] theorem State.latch_tod (c : Cause) (s : State) : (s.latch c).tod = s.tod := rfl
@[simp] theorem State.latch_timeUnset (c : Cause) (s : State) : (s.latch c).timeUnset = s.timeUnset := rfl
@[simp] theorem State.latch_net (c : Cause) (s : State) : (s.latch c).net = s.net := rfl
@[simp] theorem State.latch_exch_xbase (c : Cause) (s : State) : (s.latch c).exch.xbase = s.exch.xbase := rfl
@[simp] theorem State.latch_exch_cause (c : Cause) (s : State) : (s.latch c).exch.cause = s.exch.cause ||| c.bit := rfl
@[simp] theorem State.latch_exch_causeen (c : Cause) (s : State) : (s.latch c).exch.causeen = s.exch.causeen := rfl
@[simp] theorem State.latch_exch_faultCode (c : Cause) (s : State) : (s.latch c).exch.faultCode = s.exch.faultCode := rfl
@[simp] theorem State.latch_exch_faultTable (c : Cause) (s : State) : (s.latch c).exch.faultTable = s.exch.faultTable := rfl
@[simp] theorem State.latch_exch_faultEntry (c : Cause) (s : State) : (s.latch c).exch.faultEntry = s.exch.faultEntry := rfl
@[simp] theorem State.latch_exch_base (c : Cause) (s : State) : (s.latch c).exch.base = s.exch.base := rfl
@[simp] theorem State.latch_exch_folioCount (c : Cause) (s : State) : (s.latch c).exch.folioCount = s.exch.folioCount := rfl
@[simp] theorem State.latch_exch_chainStart (c : Cause) (s : State) : (s.latch c).exch.chainStart = s.exch.chainStart := rfl
@[simp] theorem State.latch_exch_sweepInterval (c : Cause) (s : State) : (s.latch c).exch.sweepInterval = s.exch.sweepInterval := rfl
@[simp] theorem State.latch_exch_cursor (c : Cause) (s : State) : (s.latch c).exch.cursor = s.exch.cursor := rfl
@[simp] theorem State.latch_exch_stall (c : Cause) (s : State) : (s.latch c).exch.stall = s.exch.stall := rfl
@[simp] theorem State.latch_exch_sweep (c : Cause) (s : State) : (s.latch c).exch.sweep = s.exch.sweep := rfl
@[simp] theorem State.latch_exch_sweepOwed (c : Cause) (s : State) : (s.latch c).exch.sweepOwed = s.exch.sweepOwed := rfl
@[simp] theorem State.latch_exch_sweepTimer (c : Cause) (s : State) : (s.latch c).exch.sweepTimer = s.exch.sweepTimer := rfl
@[simp] theorem State.latch_exch_lent (c : Cause) (s : State) : (s.latch c).exch.lent = s.exch.lent := rfl
@[simp] theorem State.latch_exch_reachable (c : Cause) (s : State) : (s.latch c).exch.reachable = s.exch.reachable := rfl
@[simp] theorem State.latch_exch_startOp (c : Cause) (s : State) : (s.latch c).exch.startOp = s.exch.startOp := rfl

/-! ## The net: one table -/

@[simp] theorem Net.setZone_mode (i : Nat) (g : Zone → Zone) (n : Net) : (n.setZone i g).mode = n.mode := rfl
@[simp] theorem Net.setZone_now (i : Nat) (g : Zone → Zone) (n : Net) : (n.setZone i g).now = n.now := rfl
@[simp] theorem Net.setZone_valid (i : Nat) (g : Zone → Zone) (n : Net) : (n.setZone i g).valid = n.valid := rfl
@[simp] theorem Net.setZone_zones (i : Nat) (g : Zone → Zone) (n : Net) : (n.setZone i g).zones = n.zones.modify i g := rfl
@[simp] theorem Net.setZone_sources (i : Nat) (g : Zone → Zone) (n : Net) : (n.setZone i g).sources = n.sources := rfl
@[simp] theorem Net.setZone_valves (i : Nat) (g : Zone → Zone) (n : Net) : (n.setZone i g).valves = n.valves := rfl
@[simp] theorem Net.setZone_stations (i : Nat) (g : Zone → Zone) (n : Net) : (n.setZone i g).stations = n.stations := rfl
@[simp] theorem Net.setZone_points (i : Nat) (g : Zone → Zone) (n : Net) : (n.setZone i g).points = n.points := rfl
@[simp] theorem Net.setZone_lines (i : Nat) (g : Zone → Zone) (n : Net) : (n.setZone i g).lines = n.lines := rfl
@[simp] theorem Net.setZone_survey (i : Nat) (g : Zone → Zone) (n : Net) : (n.setZone i g).survey = n.survey := rfl
@[simp] theorem Net.setZone_plans (i : Nat) (g : Zone → Zone) (n : Net) : (n.setZone i g).plans = n.plans := rfl
@[simp] theorem Net.setZone_incidents (i : Nat) (g : Zone → Zone) (n : Net) : (n.setZone i g).incidents = n.incidents := rfl
@[simp] theorem Net.setZone_params (i : Nat) (g : Zone → Zone) (n : Net) : (n.setZone i g).params = n.params := rfl
@[simp] theorem Net.setZone_outages (i : Nat) (g : Zone → Zone) (n : Net) : (n.setZone i g).outages = n.outages := rfl
@[simp] theorem Net.setZone_outageSeq (i : Nat) (g : Zone → Zone) (n : Net) : (n.setZone i g).outageSeq = n.outageSeq := rfl
@[simp] theorem Net.setZone_marks (i : Nat) (g : Zone → Zone) (n : Net) : (n.setZone i g).marks = n.marks := rfl
@[simp] theorem Net.setSource_mode (i : Nat) (g : Source → Source) (n : Net) : (n.setSource i g).mode = n.mode := rfl
@[simp] theorem Net.setSource_now (i : Nat) (g : Source → Source) (n : Net) : (n.setSource i g).now = n.now := rfl
@[simp] theorem Net.setSource_valid (i : Nat) (g : Source → Source) (n : Net) : (n.setSource i g).valid = n.valid := rfl
@[simp] theorem Net.setSource_zones (i : Nat) (g : Source → Source) (n : Net) : (n.setSource i g).zones = n.zones := rfl
@[simp] theorem Net.setSource_sources (i : Nat) (g : Source → Source) (n : Net) : (n.setSource i g).sources = n.sources.modify i g := rfl
@[simp] theorem Net.setSource_valves (i : Nat) (g : Source → Source) (n : Net) : (n.setSource i g).valves = n.valves := rfl
@[simp] theorem Net.setSource_stations (i : Nat) (g : Source → Source) (n : Net) : (n.setSource i g).stations = n.stations := rfl
@[simp] theorem Net.setSource_points (i : Nat) (g : Source → Source) (n : Net) : (n.setSource i g).points = n.points := rfl
@[simp] theorem Net.setSource_lines (i : Nat) (g : Source → Source) (n : Net) : (n.setSource i g).lines = n.lines := rfl
@[simp] theorem Net.setSource_survey (i : Nat) (g : Source → Source) (n : Net) : (n.setSource i g).survey = n.survey := rfl
@[simp] theorem Net.setSource_plans (i : Nat) (g : Source → Source) (n : Net) : (n.setSource i g).plans = n.plans := rfl
@[simp] theorem Net.setSource_incidents (i : Nat) (g : Source → Source) (n : Net) : (n.setSource i g).incidents = n.incidents := rfl
@[simp] theorem Net.setSource_params (i : Nat) (g : Source → Source) (n : Net) : (n.setSource i g).params = n.params := rfl
@[simp] theorem Net.setSource_outages (i : Nat) (g : Source → Source) (n : Net) : (n.setSource i g).outages = n.outages := rfl
@[simp] theorem Net.setSource_outageSeq (i : Nat) (g : Source → Source) (n : Net) : (n.setSource i g).outageSeq = n.outageSeq := rfl
@[simp] theorem Net.setSource_marks (i : Nat) (g : Source → Source) (n : Net) : (n.setSource i g).marks = n.marks := rfl
@[simp] theorem Net.setValve_mode (i : Nat) (g : Valve → Valve) (n : Net) : (n.setValve i g).mode = n.mode := rfl
@[simp] theorem Net.setValve_now (i : Nat) (g : Valve → Valve) (n : Net) : (n.setValve i g).now = n.now := rfl
@[simp] theorem Net.setValve_valid (i : Nat) (g : Valve → Valve) (n : Net) : (n.setValve i g).valid = n.valid := rfl
@[simp] theorem Net.setValve_zones (i : Nat) (g : Valve → Valve) (n : Net) : (n.setValve i g).zones = n.zones := rfl
@[simp] theorem Net.setValve_sources (i : Nat) (g : Valve → Valve) (n : Net) : (n.setValve i g).sources = n.sources := rfl
@[simp] theorem Net.setValve_valves (i : Nat) (g : Valve → Valve) (n : Net) : (n.setValve i g).valves = n.valves.modify i g := rfl
@[simp] theorem Net.setValve_stations (i : Nat) (g : Valve → Valve) (n : Net) : (n.setValve i g).stations = n.stations := rfl
@[simp] theorem Net.setValve_points (i : Nat) (g : Valve → Valve) (n : Net) : (n.setValve i g).points = n.points := rfl
@[simp] theorem Net.setValve_lines (i : Nat) (g : Valve → Valve) (n : Net) : (n.setValve i g).lines = n.lines := rfl
@[simp] theorem Net.setValve_survey (i : Nat) (g : Valve → Valve) (n : Net) : (n.setValve i g).survey = n.survey := rfl
@[simp] theorem Net.setValve_plans (i : Nat) (g : Valve → Valve) (n : Net) : (n.setValve i g).plans = n.plans := rfl
@[simp] theorem Net.setValve_incidents (i : Nat) (g : Valve → Valve) (n : Net) : (n.setValve i g).incidents = n.incidents := rfl
@[simp] theorem Net.setValve_params (i : Nat) (g : Valve → Valve) (n : Net) : (n.setValve i g).params = n.params := rfl
@[simp] theorem Net.setValve_outages (i : Nat) (g : Valve → Valve) (n : Net) : (n.setValve i g).outages = n.outages := rfl
@[simp] theorem Net.setValve_outageSeq (i : Nat) (g : Valve → Valve) (n : Net) : (n.setValve i g).outageSeq = n.outageSeq := rfl
@[simp] theorem Net.setValve_marks (i : Nat) (g : Valve → Valve) (n : Net) : (n.setValve i g).marks = n.marks := rfl
@[simp] theorem Net.setStation_mode (i : Nat) (g : Station → Station) (n : Net) : (n.setStation i g).mode = n.mode := rfl
@[simp] theorem Net.setStation_now (i : Nat) (g : Station → Station) (n : Net) : (n.setStation i g).now = n.now := rfl
@[simp] theorem Net.setStation_valid (i : Nat) (g : Station → Station) (n : Net) : (n.setStation i g).valid = n.valid := rfl
@[simp] theorem Net.setStation_zones (i : Nat) (g : Station → Station) (n : Net) : (n.setStation i g).zones = n.zones := rfl
@[simp] theorem Net.setStation_sources (i : Nat) (g : Station → Station) (n : Net) : (n.setStation i g).sources = n.sources := rfl
@[simp] theorem Net.setStation_valves (i : Nat) (g : Station → Station) (n : Net) : (n.setStation i g).valves = n.valves := rfl
@[simp] theorem Net.setStation_stations (i : Nat) (g : Station → Station) (n : Net) : (n.setStation i g).stations = n.stations.modify i g := rfl
@[simp] theorem Net.setStation_points (i : Nat) (g : Station → Station) (n : Net) : (n.setStation i g).points = n.points := rfl
@[simp] theorem Net.setStation_lines (i : Nat) (g : Station → Station) (n : Net) : (n.setStation i g).lines = n.lines := rfl
@[simp] theorem Net.setStation_survey (i : Nat) (g : Station → Station) (n : Net) : (n.setStation i g).survey = n.survey := rfl
@[simp] theorem Net.setStation_plans (i : Nat) (g : Station → Station) (n : Net) : (n.setStation i g).plans = n.plans := rfl
@[simp] theorem Net.setStation_incidents (i : Nat) (g : Station → Station) (n : Net) : (n.setStation i g).incidents = n.incidents := rfl
@[simp] theorem Net.setStation_params (i : Nat) (g : Station → Station) (n : Net) : (n.setStation i g).params = n.params := rfl
@[simp] theorem Net.setStation_outages (i : Nat) (g : Station → Station) (n : Net) : (n.setStation i g).outages = n.outages := rfl
@[simp] theorem Net.setStation_outageSeq (i : Nat) (g : Station → Station) (n : Net) : (n.setStation i g).outageSeq = n.outageSeq := rfl
@[simp] theorem Net.setStation_marks (i : Nat) (g : Station → Station) (n : Net) : (n.setStation i g).marks = n.marks := rfl
@[simp] theorem Net.setPoint_mode (i : Nat) (g : Point → Point) (n : Net) : (n.setPoint i g).mode = n.mode := rfl
@[simp] theorem Net.setPoint_now (i : Nat) (g : Point → Point) (n : Net) : (n.setPoint i g).now = n.now := rfl
@[simp] theorem Net.setPoint_valid (i : Nat) (g : Point → Point) (n : Net) : (n.setPoint i g).valid = n.valid := rfl
@[simp] theorem Net.setPoint_zones (i : Nat) (g : Point → Point) (n : Net) : (n.setPoint i g).zones = n.zones := rfl
@[simp] theorem Net.setPoint_sources (i : Nat) (g : Point → Point) (n : Net) : (n.setPoint i g).sources = n.sources := rfl
@[simp] theorem Net.setPoint_valves (i : Nat) (g : Point → Point) (n : Net) : (n.setPoint i g).valves = n.valves := rfl
@[simp] theorem Net.setPoint_stations (i : Nat) (g : Point → Point) (n : Net) : (n.setPoint i g).stations = n.stations := rfl
@[simp] theorem Net.setPoint_points (i : Nat) (g : Point → Point) (n : Net) : (n.setPoint i g).points = n.points.modify i g := rfl
@[simp] theorem Net.setPoint_lines (i : Nat) (g : Point → Point) (n : Net) : (n.setPoint i g).lines = n.lines := rfl
@[simp] theorem Net.setPoint_survey (i : Nat) (g : Point → Point) (n : Net) : (n.setPoint i g).survey = n.survey := rfl
@[simp] theorem Net.setPoint_plans (i : Nat) (g : Point → Point) (n : Net) : (n.setPoint i g).plans = n.plans := rfl
@[simp] theorem Net.setPoint_incidents (i : Nat) (g : Point → Point) (n : Net) : (n.setPoint i g).incidents = n.incidents := rfl
@[simp] theorem Net.setPoint_params (i : Nat) (g : Point → Point) (n : Net) : (n.setPoint i g).params = n.params := rfl
@[simp] theorem Net.setPoint_outages (i : Nat) (g : Point → Point) (n : Net) : (n.setPoint i g).outages = n.outages := rfl
@[simp] theorem Net.setPoint_outageSeq (i : Nat) (g : Point → Point) (n : Net) : (n.setPoint i g).outageSeq = n.outageSeq := rfl
@[simp] theorem Net.setPoint_marks (i : Nat) (g : Point → Point) (n : Net) : (n.setPoint i g).marks = n.marks := rfl
@[simp] theorem Net.setLine_mode (i : Fin 4) (g : Line → Line) (n : Net) : (n.setLine i g).mode = n.mode := rfl
@[simp] theorem Net.setLine_now (i : Fin 4) (g : Line → Line) (n : Net) : (n.setLine i g).now = n.now := rfl
@[simp] theorem Net.setLine_valid (i : Fin 4) (g : Line → Line) (n : Net) : (n.setLine i g).valid = n.valid := rfl
@[simp] theorem Net.setLine_zones (i : Fin 4) (g : Line → Line) (n : Net) : (n.setLine i g).zones = n.zones := rfl
@[simp] theorem Net.setLine_sources (i : Fin 4) (g : Line → Line) (n : Net) : (n.setLine i g).sources = n.sources := rfl
@[simp] theorem Net.setLine_valves (i : Fin 4) (g : Line → Line) (n : Net) : (n.setLine i g).valves = n.valves := rfl
@[simp] theorem Net.setLine_stations (i : Fin 4) (g : Line → Line) (n : Net) : (n.setLine i g).stations = n.stations := rfl
@[simp] theorem Net.setLine_points (i : Fin 4) (g : Line → Line) (n : Net) : (n.setLine i g).points = n.points := rfl
@[simp] theorem Net.setLine_lines (i : Fin 4) (g : Line → Line) (n : Net) : (n.setLine i g).lines = n.lines.set i (g (n.lines.get i)) := rfl
@[simp] theorem Net.setLine_survey (i : Fin 4) (g : Line → Line) (n : Net) : (n.setLine i g).survey = n.survey := rfl
@[simp] theorem Net.setLine_plans (i : Fin 4) (g : Line → Line) (n : Net) : (n.setLine i g).plans = n.plans := rfl
@[simp] theorem Net.setLine_incidents (i : Fin 4) (g : Line → Line) (n : Net) : (n.setLine i g).incidents = n.incidents := rfl
@[simp] theorem Net.setLine_params (i : Fin 4) (g : Line → Line) (n : Net) : (n.setLine i g).params = n.params := rfl
@[simp] theorem Net.setLine_outages (i : Fin 4) (g : Line → Line) (n : Net) : (n.setLine i g).outages = n.outages := rfl
@[simp] theorem Net.setLine_outageSeq (i : Fin 4) (g : Line → Line) (n : Net) : (n.setLine i g).outageSeq = n.outageSeq := rfl
@[simp] theorem Net.setLine_marks (i : Fin 4) (g : Line → Line) (n : Net) : (n.setLine i g).marks = n.marks := rfl
@[simp] theorem Net.setPlan_mode (i : Nat) (g : Plan → Plan) (n : Net) : (n.setPlan i g).mode = n.mode := rfl
@[simp] theorem Net.setPlan_now (i : Nat) (g : Plan → Plan) (n : Net) : (n.setPlan i g).now = n.now := rfl
@[simp] theorem Net.setPlan_valid (i : Nat) (g : Plan → Plan) (n : Net) : (n.setPlan i g).valid = n.valid := rfl
@[simp] theorem Net.setPlan_zones (i : Nat) (g : Plan → Plan) (n : Net) : (n.setPlan i g).zones = n.zones := rfl
@[simp] theorem Net.setPlan_sources (i : Nat) (g : Plan → Plan) (n : Net) : (n.setPlan i g).sources = n.sources := rfl
@[simp] theorem Net.setPlan_valves (i : Nat) (g : Plan → Plan) (n : Net) : (n.setPlan i g).valves = n.valves := rfl
@[simp] theorem Net.setPlan_stations (i : Nat) (g : Plan → Plan) (n : Net) : (n.setPlan i g).stations = n.stations := rfl
@[simp] theorem Net.setPlan_points (i : Nat) (g : Plan → Plan) (n : Net) : (n.setPlan i g).points = n.points := rfl
@[simp] theorem Net.setPlan_lines (i : Nat) (g : Plan → Plan) (n : Net) : (n.setPlan i g).lines = n.lines := rfl
@[simp] theorem Net.setPlan_survey (i : Nat) (g : Plan → Plan) (n : Net) : (n.setPlan i g).survey = n.survey := rfl
@[simp] theorem Net.setPlan_plans (i : Nat) (g : Plan → Plan) (n : Net) : (n.setPlan i g).plans = n.plans.modify i (Slot.update g) := rfl
@[simp] theorem Net.setPlan_incidents (i : Nat) (g : Plan → Plan) (n : Net) : (n.setPlan i g).incidents = n.incidents := rfl
@[simp] theorem Net.setPlan_params (i : Nat) (g : Plan → Plan) (n : Net) : (n.setPlan i g).params = n.params := rfl
@[simp] theorem Net.setPlan_outages (i : Nat) (g : Plan → Plan) (n : Net) : (n.setPlan i g).outages = n.outages := rfl
@[simp] theorem Net.setPlan_outageSeq (i : Nat) (g : Plan → Plan) (n : Net) : (n.setPlan i g).outageSeq = n.outageSeq := rfl
@[simp] theorem Net.setPlan_marks (i : Nat) (g : Plan → Plan) (n : Net) : (n.setPlan i g).marks = n.marks := rfl
@[simp] theorem Net.setIncident_mode (i : Nat) (g : Incident → Incident) (n : Net) : (n.setIncident i g).mode = n.mode := rfl
@[simp] theorem Net.setIncident_now (i : Nat) (g : Incident → Incident) (n : Net) : (n.setIncident i g).now = n.now := rfl
@[simp] theorem Net.setIncident_valid (i : Nat) (g : Incident → Incident) (n : Net) : (n.setIncident i g).valid = n.valid := rfl
@[simp] theorem Net.setIncident_zones (i : Nat) (g : Incident → Incident) (n : Net) : (n.setIncident i g).zones = n.zones := rfl
@[simp] theorem Net.setIncident_sources (i : Nat) (g : Incident → Incident) (n : Net) : (n.setIncident i g).sources = n.sources := rfl
@[simp] theorem Net.setIncident_valves (i : Nat) (g : Incident → Incident) (n : Net) : (n.setIncident i g).valves = n.valves := rfl
@[simp] theorem Net.setIncident_stations (i : Nat) (g : Incident → Incident) (n : Net) : (n.setIncident i g).stations = n.stations := rfl
@[simp] theorem Net.setIncident_points (i : Nat) (g : Incident → Incident) (n : Net) : (n.setIncident i g).points = n.points := rfl
@[simp] theorem Net.setIncident_lines (i : Nat) (g : Incident → Incident) (n : Net) : (n.setIncident i g).lines = n.lines := rfl
@[simp] theorem Net.setIncident_survey (i : Nat) (g : Incident → Incident) (n : Net) : (n.setIncident i g).survey = n.survey := rfl
@[simp] theorem Net.setIncident_plans (i : Nat) (g : Incident → Incident) (n : Net) : (n.setIncident i g).plans = n.plans := rfl
@[simp] theorem Net.setIncident_incidents (i : Nat) (g : Incident → Incident) (n : Net) : (n.setIncident i g).incidents = n.incidents.modify i (Slot.update g) := rfl
@[simp] theorem Net.setIncident_params (i : Nat) (g : Incident → Incident) (n : Net) : (n.setIncident i g).params = n.params := rfl
@[simp] theorem Net.setIncident_outages (i : Nat) (g : Incident → Incident) (n : Net) : (n.setIncident i g).outages = n.outages := rfl
@[simp] theorem Net.setIncident_outageSeq (i : Nat) (g : Incident → Incident) (n : Net) : (n.setIncident i g).outageSeq = n.outageSeq := rfl
@[simp] theorem Net.setIncident_marks (i : Nat) (g : Incident → Incident) (n : Net) : (n.setIncident i g).marks = n.marks := rfl
@[simp] theorem Net.setOutage_mode (i : Nat) (g : Outage → Outage) (n : Net) : (n.setOutage i g).mode = n.mode := rfl
@[simp] theorem Net.setOutage_now (i : Nat) (g : Outage → Outage) (n : Net) : (n.setOutage i g).now = n.now := rfl
@[simp] theorem Net.setOutage_valid (i : Nat) (g : Outage → Outage) (n : Net) : (n.setOutage i g).valid = n.valid := rfl
@[simp] theorem Net.setOutage_zones (i : Nat) (g : Outage → Outage) (n : Net) : (n.setOutage i g).zones = n.zones := rfl
@[simp] theorem Net.setOutage_sources (i : Nat) (g : Outage → Outage) (n : Net) : (n.setOutage i g).sources = n.sources := rfl
@[simp] theorem Net.setOutage_valves (i : Nat) (g : Outage → Outage) (n : Net) : (n.setOutage i g).valves = n.valves := rfl
@[simp] theorem Net.setOutage_stations (i : Nat) (g : Outage → Outage) (n : Net) : (n.setOutage i g).stations = n.stations := rfl
@[simp] theorem Net.setOutage_points (i : Nat) (g : Outage → Outage) (n : Net) : (n.setOutage i g).points = n.points := rfl
@[simp] theorem Net.setOutage_lines (i : Nat) (g : Outage → Outage) (n : Net) : (n.setOutage i g).lines = n.lines := rfl
@[simp] theorem Net.setOutage_survey (i : Nat) (g : Outage → Outage) (n : Net) : (n.setOutage i g).survey = n.survey := rfl
@[simp] theorem Net.setOutage_plans (i : Nat) (g : Outage → Outage) (n : Net) : (n.setOutage i g).plans = n.plans := rfl
@[simp] theorem Net.setOutage_incidents (i : Nat) (g : Outage → Outage) (n : Net) : (n.setOutage i g).incidents = n.incidents := rfl
@[simp] theorem Net.setOutage_params (i : Nat) (g : Outage → Outage) (n : Net) : (n.setOutage i g).params = n.params := rfl
@[simp] theorem Net.setOutage_outages (i : Nat) (g : Outage → Outage) (n : Net) : (n.setOutage i g).outages = n.outages.modify i (Slot.update g) := rfl
@[simp] theorem Net.setOutage_outageSeq (i : Nat) (g : Outage → Outage) (n : Net) : (n.setOutage i g).outageSeq = n.outageSeq := rfl
@[simp] theorem Net.setOutage_marks (i : Nat) (g : Outage → Outage) (n : Net) : (n.setOutage i g).marks = n.marks := rfl

/-! ## The net: the survey engine -/

@[simp] theorem Net.setSurvey_mode (g : Survey → Survey) (n : Net) : (n.setSurvey g).mode = n.mode := rfl
@[simp] theorem Net.setSurvey_now (g : Survey → Survey) (n : Net) : (n.setSurvey g).now = n.now := rfl
@[simp] theorem Net.setSurvey_valid (g : Survey → Survey) (n : Net) : (n.setSurvey g).valid = n.valid := rfl
@[simp] theorem Net.setSurvey_zones (g : Survey → Survey) (n : Net) : (n.setSurvey g).zones = n.zones := rfl
@[simp] theorem Net.setSurvey_sources (g : Survey → Survey) (n : Net) : (n.setSurvey g).sources = n.sources := rfl
@[simp] theorem Net.setSurvey_valves (g : Survey → Survey) (n : Net) : (n.setSurvey g).valves = n.valves := rfl
@[simp] theorem Net.setSurvey_stations (g : Survey → Survey) (n : Net) : (n.setSurvey g).stations = n.stations := rfl
@[simp] theorem Net.setSurvey_points (g : Survey → Survey) (n : Net) : (n.setSurvey g).points = n.points := rfl
@[simp] theorem Net.setSurvey_lines (g : Survey → Survey) (n : Net) : (n.setSurvey g).lines = n.lines := rfl
@[simp] theorem Net.setSurvey_survey (g : Survey → Survey) (n : Net) : (n.setSurvey g).survey = g n.survey := rfl
@[simp] theorem Net.setSurvey_plans (g : Survey → Survey) (n : Net) : (n.setSurvey g).plans = n.plans := rfl
@[simp] theorem Net.setSurvey_incidents (g : Survey → Survey) (n : Net) : (n.setSurvey g).incidents = n.incidents := rfl
@[simp] theorem Net.setSurvey_params (g : Survey → Survey) (n : Net) : (n.setSurvey g).params = n.params := rfl
@[simp] theorem Net.setSurvey_outages (g : Survey → Survey) (n : Net) : (n.setSurvey g).outages = n.outages := rfl
@[simp] theorem Net.setSurvey_outageSeq (g : Survey → Survey) (n : Net) : (n.setSurvey g).outageSeq = n.outageSeq := rfl
@[simp] theorem Net.setSurvey_marks (g : Survey → Survey) (n : Net) : (n.setSurvey g).marks = n.marks := rfl

/-! ## The net: marks -/

@[simp] theorem Net.mark_mode (k : MarkKind) (r : RecordName) (n : Net) : (n.mark k r).mode = n.mode := rfl
@[simp] theorem Net.mark_now (k : MarkKind) (r : RecordName) (n : Net) : (n.mark k r).now = n.now := rfl
@[simp] theorem Net.mark_valid (k : MarkKind) (r : RecordName) (n : Net) : (n.mark k r).valid = n.valid := rfl
@[simp] theorem Net.mark_zones (k : MarkKind) (r : RecordName) (n : Net) : (n.mark k r).zones = n.zones := rfl
@[simp] theorem Net.mark_sources (k : MarkKind) (r : RecordName) (n : Net) : (n.mark k r).sources = n.sources := rfl
@[simp] theorem Net.mark_valves (k : MarkKind) (r : RecordName) (n : Net) : (n.mark k r).valves = n.valves := rfl
@[simp] theorem Net.mark_stations (k : MarkKind) (r : RecordName) (n : Net) : (n.mark k r).stations = n.stations := rfl
@[simp] theorem Net.mark_points (k : MarkKind) (r : RecordName) (n : Net) : (n.mark k r).points = n.points := rfl
@[simp] theorem Net.mark_lines (k : MarkKind) (r : RecordName) (n : Net) : (n.mark k r).lines = n.lines := rfl
@[simp] theorem Net.mark_survey (k : MarkKind) (r : RecordName) (n : Net) : (n.mark k r).survey = n.survey := rfl
@[simp] theorem Net.mark_plans (k : MarkKind) (r : RecordName) (n : Net) : (n.mark k r).plans = n.plans := rfl
@[simp] theorem Net.mark_incidents (k : MarkKind) (r : RecordName) (n : Net) : (n.mark k r).incidents = n.incidents := rfl
@[simp] theorem Net.mark_params (k : MarkKind) (r : RecordName) (n : Net) : (n.mark k r).params = n.params := rfl
@[simp] theorem Net.mark_outages (k : MarkKind) (r : RecordName) (n : Net) : (n.mark k r).outages = n.outages := rfl
@[simp] theorem Net.mark_outageSeq (k : MarkKind) (r : RecordName) (n : Net) : (n.mark k r).outageSeq = n.outageSeq := rfl
@[simp] theorem Net.mark_marks (k : MarkKind) (r : RecordName) (n : Net) : (n.mark k r).marks = n.marks.add k r := rfl
@[simp] theorem Net.markIf_mode (c : Bool) (r : RecordName) (n : Net) : (n.markIf c r).mode = n.mode := by cases c <;> rfl
@[simp] theorem Net.markIf_now (c : Bool) (r : RecordName) (n : Net) : (n.markIf c r).now = n.now := by cases c <;> rfl
@[simp] theorem Net.markIf_valid (c : Bool) (r : RecordName) (n : Net) : (n.markIf c r).valid = n.valid := by cases c <;> rfl
@[simp] theorem Net.markIf_zones (c : Bool) (r : RecordName) (n : Net) : (n.markIf c r).zones = n.zones := by cases c <;> rfl
@[simp] theorem Net.markIf_sources (c : Bool) (r : RecordName) (n : Net) : (n.markIf c r).sources = n.sources := by cases c <;> rfl
@[simp] theorem Net.markIf_valves (c : Bool) (r : RecordName) (n : Net) : (n.markIf c r).valves = n.valves := by cases c <;> rfl
@[simp] theorem Net.markIf_stations (c : Bool) (r : RecordName) (n : Net) : (n.markIf c r).stations = n.stations := by cases c <;> rfl
@[simp] theorem Net.markIf_points (c : Bool) (r : RecordName) (n : Net) : (n.markIf c r).points = n.points := by cases c <;> rfl
@[simp] theorem Net.markIf_lines (c : Bool) (r : RecordName) (n : Net) : (n.markIf c r).lines = n.lines := by cases c <;> rfl
@[simp] theorem Net.markIf_survey (c : Bool) (r : RecordName) (n : Net) : (n.markIf c r).survey = n.survey := by cases c <;> rfl
@[simp] theorem Net.markIf_plans (c : Bool) (r : RecordName) (n : Net) : (n.markIf c r).plans = n.plans := by cases c <;> rfl
@[simp] theorem Net.markIf_incidents (c : Bool) (r : RecordName) (n : Net) : (n.markIf c r).incidents = n.incidents := by cases c <;> rfl
@[simp] theorem Net.markIf_params (c : Bool) (r : RecordName) (n : Net) : (n.markIf c r).params = n.params := by cases c <;> rfl
@[simp] theorem Net.markIf_outages (c : Bool) (r : RecordName) (n : Net) : (n.markIf c r).outages = n.outages := by cases c <;> rfl
@[simp] theorem Net.markIf_outageSeq (c : Bool) (r : RecordName) (n : Net) : (n.markIf c r).outageSeq = n.outageSeq := by cases c <;> rfl
@[simp] theorem Net.markIf_marks (c : Bool) (r : RecordName) (n : Net) : (n.markIf c r).marks = if c then n.marks.add .ordinary r else n.marks := by cases c <;> rfl

/-! ## The four lines -/

@[simp] theorem Quad.get_set_self {α : Type} (q : Quad α) (l : Fin 4) (x : α) : (q.set l x).get l = x := by
  fin_cases l <;> rfl

theorem Quad.get_set_other {α : Type} (q : Quad α) (l m : Fin 4) (x : α) (h : m ≠ l) : (q.set l x).get m = q.get m := by
  fin_cases l <;> fin_cases m <;> first | rfl | exact absurd rfl h


/-! ## Bits of the causes -/

theorem Cause.bit_eq (c : Cause) :
    c.bit = match c with
      | .answer => 1
      | .return_ => 2
      | .urgent => 4
      | .starved => 8
      | .fault => 16
      | .halted => 32 := by
  cases c <;> rfl

/-- A cause just latched reads as latched. -/
theorem State.latched_latch (c : Cause) (s : State) : (s.latch c).latched c = true := by
  have h : ∀ x b : Word, b ≠ 0 → (x ||| b) &&& b ≠ 0 := by
    intro x b hb e
    apply hb
    have : (x ||| b) &&& b = b := by
      ext i
      simp only [BitVec.getElem_and, BitVec.getElem_or]
      cases x[i] <;> cases b[i] <;> rfl
    rw [← this, e]
  unfold State.latched
  rw [decide_eq_true_eq]
  exact h _ _ (by cases c <;> decide)


end Sys2Proof.Machine
end

