-- ==== Sys2Proof/Laws/Frame.lean ====
section
/-! SUPPORT. What no operation of the net changes: mode, run clock, table validity and parameters stand; marks stay one a record; outage
counts agree; and, where `wz` says so, every zone keeps its fed-state, supply state and outage link. -/

set_option linter.unusedTactic false
set_option linter.unreachableTactic false

namespace Sys2Proof.Machine

/-- The fields of a zone that only a survey completion, a RESTORE and a RELIGHT change. -/
def Zone.ground (z : Zone) : FedState × Supply × Option Ref := (z.fed, z.supply, z.outage)

/-- What stands between two nets; `wz` adds the zones. -/
structure Net.Frame (wz : Bool) (a b : Net) : Prop where
  mode : b.mode = a.mode
  now : b.now = a.now
  valid : b.valid = a.valid
  params : b.params = a.params
  marks : a.marks.ok = true → b.marks.ok = true
  outages : a.outagesAgree = true → b.outagesAgree = true
  zones : wz = true → b.zones.map Zone.ground = a.zones.map Zone.ground
  count : b.zones.length = a.zones.length
  resumes : a.resumesOk = true → b.resumesOk = true

theorem Net.Frame.rfl {wz : Bool} {a : Net} : Net.Frame wz a a :=
  ⟨Eq.refl _, Eq.refl _, Eq.refl _, Eq.refl _, id, id, fun _ => Eq.refl _, Eq.refl _, id⟩

theorem Net.Frame.trans {wz : Bool} {a b c : Net} (h : Net.Frame wz a b) (k : Net.Frame wz b c) : Net.Frame wz a c :=
  ⟨k.mode.trans h.mode, k.now.trans h.now, k.valid.trans h.valid, k.params.trans h.params, fun x => k.marks (h.marks x),
    fun x => k.outages (h.outages x), fun e => (k.zones e).trans (h.zones e), k.count.trans h.count, fun x => k.resumes (h.resumes x)⟩

/-- A frame with the zones is one without. -/
theorem Net.Frame.weaken {wz : Bool} {a b : Net} (h : Net.Frame true a b) : Net.Frame wz a b :=
  ⟨h.mode, h.now, h.valid, h.params, h.marks, h.outages, fun _ => h.zones (Eq.refl _), h.count, h.resumes⟩

/-- A net that differs from a framed one in other fields only. -/
theorem Net.Frame.same {wz : Bool} {a m b : Net} (h : Net.Frame wz a m) (h1 : b.mode = m.mode) (h2 : b.now = m.now) (h3 : b.valid = m.valid)
    (h4 : b.params = m.params) (h5 : b.marks = m.marks) (h6 : b.outages = m.outages) (h7 : b.zones = m.zones)
    (h8 : b.stations = m.stations) : Net.Frame wz a b := by
  refine ⟨h1.trans h.mode, h2.trans h.now, h3.trans h.valid, h4.trans h.params, ?_, ?_, ?_, ?_, ?_⟩
  · rw [h5]; exact h.marks
  · unfold Net.outagesAgree; rw [h6]; exact h.outages
  · rw [h7]; exact h.zones
  · rw [h7]; exact h.count
  · unfold Net.resumesOk; rw [h8]; exact h.resumes

/-! ## Mark lists -/

theorem Marks.ok_iff (m : Marks) : m.ok = true ↔ (m.urgent ++ m.ordinary).Nodup := by
  unfold Marks.ok; exact decide_eq_true_iff

theorem Marks.ok_add (m : Marks) (k : MarkKind) (r : RecordName) (h : m.ok = true) : (m.add k r).ok = true := by
  rw [Marks.ok_iff, List.nodup_append'] at h
  rw [Marks.ok_iff, List.nodup_append']
  obtain ⟨hu, ho, hd⟩ := h
  cases k with
  | urgent =>
    simp only [Marks.add]
    split
    · exact ⟨hu, ho, hd⟩
    · rename_i hr
      refine ⟨?_, ho.filter _, ?_⟩
      · rw [List.nodup_append']
        exact ⟨hu, List.nodup_singleton r, fun x hx hy => hr (by rw [← List.mem_singleton.1 hy]; exact hx)⟩
      · intro x hx hy
        obtain ⟨hy1, hy2⟩ := List.mem_filter.1 hy
        rcases List.mem_append.1 hx with hx | hx
        · exact hd hx hy1
        · exact absurd (List.mem_singleton.1 hx) (by simpa using hy2)
  | ordinary =>
    simp only [Marks.add]
    split
    · exact ⟨hu, ho, hd⟩
    · rename_i hr
      rw [not_or] at hr
      refine ⟨hu, ?_, ?_⟩
      · rw [List.nodup_append']
        exact ⟨ho, List.nodup_singleton r, fun x hx hy => hr.2 (by rw [← List.mem_singleton.1 hy]; exact hx)⟩
      · intro x hx hy
        rcases List.mem_append.1 hy with hy | hy
        · exact hd hx hy
        · exact hr.1 (by rw [← List.mem_singleton.1 hy]; exact hx)

theorem Marks.ok_remove (m : Marks) (r : RecordName) (h : m.ok = true) : (m.remove r).ok = true := by
  rw [Marks.ok_iff] at h ⊢
  have : (m.remove r).urgent ++ (m.remove r).ordinary = (m.urgent ++ m.ordinary).filter (fun x => x ≠ r) := by
    simp only [Marks.remove, List.filter_append]
  rw [this]
  exact h.filter _

/-! ## Setters -/

section
variable {wz : Bool} {a n : Net}

theorem Net.mark_frame {k : MarkKind} {r : RecordName} (h : Net.Frame wz a n) : Net.Frame wz a (n.mark k r) :=
  ⟨h.mode, h.now, h.valid, h.params, fun x => Marks.ok_add _ k r (h.marks x), h.outages, h.zones, h.count, h.resumes⟩

theorem Net.markIf_frame {c : Bool} {r : RecordName} (h : Net.Frame wz a n) : Net.Frame wz a (n.markIf c r) := by
  unfold Net.markIf; split
  · exact Net.mark_frame h
  · exact h

theorem Net.setSource_frame {i : Nat} {f : Source → Source} (h : Net.Frame wz a n) : Net.Frame wz a (n.setSource i f) :=
  h.same rfl rfl rfl rfl rfl rfl rfl rfl
theorem Net.setValve_frame {i : Nat} {f : Valve → Valve} (h : Net.Frame wz a n) : Net.Frame wz a (n.setValve i f) :=
  h.same rfl rfl rfl rfl rfl rfl rfl rfl
/-- R42: an update of a station keeps its resume status, or sets it to UNKNOWN or ONLINE. -/
def Station.keepsResume (f : Station → Station) : Prop :=
  ∀ x, (x.resume = .unknown ∨ x.resume = .online) → ((f x).resume = .unknown ∨ (f x).resume = .online)

theorem Net.setStation_frame {i : Nat} {f : Station → Station} (hf : Station.keepsResume f) (h : Net.Frame wz a n) :
    Net.Frame wz a (n.setStation i f) := by
  refine ⟨h.mode, h.now, h.valid, h.params, h.marks, h.outages, h.zones, h.count, fun k => ?_⟩
  have k := h.resumes k
  unfold Net.resumesOk at k ⊢
  rw [List.all_eq_true] at k ⊢
  intro x hx
  obtain ⟨j, hj, rfl⟩ := List.mem_iff_getElem.1 hx
  have hj' : j < n.stations.length := by rw [Net.setStation, List.length_modify] at hj; exact hj
  have hk := of_decide_eq_true (k _ (List.getElem_mem hj'))
  simp only [Net.setStation, List.getElem_modify]
  split
  · exact decide_eq_true (hf _ hk)
  · exact decide_eq_true hk
theorem Net.setPoint_frame {i : Nat} {f : Point → Point} (h : Net.Frame wz a n) : Net.Frame wz a (n.setPoint i f) :=
  h.same rfl rfl rfl rfl rfl rfl rfl rfl
theorem Net.setLine_frame {l : Fin 4} {f : Line → Line} (h : Net.Frame wz a n) : Net.Frame wz a (n.setLine l f) :=
  h.same rfl rfl rfl rfl rfl rfl rfl rfl
theorem Net.setPlan_frame {i : Nat} {f : Plan → Plan} (h : Net.Frame wz a n) : Net.Frame wz a (n.setPlan i f) :=
  h.same rfl rfl rfl rfl rfl rfl rfl rfl
theorem Net.setIncident_frame {i : Nat} {f : Incident → Incident} (h : Net.Frame wz a n) : Net.Frame wz a (n.setIncident i f) :=
  h.same rfl rfl rfl rfl rfl rfl rfl rfl
theorem Net.setSurvey_frame {f : Survey → Survey} (h : Net.Frame wz a n) : Net.Frame wz a (n.setSurvey f) :=
  h.same rfl rfl rfl rfl rfl rfl rfl rfl
theorem Net.plans_frame {p : List (Slot Plan)} (h : Net.Frame wz a n) : Net.Frame wz a { n with plans := p } :=
  h.same rfl rfl rfl rfl rfl rfl rfl rfl
theorem Net.incidents_frame {p : List (Slot Incident)} (h : Net.Frame wz a n) : Net.Frame wz a { n with incidents := p } :=
  h.same rfl rfl rfl rfl rfl rfl rfl rfl

/-- Every zone of a table keeps its ground fields under an update that does. -/
theorem Zone.ground_modify (zs : List Zone) (i : Nat) (f : Zone → Zone) (hf : ∀ x, (f x).ground = x.ground) :
    (zs.modify i f).map Zone.ground = zs.map Zone.ground := by
  apply List.ext_getElem?
  intro k
  rw [List.getElem?_map, List.getElem?_map, List.getElem?_modify]
  by_cases hk : i = k
  · subst hk; simp only [if_true]; cases zs[i]? <;> simp [hf]
  · simp [hk]

theorem Net.setZone_frame {i : Nat} {f : Zone → Zone} (hf : ∀ x, (f x).ground = x.ground) (h : Net.Frame wz a n) :
    Net.Frame wz a (n.setZone i f) :=
  ⟨h.mode, h.now, h.valid, h.params, h.marks, h.outages, fun e => (Zone.ground_modify _ i f hf).trans (h.zones e),
    (List.length_modify _ _ _).trans h.count, h.resumes⟩

/-- Without the zones, any update of a zone is framed. -/
theorem Net.setZone_frame_false {i : Nat} {f : Zone → Zone} (h : Net.Frame false a n) : Net.Frame false a (n.setZone i f) :=
  ⟨h.mode, h.now, h.valid, h.params, h.marks, h.outages, fun e => absurd e (by decide),
    (List.length_modify _ _ _).trans h.count, h.resumes⟩

/-- Outage records keep their counts under an update that does. -/
theorem Slot.counts_modify (os : List (Slot Outage)) (i : Nat) (g : Slot Outage → Slot Outage)
    (hg : ∀ sl, sl.record.all Outage.countsAgree = true → (g sl).record.all Outage.countsAgree = true)
    (h : os.all (fun sl => sl.record.all Outage.countsAgree) = true) :
    (os.modify i g).all (fun sl => sl.record.all Outage.countsAgree) = true := by
  rw [List.all_eq_true] at h ⊢
  intro sl hsl
  obtain ⟨k, hk, rfl⟩ := List.mem_iff_getElem.1 hsl
  rw [List.length_modify] at hk
  rw [List.getElem_modify]
  split
  · exact hg _ (h _ (List.getElem_mem hk))
  · exact h _ (List.getElem_mem hk)

theorem Slot.counts_update (f : Outage → Outage) (hf : ∀ o, o.countsAgree = true → (f o).countsAgree = true) (sl : Slot Outage)
    (h : sl.record.all Outage.countsAgree = true) : (sl.update f).record.all Outage.countsAgree = true := by
  obtain ⟨st, se, r⟩ := sl
  cases r with
  | none => rfl
  | some o => exact hf o h

theorem Net.setOutage_frame {i : Nat} {f : Outage → Outage} (hf : ∀ o, o.countsAgree = true → (f o).countsAgree = true)
    (h : Net.Frame wz a n) : Net.Frame wz a (n.setOutage i f) :=
  ⟨h.mode, h.now, h.valid, h.params, h.marks, fun x => Slot.counts_modify _ i _ (Slot.counts_update f hf) (h.outages x), h.zones,
    h.count, h.resumes⟩

/-- An outage record's incident link is no count. -/
theorem Outage.counts_link (r : Ref) (o : Outage) (h : o.countsAgree = true) :
    Outage.countsAgree { o with incident := some r } = true := h

theorem Net.updateZone_frame {i : Nat} {f : Zone → Zone} (hf : ∀ x, (f x).ground = x.ground) (h : Net.Frame wz a n) :
    Net.Frame wz a (n.updateZone i f) := Net.markIf_frame (Net.setZone_frame hf h)
theorem Net.updateValve_frame {i : Nat} {f : Valve → Valve} (h : Net.Frame wz a n) : Net.Frame wz a (n.updateValve i f) :=
  Net.markIf_frame (Net.setValve_frame h)
theorem Net.updatePoint_frame {i : Nat} {f : Point → Point} (h : Net.Frame wz a n) : Net.Frame wz a (n.updatePoint i f) :=
  Net.markIf_frame (Net.setPoint_frame h)
theorem Net.updateLine_frame {l : Fin 4} {f : Line → Line} (h : Net.Frame wz a n) : Net.Frame wz a (n.updateLine l f) :=
  Net.markIf_frame (Net.setLine_frame h)
theorem Net.updatePlan_frame {i : Nat} {f : Plan → Plan} (h : Net.Frame wz a n) : Net.Frame wz a (n.updatePlan i f) :=
  Net.markIf_frame (Net.setPlan_frame h)
theorem Net.updateIncident_frame {i : Nat} {f : Incident → Incident} (h : Net.Frame wz a n) : Net.Frame wz a (n.updateIncident i f) :=
  Net.markIf_frame (Net.setIncident_frame h)
theorem Net.updateOutage_frame {i : Nat} {f : Outage → Outage} (hf : ∀ o, o.countsAgree = true → (f o).countsAgree = true)
    (h : Net.Frame wz a n) : Net.Frame wz a (n.updateOutage i f) := Net.markIf_frame (Net.setOutage_frame hf h)

/-- An operation repeated. -/
theorem overEach_frame {α : Type} {f : α → Net → Net} {xs : List α} (hf : ∀ x m, Net.Frame wz a m → Net.Frame wz a (f x m))
    (h : Net.Frame wz a n) : Net.Frame wz a (overEach f xs n) := by
  unfold overEach
  induction xs generalizing n with
  | nil => exact h
  | cons x xs ih => exact ih (hf x n h)

theorem Net.passingChanged_frame {vs : List Nat} (h : Net.Frame wz a n) : Net.Frame wz a (n.passingChanged vs) := by
  unfold Net.passingChanged; split
  · exact h
  · exact Net.setSurvey_frame h

theorem Net.sourcesChanged_frame {vs : List Nat} (h : Net.Frame wz a n) : Net.Frame wz a (n.sourcesChanged vs) := by
  unfold Net.sourcesChanged; split
  · exact h
  · exact Net.setSurvey_frame h

theorem Net.claimsChanged_frame (h : Net.Frame wz a n) : Net.Frame wz a n.claimsChanged := Net.setSurvey_frame h

theorem Net.offerTrial_frame {sub : Subject} {m : Net} (h : Net.Frame wz a n) (e : n.offerTrial sub = some m) : Net.Frame wz a m := by
  unfold Net.offerTrial at e
  split at e
  · cases e; exact Net.setSurvey_frame h
  · cases e

theorem Net.openIncident_frame {kind : IncidentKind} {cls zone x y i : Nat} {m : Net} (h : Net.Frame wz a n)
    (e : n.openIncident kind cls zone x y = some (m, i)) : Net.Frame wz a m := by
  unfold Net.openIncident at e
  rw [Option.map_eq_some_iff] at e
  obtain ⟨i, -, e⟩ := e
  cases e; exact Net.incidents_frame h

theorem Net.makeIncident_frame {kind : IncidentKind} {cls zone x y i : Nat} {m : Net} (h : Net.Frame wz a n)
    (e : n.makeIncident kind cls zone x y = some (m, i)) : Net.Frame wz a m := by
  unfold Net.makeIncident at e
  rw [Option.map_eq_some_iff] at e
  obtain ⟨q, hq, e⟩ := e
  cases e; exact Net.mark_frame (Net.openIncident_frame h hq)

theorem Net.markIncident_frame {before : Net} {i : Nat} (h : Net.Frame wz a n) : Net.Frame wz a (Net.markIncident before i n) := by
  unfold Net.markIncident
  repeat' first | exact h | exact Net.mark_frame h | exact Net.markIf_frame h | exact Net.mark_frame (Net.markIf_frame h) | dsimp only | split

/-! ## The incident unit, the plan engine, the point unit, the line controllers -/

theorem Net.handPassing_frame {v : Nat} {before : PosState} (h : Net.Frame wz a n) :
    Net.Frame wz a (Net.handPassing v before n) := by
  unfold Net.handPassing
  repeat' first
    | assumption | with_reducible apply Net.setValve_frame | with_reducible apply Net.passingChanged_frame | split

theorem Net.takeExpiry_frame {i : Nat} (h : Net.Frame wz a n) :
    Net.Frame wz a (Net.takeExpiry i n) := by
  unfold Net.takeExpiry
  repeat' first
    | assumption | with_reducible apply Net.mark_frame | with_reducible apply Net.setIncident_frame | split

theorem Net.expireIfDue_frame {i : Nat} (h : Net.Frame wz a n) :
    Net.Frame wz a (Net.expireIfDue i n) := by
  unfold Net.expireIfDue
  repeat' first
    | assumption | with_reducible apply Net.takeExpiry_frame | split

theorem Net.attachCall_frame {i : Nat} {e : CallEntry} {cls : Nat} (h : Net.Frame wz a n) :
    Net.Frame wz a (Net.attachCall i e cls n) := by
  unfold Net.attachCall
  repeat' first
    | assumption | with_reducible apply Net.mark_frame | with_reducible apply Net.setIncident_frame | dsimp only | split

theorem Net.placeExcursion_frame {point zone i : Nat} {band : Band} {m : Net} (h : Net.Frame wz a n)
    (e : n.placeExcursion point zone band = some (m, i)) : Net.Frame wz a m := by
  unfold Net.placeExcursion at e
  split at e
  · cases e; exact Net.setIncident_frame h
  · dsimp only at e
    rw [Option.map_eq_some_iff] at e
    obtain ⟨q, hq, e⟩ := e
    cases e; exact Net.setIncident_frame (Net.openIncident_frame h hq)

theorem Net.takeExcursion_frame {point : Nat} {zone : Nat} {band : Band} (h : Net.Frame wz a n) :
    Net.Frame wz a (Net.takeExcursion point zone band n) := by
  unfold Net.takeExcursion
  split
  · exact Net.markIncident_frame (Net.placeExcursion_frame h (by assumption))
  · exact h

theorem Net.reserve_frame {r : Ref} (h : Net.Frame wz a n) :
    Net.Frame wz a (Net.reserve r n) := by
  unfold Net.reserve
  repeat' first
    | assumption | with_reducible apply Net.setIncident_frame

theorem Net.unreserve_frame {r : Ref} (h : Net.Frame wz a n) :
    Net.Frame wz a (Net.unreserve r n) := by
  unfold Net.unreserve
  repeat' first
    | assumption | with_reducible apply Net.setIncident_frame | split

theorem Net.linkPlan_frame {r : Ref} {plan : Ref} (h : Net.Frame wz a n) :
    Net.Frame wz a (Net.linkPlan r plan n) := by
  unfold Net.linkPlan
  repeat' first
    | assumption | with_reducible apply Net.updateIncident_frame | split

theorem Net.linkOutage_frame {i : Nat} {outage : Ref} (h : Net.Frame wz a n) :
    Net.Frame wz a (Net.linkOutage i outage n) := by
  unfold Net.linkOutage
  repeat' first
    | assumption | with_reducible apply Net.updateIncident_frame

theorem Net.attachAndAnswer_frame {c : AnswerCode} {i : Nat} {e : CallEntry} (h : Net.Frame wz a n) :
    Net.Frame wz a (Net.attachAndAnswer c i e n).1 := by
  unfold Net.attachAndAnswer
  repeat' first
    | assumption | with_reducible apply Net.attachCall_frame | dsimp only

theorem Net.newForCall_frame {kind : IncidentKind} {cls : Nat} {zone : Nat} {points : List Nat} {e : CallEntry} (h : Net.Frame wz a n) :
    Net.Frame wz a (Net.newForCall kind cls zone points e n).1 := by
  unfold Net.newForCall
  repeat' first
    | assumption | exact Net.makeIncident_frame (by assumption) (by assumption) | with_reducible apply Net.setIncident_frame
    | with_reducible apply Net.attachAndAnswer_frame | dsimp only | split

theorem Net.escapeCall_frame {zone : Nat} {e : CallEntry} (h : Net.Frame wz a n) :
    Net.Frame wz a (Net.escapeCall zone e n).1 := by
  unfold Net.escapeCall
  repeat' first
    | assumption | with_reducible apply Net.attachAndAnswer_frame | with_reducible apply Net.newForCall_frame | dsimp only | split

theorem Net.unlinkedSupplyCall_frame {zone : Nat} {z : Zone} {e : CallEntry} (h : Net.Frame wz a n) :
    Net.Frame wz a (Net.unlinkedSupplyCall zone z e n).1 := by
  unfold Net.unlinkedSupplyCall
  repeat' first
    | assumption | with_reducible apply Net.attachAndAnswer_frame | with_reducible apply Net.newForCall_frame | dsimp only | split

theorem Net.repairOutageLink_frame {zone : Nat} {outage : Ref} {e : CallEntry} (h : Net.Frame wz a n) :
    Net.Frame wz a (n.repairOutageLink zone outage e).1 := by
  unfold Net.repairOutageLink; split
  · exact Net.updateOutage_frame (Outage.counts_link _)
      (Net.linkOutage_frame (Net.attachCall_frame (Net.makeIncident_frame h (by assumption))))
  · exact h

theorem Net.outageCall_frame {zone : Nat} {outage : Ref} {e : CallEntry} (h : Net.Frame wz a n) :
    Net.Frame wz a (Net.outageCall zone outage e n).1 := by
  unfold Net.outageCall
  repeat' first
    | assumption | with_reducible apply Net.attachAndAnswer_frame | with_reducible apply Net.repairOutageLink_frame | dsimp only
    | split

theorem Net.takeCall_frame {b : CallBody} (h : Net.Frame wz a n) :
    Net.Frame wz a (Net.takeCall b n).1 := by
  unfold Net.takeCall
  repeat' first
    | assumption | with_reducible apply Net.escapeCall_frame | with_reducible apply Net.unlinkedSupplyCall_frame
    | with_reducible apply Net.outageCall_frame | dsimp only | split

theorem attendRule_frame {i : Nat} {x : Incident} (h : Net.Frame wz a n) :
    Net.Frame wz a (attendRule i x n).1 := by
  unfold attendRule
  repeat' first
    | assumption | with_reducible apply Net.updateIncident_frame | dsimp only | split

theorem safeRule_frame {i : Nat} {x : Incident} (h : Net.Frame wz a n) :
    Net.Frame wz a (safeRule i x n).1 := by
  unfold safeRule
  repeat' first
    | assumption | with_reducible apply Net.updateIncident_frame | dsimp only | split

theorem closeRule_frame {i : Nat} {x : Incident} (h : Net.Frame wz a n) :
    Net.Frame wz a (closeRule i x n).1 := by
  unfold closeRule
  repeat' first
    | assumption | with_reducible apply Net.updateIncident_frame | dsimp only | split

theorem reclassRule_frame {i : Nat} {cls : Nat} {x : Incident} (h : Net.Frame wz a n) :
    Net.Frame wz a (reclassRule i cls x n).1 := by
  unfold reclassRule
  repeat' first
    | assumption | with_reducible apply Net.mark_frame | with_reducible apply Net.setIncident_frame
    | with_reducible apply Net.expireIfDue_frame | dsimp only | split

theorem ackRule_frame {i : Nat} {_x : Incident} (h : Net.Frame wz a n) :
    Net.Frame wz a (ackRule i _x n).1 := by
  unfold ackRule
  repeat' first
    | assumption | with_reducible apply Net.updateIncident_frame | dsimp only

/-- R94, for an action's rule that is framed. -/
theorem Net.onIncident_frame {r : Ref} {rule : Incident → Net → Net × AnswerCode}
    (hr : ∀ x m, Net.Frame wz a m → Net.Frame wz a (rule x m).1) (h : Net.Frame wz a n) : Net.Frame wz a (n.onIncident r rule).1 := by
  unfold Net.onIncident; split
  · exact h
  · split
    · exact h
    · exact hr _ _ h

theorem Net.takeAct_frame {b : ActBody} (h : Net.Frame wz a n) : Net.Frame wz a (n.takeAct b).1 := by
  unfold Net.takeAct; dsimp only; split
  · exact Net.onIncident_frame (fun _ _ k => attendRule_frame k) h
  · exact Net.onIncident_frame (fun _ _ k => safeRule_frame k) h
  · exact Net.onIncident_frame (fun _ _ k => closeRule_frame k) h
  · split
    · exact Net.onIncident_frame (fun _ _ k => reclassRule_frame k) h
    · exact h
  · exact Net.onIncident_frame (fun _ _ k => ackRule_frame k) h
  · exact h

theorem Net.enterStep_frame {l : Fin 4} {st : Nat} {target : Nat} (h : Net.Frame wz a n) :
    Net.Frame wz a (Net.enterStep l st target n).1 := by
  unfold Net.enterStep
  repeat' first
    | assumption | with_reducible apply Net.setLine_frame | dsimp only | split

theorem Net.enterStop_frame {l : Fin 4} {st : Nat} (h : Net.Frame wz a n) :
    Net.Frame wz a (Net.enterStop l st n).1 := by
  unfold Net.enterStop
  repeat' first
    | assumption | with_reducible apply Net.setLine_frame | dsimp only | split

theorem Net.withdrawStep_frame {l : Fin 4} {st : Nat} {tag : Byte} (h : Net.Frame wz a n) :
    Net.Frame wz a (Net.withdrawStep l st tag n) := by
  unfold Net.withdrawStep
  repeat' first
    | assumption | with_reducible apply Net.setLine_frame

theorem Net.removeStation_frame {l : Fin 4} {st : Nat} (h : Net.Frame wz a n) :
    Net.Frame wz a (Net.removeStation l st n).1 := by
  unfold Net.removeStation
  repeat' first
    | assumption | with_reducible apply Net.setLine_frame | dsimp only | split

theorem Net.updateValveMarked_frame {v : Nat} {f : Valve → Valve} (h : Net.Frame wz a n) :
    Net.Frame wz a (Net.updateValveMarked v f n) := by
  unfold Net.updateValveMarked
  repeat' first
    | assumption | with_reducible apply Net.mark_frame | with_reducible apply Net.setValve_frame

theorem Net.restage_frame {p : Plan} {v : Nat} (h : Net.Frame wz a n) :
    Net.Frame wz a (Net.restage p v n) := by
  unfold Net.restage
  repeat' first
    | assumption | with_reducible apply Net.updateValve_frame | with_reducible apply Net.withdrawStep_frame | dsimp only | split

theorem Net.blockPlan_frame {slot : Nat} {reason : BlockReason} {moved : Option Nat} (h : Net.Frame wz a n) :
    Net.Frame wz a (Net.blockPlan slot reason moved n) := by
  unfold Net.blockPlan
  repeat' first
    | assumption | with_reducible apply Net.mark_frame | with_reducible apply Net.setPlan_frame
    | with_reducible apply Net.restage_frame | split

theorem Net.blockClaim_frame {v : Nat} {reason : BlockReason} {moved : Option Nat} (h : Net.Frame wz a n) :
    Net.Frame wz a (Net.blockClaim v reason moved n) := by
  unfold Net.blockClaim
  repeat' first
    | assumption | with_reducible apply Net.blockPlan_frame | split

theorem Net.stepOutcome_frame {st : Nat} {tag : Byte} {o : StepOutcome} (h : Net.Frame wz a n) :
    Net.Frame wz a (Net.stepOutcome st tag o n) := by
  unfold Net.stepOutcome
  repeat' first
    | assumption | with_reducible apply Net.updateValve_frame | with_reducible apply Net.updateValveMarked_frame
    | with_reducible apply Net.blockClaim_frame | split

theorem Net.enterStaged_frame {slot : Nat} {v : Nat} (h : Net.Frame wz a n) :
    Net.Frame wz a (Net.enterStaged slot v n) := by
  unfold Net.enterStaged
  repeat' first
    | assumption | with_reducible apply Net.updateValve_frame | with_reducible apply Net.enterStep_frame
    | with_reducible apply Net.blockPlan_frame | with_reducible apply Net.stepOutcome_frame | dsimp only | split

theorem Net.stageStep_frame {slot : Nat} {e : Nat} (h : Net.Frame wz a n) :
    Net.Frame wz a (Net.stageStep slot e n) := by
  unfold Net.stageStep
  repeat' first
    | assumption | with_reducible apply Net.updatePlan_frame | with_reducible apply Net.updateValveMarked_frame
    | with_reducible apply Net.blockPlan_frame | with_reducible apply Net.enterStaged_frame | dsimp only | split

theorem Net.startEntry_frame {slot : Nat} {e : Nat} (h : Net.Frame wz a n) :
    Net.Frame wz a (Net.startEntry slot e n) := by
  unfold Net.startEntry
  repeat' first
    | assumption | with_reducible apply Net.updatePlan_frame | with_reducible apply Net.stageStep_frame

theorem Net.releaseClaims_frame {r : Ref} (h : Net.Frame wz a n) :
    Net.Frame wz a (Net.releaseClaims r n) := by
  unfold Net.releaseClaims
  repeat' first
    | assumption | with_reducible apply Net.updateValve_frame | with_reducible apply overEach_frame
    | with_reducible apply Net.claimsChanged_frame | dsimp only | intro _ _ _

theorem Net.endPlan_frame {slot : Nat} {final : PlanState} (h : Net.Frame wz a n) :
    Net.Frame wz a (Net.endPlan slot final n) := by
  unfold Net.endPlan
  repeat' first
    | assumption | with_reducible apply Net.mark_frame | with_reducible apply Net.setPlan_frame
    | with_reducible apply Net.releaseClaims_frame

theorem Net.stepDone_frame {slot : Nat} {v : Nat} (h : Net.Frame wz a n) :
    Net.Frame wz a (Net.stepDone slot v n) := by
  unfold Net.stepDone
  repeat' first
    | assumption | with_reducible apply Net.updatePlan_frame | with_reducible apply Net.updateValveMarked_frame
    | with_reducible apply Net.stageStep_frame | with_reducible apply Net.startEntry_frame | with_reducible apply Net.endPlan_frame
    | dsimp only | split

theorem Net.takeDwellEnd_frame {v : Nat} (h : Net.Frame wz a n) :
    Net.Frame wz a (Net.takeDwellEnd v n) := by
  unfold Net.takeDwellEnd
  repeat' first
    | assumption | with_reducible apply Net.stepDone_frame | split

theorem Net.startDwell_frame {v : Nat} {dwell : Nat} (h : Net.Frame wz a n) :
    Net.Frame wz a (Net.startDwell v dwell n) := by
  unfold Net.startDwell
  repeat' first
    | assumption | with_reducible apply Net.updateValveMarked_frame | with_reducible apply Net.takeDwellEnd_frame

theorem Net.finishAbandon_frame {slot : Nat} (h : Net.Frame wz a n) :
    Net.Frame wz a (Net.finishAbandon slot n) := by
  unfold Net.finishAbandon
  repeat' first
    | assumption | with_reducible apply Net.endPlan_frame | split

theorem Net.afterStop_frame {v : Nat} (h : Net.Frame wz a n) :
    Net.Frame wz a (Net.afterStop v n) := by
  unfold Net.afterStop
  repeat' first
    | assumption | with_reducible apply Net.enterStaged_frame | with_reducible apply Net.finishAbandon_frame | split

theorem Net.stopOutcome_frame {st : Nat} {o : StopOutcome} (h : Net.Frame wz a n) :
    Net.Frame wz a (Net.stopOutcome st o n) := by
  unfold Net.stopOutcome
  repeat' first
    | assumption | with_reducible apply Net.setValve_frame | with_reducible apply Net.afterStop_frame | split

theorem Net.commandOutcome_frame {st : Nat} {o : CommandOutcome} (h : Net.Frame wz a n) :
    Net.Frame wz a (Net.commandOutcome st o n) := by
  unfold Net.commandOutcome
  repeat' first
    | assumption | with_reducible apply Net.stepOutcome_frame | with_reducible apply Net.stopOutcome_frame | split

theorem Net.sendStop_frame {v : Nat} (h : Net.Frame wz a n) :
    Net.Frame wz a (Net.sendStop v n) := by
  unfold Net.sendStop
  repeat' first
    | assumption | with_reducible apply Net.enterStop_frame | with_reducible apply Net.stopOutcome_frame | dsimp only | split

theorem Net.takeTravelLimit_frame {v : Nat} (h : Net.Frame wz a n) :
    Net.Frame wz a (Net.takeTravelLimit v n) := by
  unfold Net.takeTravelLimit
  repeat' first
    | assumption | with_reducible apply Net.setValve_frame | with_reducible apply Net.blockClaim_frame
    | with_reducible apply Net.sendStop_frame | split

theorem Net.stationNotice_frame {st : Nat} {status : Status} (h : Net.Frame wz a n) :
    Net.Frame wz a (Net.stationNotice st status n) := by
  unfold Net.stationNotice
  repeat' first
    | assumption | with_reducible apply Net.blockPlan_frame | split

theorem Net.blockLine_frame {l : Fin 4} (h : Net.Frame wz a n) :
    Net.Frame wz a (Net.blockLine l n) := by
  unfold Net.blockLine
  repeat' first
    | assumption | with_reducible apply overEach_frame | with_reducible apply Net.blockPlan_frame | dsimp only | intro _ _ _ | split

theorem Net.arrive_frame {v : Nat} {p : Plan} {f : StepInFlight} (h : Net.Frame wz a n) :
    Net.Frame wz a (Net.arrive v p f n) := by
  unfold Net.arrive
  repeat' first
    | assumption | with_reducible apply Net.updateValveMarked_frame | with_reducible apply Net.startDwell_frame

theorem Net.judgeUnverified_frame {slot : Nat} {v : Nat} {p : Plan} {f : StepInFlight} {x : Valve} (h : Net.Frame wz a n) :
    Net.Frame wz a (Net.judgeUnverified slot v p f x n) := by
  unfold Net.judgeUnverified
  repeat' first
    | assumption | with_reducible apply Net.updateValve_frame | with_reducible apply Net.enterStaged_frame
    | with_reducible apply Net.arrive_frame | split

theorem Net.judgeClaimed_frame {slot : Nat} {v : Nat} {p : Plan} {x : Valve} {moved : Bool} (h : Net.Frame wz a n) :
    Net.Frame wz a (Net.judgeClaimed slot v p x moved n) := by
  unfold Net.judgeClaimed
  repeat' first
    | assumption | with_reducible apply Net.blockPlan_frame | with_reducible apply Net.arrive_frame
    | with_reducible apply Net.judgeUnverified_frame | split

theorem Net.judgeReading_frame {v : Nat} {before : Valve} (h : Net.Frame wz a n) :
    Net.Frame wz a (Net.judgeReading v before n) := by
  unfold Net.judgeReading
  repeat' first
    | assumption | with_reducible apply Net.setValve_frame | with_reducible apply Net.updateValveMarked_frame
    | with_reducible apply Net.judgeClaimed_frame | dsimp only | split

theorem Net.takeReading_frame {v : Nat} {r : ValveReading} (h : Net.Frame wz a n) :
    Net.Frame wz a (Net.takeReading v r n) := by
  unfold Net.takeReading
  repeat' first
    | assumption | with_reducible apply Net.updateValve_frame | with_reducible apply Net.handPassing_frame
    | with_reducible apply Net.judgeReading_frame | split

theorem Net.offerPlan_frame {r : Ref} {folio : Nat} (h : Net.Frame wz a n) :
    Net.Frame wz a (Net.offerPlan r folio n).1 := by
  unfold Net.offerPlan
  repeat' first
    | assumption | exact Net.offerTrial_frame (by assumption) (by assumption) | dsimp only | split

theorem Net.admitPlan_frame {b : PlanBody} {folio : Nat} (h : Net.Frame wz a n) :
    Net.Frame wz a (Net.admitPlan b folio n).1 := by
  unfold Net.admitPlan
  repeat' first
    | assumption | with_reducible apply Net.reserve_frame | with_reducible apply Net.offerPlan_frame | dsimp only | split
    | apply Net.plans_frame

theorem Net.takePlan_frame {b : PlanBody} {folio : Nat} (h : Net.Frame wz a n) :
    Net.Frame wz a (Net.takePlan b folio n).1 := by
  unfold Net.takePlan
  repeat' first
    | assumption | with_reducible apply Net.admitPlan_frame | dsimp only | split

theorem Net.freePlan_frame {r : Ref} (h : Net.Frame wz a n) :
    Net.Frame wz a (Net.freePlan r n) := by
  unfold Net.freePlan
  repeat' first
    | assumption | with_reducible apply Net.unreserve_frame | split | apply Net.plans_frame

theorem Net.acceptPlan_frame {r : Ref} {losses : List Nat} (h : Net.Frame wz a n) :
    Net.Frame wz a (Net.acceptPlan r losses n) := by
  unfold Net.acceptPlan
  repeat' first
    | assumption | with_reducible apply Net.updateValve_frame | with_reducible apply Net.updatePlan_frame
    | with_reducible apply overEach_frame | with_reducible apply Net.claimsChanged_frame | with_reducible apply Net.linkPlan_frame
    | with_reducible apply Net.startEntry_frame | dsimp only | intro _ _ _ | split

theorem Net.planResult_frame {r : Ref} {v : Verdict} (h : Net.Frame wz a n) :
    Net.Frame wz a (Net.planResult r v n).1 := by
  unfold Net.planResult
  repeat' first
    | assumption | with_reducible apply Net.freePlan_frame | with_reducible apply Net.acceptPlan_frame | dsimp only | split

theorem Net.proceedDone_frame {slot : Nat} (h : Net.Frame wz a n) :
    Net.Frame wz a (Net.proceedDone slot n).1 := by
  unfold Net.proceedDone
  repeat' first
    | assumption | dsimp only | split

theorem Net.resumeRunning_frame {slot : Nat} {e : Nat} (h : Net.Frame wz a n) :
    Net.Frame wz a (Net.resumeRunning slot e n) := by
  unfold Net.resumeRunning
  repeat' first
    | assumption | with_reducible apply Net.updatePlan_frame

theorem Net.releaseHold_frame {slot : Nat} {e : Nat} {v : Nat} (h : Net.Frame wz a n) :
    Net.Frame wz a (Net.releaseHold slot e v n) := by
  unfold Net.releaseHold
  repeat' first
    | assumption | with_reducible apply Net.updateValve_frame | with_reducible apply Net.enterStaged_frame
    | with_reducible apply Net.resumeRunning_frame

theorem Net.crewReport_frame {slot : Nat} {e : Nat} {v : Nat} {position : Nat} (h : Net.Frame wz a n) :
    Net.Frame wz a (Net.crewReport slot e v position n) := by
  unfold Net.crewReport
  repeat' first
    | assumption | with_reducible apply Net.updateValve_frame | with_reducible apply Net.handPassing_frame
    | with_reducible apply Net.startDwell_frame | with_reducible apply Net.resumeRunning_frame | dsimp only | split

theorem Net.resume_frame {slot : Nat} {e : Nat} {v : Nat} (h : Net.Frame wz a n) :
    Net.Frame wz a (Net.resume slot e v n) := by
  unfold Net.resume
  repeat' first
    | assumption | with_reducible apply Net.updatePlan_frame | with_reducible apply Net.enterStaged_frame
    | with_reducible apply Net.takeDwellEnd_frame | with_reducible apply Net.resumeRunning_frame | split

theorem Net.proceedBlocked_frame {slot : Nat} {e : Nat} {v : Nat} {p : Plan} (h : Net.Frame wz a n) :
    Net.Frame wz a (Net.proceedBlocked slot e v p n).1 := by
  unfold Net.proceedBlocked
  repeat' first
    | assumption | with_reducible apply Net.proceedDone_frame | with_reducible apply Net.resume_frame | dsimp only | split

theorem Net.proceedHolding_frame {slot : Nat} {e : Nat} {v : Nat} {position : Nat} (h : Net.Frame wz a n) :
    Net.Frame wz a (Net.proceedHolding slot e v position n).1 := by
  unfold Net.proceedHolding
  repeat' first
    | assumption | with_reducible apply Net.proceedDone_frame | with_reducible apply Net.releaseHold_frame
    | with_reducible apply Net.crewReport_frame | dsimp only | split

theorem Net.takeProceed_frame {b : ProceedBody} (h : Net.Frame wz a n) :
    Net.Frame wz a (Net.takeProceed b n).1 := by
  unfold Net.takeProceed
  repeat' first
    | assumption | with_reducible apply Net.proceedBlocked_frame | with_reducible apply Net.proceedHolding_frame | dsimp only | split

theorem Net.abandonPlan_frame {slot : Nat} (h : Net.Frame wz a n) :
    Net.Frame wz a (Net.abandonPlan slot n) := by
  unfold Net.abandonPlan
  repeat' first
    | assumption | with_reducible apply Net.updateValve_frame | with_reducible apply Net.updatePlan_frame
    | with_reducible apply overEach_frame | with_reducible apply Net.finishAbandon_frame | with_reducible apply Net.sendStop_frame
    | dsimp only | intro _ _ _

theorem Net.takeAbandon_frame {r : Ref} (h : Net.Frame wz a n) :
    Net.Frame wz a (Net.takeAbandon r n).1 := by
  unfold Net.takeAbandon
  repeat' first
    | assumption | with_reducible apply Net.abandonPlan_frame | dsimp only | split

theorem Net.takeNote_frame {b : NoteBody} (h : Net.Frame wz a n) :
    Net.Frame wz a (Net.takeNote b n).1 := by
  unfold Net.takeNote
  repeat' first
    | assumption | with_reducible apply Net.handPassing_frame | with_reducible apply Net.updateValveMarked_frame | dsimp only | split

theorem Net.haltPlan_frame {r : Ref} (h : Net.Frame wz a n) :
    Net.Frame wz a (Net.haltPlan r n).1 := by
  unfold Net.haltPlan
  repeat' first
    | assumption | with_reducible apply Net.freePlan_frame | dsimp only | split

theorem Net.unverify_frame {v : Nat} (h : Net.Frame wz a n) :
    Net.Frame wz a (Net.unverify v n) := by
  unfold Net.unverify
  repeat' first
    | assumption | with_reducible apply Net.withdrawStep_frame | with_reducible apply Net.updateValveMarked_frame | dsimp only | split

theorem Net.unverifyAll_frame (h : Net.Frame wz a n) :
    Net.Frame wz a (Net.unverifyAll n) := by
  unfold Net.unverifyAll
  repeat' first
    | assumption | with_reducible apply overEach_frame | with_reducible apply Net.passingChanged_frame
    | with_reducible apply Net.unverify_frame | dsimp only | intro _ _ _

theorem Net.takeDwellEnds_frame (h : Net.Frame wz a n) :
    Net.Frame wz a (Net.takeDwellEnds n) := by
  unfold Net.takeDwellEnds
  repeat' first
    | assumption | with_reducible apply overEach_frame | with_reducible apply Net.takeDwellEnd_frame | dsimp only | intro _ _ _

theorem Net.recompute_frame {i : Nat} (h : Net.Frame wz a n) : Net.Frame wz a (n.recompute i) := by
  unfold Net.recompute; split
  · exact Net.updateZone_frame (fun _ => rfl) h
  · exact h

theorem Net.excursion_frame {i : Nat} {p : Point} (h : Net.Frame wz a n) :
    Net.Frame wz a (Net.excursion i p n) := by
  unfold Net.excursion
  repeat' first
    | assumption | with_reducible apply Net.mark_frame | with_reducible apply Net.takeExcursion_frame

theorem Net.judgeExcursion_frame {i : Nat} {before : Band} (h : Net.Frame wz a n) :
    Net.Frame wz a (Net.judgeExcursion i before n) := by
  unfold Net.judgeExcursion
  repeat' first
    | assumption | with_reducible apply Net.excursion_frame | split

theorem Net.failSources_frame {is : List Nat} (h : Net.Frame wz a n) :
    Net.Frame wz a (Net.failSources is n) := by
  unfold Net.failSources
  repeat' first
    | assumption | with_reducible apply Net.mark_frame | with_reducible apply Net.setSource_frame | with_reducible apply overEach_frame
    | with_reducible apply Net.sourcesChanged_frame | dsimp only | intro _ _ _

theorem Net.judgeSources_frame {i : Nat} {before : Band} (h : Net.Frame wz a n) :
    Net.Frame wz a (Net.judgeSources i before n) := by
  unfold Net.judgeSources
  repeat' first
    | assumption | with_reducible apply Net.failSources_frame | split

theorem Net.judgePoints_frame {take : Nat → Point → Net → Net} {z : Nat}
    (ht : ∀ i p m, Net.Frame wz a m → Net.Frame wz a (take i p m)) (h : Net.Frame wz a n) : Net.Frame wz a (n.judgePoints take z) := by
  unfold Net.judgePoints
  repeat' first
    | assumption | with_reducible apply overEach_frame | exact ht _ _ _ (by assumption) | dsimp only | intro _ _ _ | split

theorem Net.judgeSupplied_frame {z : Nat} (h : Net.Frame wz a n) : Net.Frame wz a (Net.judgeSupplied z n) :=
  Net.judgePoints_frame (fun _ _ _ k => Net.excursion_frame k) h

theorem Net.unmarkedExcursion_frame {i : Nat} {p : Point} (h : Net.Frame wz a n) : Net.Frame wz a (n.unmarkedExcursion i p) := by
  unfold Net.unmarkedExcursion
  dsimp only
  cases e : (n.mark .urgent (.point i)).placeExcursion i p.zone p.band with
  | none => exact Net.mark_frame h
  | some q => exact Net.placeExcursion_frame (Net.mark_frame h) e

theorem Net.judgeUnmarked_frame {z : Nat} (h : Net.Frame wz a n) : Net.Frame wz a (n.judgePoints Net.unmarkedExcursion z) :=
  Net.judgePoints_frame (fun _ _ _ k => Net.unmarkedExcursion_frame k) h

theorem Net.applyReading_frame {i : Nat} {r : PointReading} (h : Net.Frame wz a n) :
    Net.Frame wz a (Net.applyReading i r n) := by
  unfold Net.applyReading
  repeat' first
    | assumption | with_reducible apply Net.updatePoint_frame | with_reducible apply Net.judgeExcursion_frame
    | with_reducible apply Net.judgeSources_frame | split

theorem Net.takePointReading_frame {st : Nat} {r : PointReading} (h : Net.Frame wz a n) :
    Net.Frame wz a (Net.takePointReading st r n) := by
  unfold Net.takePointReading
  repeat' first
    | assumption | with_reducible apply Net.applyReading_frame | split

theorem Net.deliverValvePart_frame {st : Nat} {p : Payload} (h : Net.Frame wz a n) :
    Net.Frame wz a (Net.deliverValvePart st p n) := by
  unfold Net.deliverValvePart
  repeat' first
    | assumption | with_reducible apply Net.takeReading_frame | split

theorem Net.applyPayload_frame {st : Nat} {p : Payload} (h : Net.Frame wz a n) :
    Net.Frame wz a (Net.applyPayload st p n) := by
  unfold Net.applyPayload
  repeat' first
    | assumption | with_reducible apply overEach_frame | with_reducible apply Net.recompute_frame
    | with_reducible apply Net.takePointReading_frame | with_reducible apply Net.deliverValvePart_frame | dsimp only | intro _ _ _

theorem Net.tellLine_frame {l : Fin 4} {st : Nat} {old : Status} {new : Status} (h : Net.Frame wz a n) :
    Net.Frame wz a (Net.tellLine l st old new n) := by
  unfold Net.tellLine
  repeat' first
    | assumption | with_reducible apply Net.removeStation_frame | with_reducible apply Net.commandOutcome_frame | dsimp only | split

theorem Net.changePoints_frame {points : List Nat} {old : Status} {new : Status} (h : Net.Frame wz a n) :
    Net.Frame wz a (Net.changePoints points old new n) := by
  unfold Net.changePoints
  repeat' first
    | assumption | with_reducible apply Net.updatePoint_frame | with_reducible apply overEach_frame
    | with_reducible apply Net.recompute_frame | dsimp only | intro _ _ _ | split

theorem Net.statusChanged_frame {l : Fin 4} {points : List Nat} {st : Nat} {old : Status} {new : Status} (h : Net.Frame wz a n) :
    Net.Frame wz a (Net.statusChanged l points st old new n) := by
  unfold Net.statusChanged
  repeat' first
    | assumption | with_reducible apply Net.mark_frame | with_reducible apply Net.stationNotice_frame
    | with_reducible apply Net.tellLine_frame | with_reducible apply Net.changePoints_frame

theorem Station.resume_heardData (now : Time) : Station.keepsResume (Station.heardData now) := fun _ h => h
theorem Station.resume_lose : Station.keepsResume Station.lose := fun _ h => h
theorem Station.resume_refuseRead : Station.keepsResume Station.refuseRead := fun _ h => h
theorem Station.resume_refuseCommand : Station.keepsResume Station.refuseCommand := fun _ h => h
theorem Station.resume_makeUnknown : Station.keepsResume Station.makeUnknown := fun _ _ => Or.inl rfl

theorem Station.resume_beSilent : Station.keepsResume Station.beSilent := by
  intro x h
  unfold Station.beSilent
  dsimp only
  split
  · exact h
  · exact h
  all_goals split <;> exact h

/-- R44: the resume status becomes the status before, when that is UNKNOWN or ONLINE. -/
theorem Station.resume_answerBusy : Station.keepsResume Station.answerBusy := by
  intro x h
  unfold Station.answerBusy
  dsimp only
  cases hs : x.status <;> dsimp only
  · split
    · exact h
    · exact Or.inl rfl
  · split
    · exact h
    · exact Or.inr rfl
  · split <;> exact h
  all_goals exact h

theorem Station.resume_countBackoff : Station.keepsResume Station.countBackoff := by
  intro x h
  unfold Station.countBackoff
  split
  · split <;> exact h
  · exact h

theorem Net.updateStation_frame {st : Nat} {f : Station → Station} (hf : Station.keepsResume f) (h : Net.Frame wz a n) :
    Net.Frame wz a (Net.updateStation st f n) := by
  unfold Net.updateStation
  repeat' first
    | assumption | with_reducible apply Net.setStation_frame | exact fun _ k => k | with_reducible apply Net.statusChanged_frame
    | dsimp only | split

theorem Net.stationOutcome_frame {st : Nat} {o : StationOutcome} (h : Net.Frame wz a n) :
    Net.Frame wz a (Net.stationOutcome st o n) := by
  unfold Net.stationOutcome
  repeat' first
    | assumption | with_reducible apply Net.applyPayload_frame | with_reducible apply Net.updateStation_frame
    | exact Station.resume_heardData _ | exact Station.resume_answerBusy | exact Station.resume_beSilent | exact Station.resume_refuseRead
    | exact Station.resume_refuseCommand | split

theorem Net.countBackoffs_frame {l : Fin 4} (h : Net.Frame wz a n) :
    Net.Frame wz a (Net.countBackoffs l n) := by
  unfold Net.countBackoffs
  repeat' first
    | assumption | with_reducible apply overEach_frame | with_reducible apply Net.updateStation_frame
    | exact Station.resume_countBackoff | dsimp only | intro _ _ _

theorem Net.takeReplyAge_frame {st : Nat} (h : Net.Frame wz a n) :
    Net.Frame wz a (Net.takeReplyAge st n) := by
  unfold Net.takeReplyAge
  repeat' first
    | assumption | with_reducible apply Net.updateStation_frame
    | exact Station.resume_lose | split

theorem Net.makeUnknown_frame {l : Fin 4} (h : Net.Frame wz a n) :
    Net.Frame wz a (Net.makeUnknown l n) := by
  unfold Net.makeUnknown
  repeat' first
    | assumption | with_reducible apply overEach_frame | with_reducible apply Net.updateStation_frame
    | exact Station.resume_makeUnknown | dsimp only | intro _ _ _

theorem Net.takeStale_frame {i : Nat} (h : Net.Frame wz a n) :
    Net.Frame wz a (Net.takeStale i n) := by
  unfold Net.takeStale
  repeat' first
    | assumption | with_reducible apply Net.updatePoint_frame | with_reducible apply overEach_frame
    | with_reducible apply Net.recompute_frame | dsimp only | intro _ _ _ | split

theorem Net.takeLimits_frame {b : LimitsBody} (h : Net.Frame wz a n) :
    Net.Frame wz a (Net.takeLimits b n).1 := by
  unfold Net.takeLimits
  repeat' first
    | assumption | with_reducible apply Net.mark_frame | with_reducible apply Net.setPoint_frame
    | with_reducible apply Net.takeStale_frame | dsimp only | split

theorem Net.sendPoll_frame {l : Fin 4} {st : Nat} {f : PollFunction} (h : Net.Frame wz a n) :
    Net.Frame wz a (Net.sendPoll l st f n) := by
  unfold Net.sendPoll
  repeat' first
    | assumption | with_reducible apply Net.setLine_frame | split

theorem Net.closeCycle_frame {l : Fin 4} (h : Net.Frame wz a n) :
    Net.Frame wz a (Net.closeCycle l n) := by
  unfold Net.closeCycle
  repeat' first
    | assumption | with_reducible apply Net.setLine_frame | with_reducible apply Net.countBackoffs_frame | split

theorem Net.choose_frame {l : Fin 4} {k : Nat} (h : Net.Frame wz a n) : Net.Frame wz a (Net.choose l k n) := by
  induction k generalizing n with
  | zero => exact h
  | succ k ih =>
    unfold Net.choose
    split
    · exact Net.sendPoll_frame h
    · split
      · exact h
      · split
        · exact Net.sendPoll_frame h
        · exact ih (Net.closeCycle_frame h)

theorem Net.arbitrate_frame {l : Fin 4} (h : Net.Frame wz a n) :
    Net.Frame wz a (Net.arbitrate l n) := by
  unfold Net.arbitrate
  repeat' first
    | assumption | with_reducible apply Net.choose_frame | split

theorem Net.arbitrateAll_frame (h : Net.Frame wz a n) :
    Net.Frame wz a (Net.arbitrateAll n) := by
  unfold Net.arbitrateAll
  repeat' first
    | assumption | with_reducible apply overEach_frame | with_reducible apply Net.arbitrate_frame | dsimp only | intro _ _ _

theorem Net.enterIdle_frame {l : Fin 4} (h : Net.Frame wz a n) :
    Net.Frame wz a (Net.enterIdle l n) := by
  unfold Net.enterIdle
  repeat' first
    | assumption | with_reducible apply Net.setStation_frame | exact fun _ k => k | with_reducible apply Net.updateLine_frame
    | with_reducible apply overEach_frame | dsimp only | intro _ _ _ | split

theorem Net.releaseLine_frame {l : Fin 4} (h : Net.Frame wz a n) :
    Net.Frame wz a (Net.releaseLine l n) := by
  unfold Net.releaseLine
  repeat' first
    | assumption | with_reducible apply Net.updateLine_frame | with_reducible apply Net.makeUnknown_frame
    | with_reducible apply Net.enterIdle_frame | split

theorem Net.handOutcome_frame {st : Nat} {o : Option CommandOutcome} (h : Net.Frame wz a n) :
    Net.Frame wz a (Net.handOutcome st o n) := by
  unfold Net.handOutcome
  repeat' first
    | assumption | with_reducible apply Net.commandOutcome_frame | split

theorem Net.endExchange_frame {l : Fin 4} {x : Ending} (h : Net.Frame wz a n) :
    Net.Frame wz a (Net.endExchange l x n) := by
  unfold Net.endExchange
  repeat' first
    | assumption | with_reducible apply Net.setLine_frame | with_reducible apply Net.updateLine_frame
    | with_reducible apply Net.stationOutcome_frame | with_reducible apply Net.takeReplyAge_frame
    | with_reducible apply Net.handOutcome_frame | dsimp only | split

theorem Net.takeFrame_frame {l : Fin 4} {bytes : List Byte} (h : Net.Frame wz a n) :
    Net.Frame wz a (Net.takeFrame l bytes n) := by
  unfold Net.takeFrame
  repeat' first
    | assumption | with_reducible apply Net.endExchange_frame | split

theorem Net.hear_frame {l : Fin 4} {bytes : List Byte} (h : Net.Frame wz a n) :
    Net.Frame wz a (Net.hear l bytes n) := by
  unfold Net.hear
  repeat' first
    | assumption | with_reducible apply Net.setStation_frame | exact fun _ k => k | with_reducible apply Net.stationOutcome_frame | dsimp only | split

theorem Net.takeListenLost_frame {st : Nat} (h : Net.Frame wz a n) :
    Net.Frame wz a (Net.takeListenLost st n) := by
  unfold Net.takeListenLost
  repeat' first
    | assumption | with_reducible apply Net.updateStation_frame
    | exact Station.resume_lose | split

theorem Net.lineHold_frame {l : Fin 4} (h : Net.Frame wz a n) :
    Net.Frame wz a (Net.lineHold l n).1 := by
  unfold Net.lineHold
  repeat' first
    | assumption | with_reducible apply Net.updateLine_frame | dsimp only

theorem Net.lineRelease_frame {l : Fin 4} (h : Net.Frame wz a n) :
    Net.Frame wz a (Net.lineRelease l n).1 := by
  unfold Net.lineRelease
  repeat' first
    | assumption | with_reducible apply Net.updateLine_frame | with_reducible apply Net.releaseLine_frame | dsimp only | split

theorem Net.lineConfigure_frame {l : Fin 4} {p : LineParams} (h : Net.Frame wz a n) :
    Net.Frame wz a (Net.lineConfigure l p n).1 := by
  unfold Net.lineConfigure
  repeat' first
    | assumption | with_reducible apply Net.updateLine_frame | dsimp only | split

theorem Net.becomeListen_frame {l : Fin 4} (h : Net.Frame wz a n) :
    Net.Frame wz a (Net.becomeListen l n) := by
  unfold Net.becomeListen
  repeat' first
    | assumption | with_reducible apply Net.updateLine_frame | with_reducible apply overEach_frame
    | with_reducible apply Net.commandOutcome_frame | with_reducible apply Net.blockLine_frame | dsimp only | intro _ _ _

theorem Net.lineRole_frame {l : Fin 4} {r : Role} (h : Net.Frame wz a n) :
    Net.Frame wz a (Net.lineRole l r n).1 := by
  unfold Net.lineRole
  repeat' first
    | assumption | with_reducible apply Net.updateLine_frame | with_reducible apply Net.becomeListen_frame | dsimp only | split

theorem Net.takeLine_frame {b : LineBody} (h : Net.Frame wz a n) : Net.Frame wz a (n.takeLine b).1 := by
  have op : ∀ l f, lineOperation b l = some f → Net.Frame wz a (f n).1 := by
    intro l f e
    unfold lineOperation at e
    split at e
    · cases e; exact Net.lineHold_frame h
    · cases e; exact Net.lineRelease_frame h
    · rw [Option.map_eq_some_iff] at e
      obtain ⟨p, -, rfl⟩ := e
      exact Net.lineConfigure_frame h
    · rw [Option.map_eq_some_iff] at e
      obtain ⟨r, -, rfl⟩ := e
      exact Net.lineRole_frame h
    · cases e
  unfold Net.takeLine
  split
  · split
    · exact op _ _ (by assumption)
    · exact h
  · split <;> exact h

/-! ## The survey engine, folios and the lines through start and halt -/

theorem Net.startReal_frame (h : Net.Frame wz a n) :
    Net.Frame wz a (Net.startReal n) := by
  unfold Net.startReal
  repeat' first
    | assumption | with_reducible apply Net.setSurvey_frame | split

theorem Net.startTrial_frame (h : Net.Frame wz a n) :
    Net.Frame wz a (Net.startTrial n) := by
  unfold Net.startTrial
  repeat' first
    | assumption | with_reducible apply Net.setSurvey_frame | split

theorem Net.setSourceState_frame {i : Nat} {target : SourceState} (h : Net.Frame wz a n) :
    Net.Frame wz a (Net.setSourceState i target n) := by
  unfold Net.setSourceState
  repeat' first
    | assumption | with_reducible apply Net.mark_frame | with_reducible apply Net.setSource_frame
    | with_reducible apply Net.sourcesChanged_frame | split

theorem Net.sourceResult_frame {i : Nat} {target : SourceState} {folio : Option Nat} {v : Verdict} (h : Net.Frame wz a n) :
    Net.Frame wz a (Net.sourceResult i target folio v n).1 := by
  unfold Net.sourceResult
  repeat' first
    | assumption | with_reducible apply Net.setSourceState_frame | dsimp only | split

theorem Net.offerSource_frame {i : Nat} {target : SourceState} {o : Bool} {r : Bool} {folio : Nat} (h : Net.Frame wz a n) :
    Net.Frame wz a (Net.offerSource i target o r folio n).1 := by
  unfold Net.offerSource
  repeat' first
    | assumption | exact Net.offerTrial_frame (by assumption) (by assumption) | dsimp only | split

theorem Net.takeSource_frame {b : SourceBody} {folio : Nat} (h : Net.Frame wz a n) :
    Net.Frame wz a (Net.takeSource b folio n).1 := by
  unfold Net.takeSource
  repeat' first
    | assumption | with_reducible apply Net.offerSource_frame | dsimp only | split

theorem Net.handVerdict_frame {sub : Subject} {v : Verdict} (h : Net.Frame wz a n) :
    Net.Frame wz a (Net.handVerdict sub v n).1 := by
  unfold Net.handVerdict
  repeat' first
    | assumption | with_reducible apply Net.planResult_frame | with_reducible apply Net.sourceResult_frame | dsimp only | split

theorem Net.haltSubject_frame {sub : Subject} (h : Net.Frame wz a n) :
    Net.Frame wz a (Net.haltSubject sub n).1 := by
  unfold Net.haltSubject
  repeat' first
    | assumption | with_reducible apply Net.haltPlan_frame | dsimp only | split

theorem Net.haltQueue_frame {q : List Subject} (h : Net.Frame wz a n) : Net.Frame wz a (Net.haltQueue q n).1 := by
  induction q generalizing n with
  | nil => unfold Net.haltQueue; dsimp only; exact Net.setSurvey_frame h
  | cons sub rest ih => unfold Net.haltQueue; exact ih (Net.haltSubject_frame h)

theorem Net.loseOrderFolio_frame {folio : Nat} (h : Net.Frame wz a n) : Net.Frame wz a (n.loseOrderFolio folio) :=
  h.same rfl rfl rfl rfl rfl rfl rfl rfl

theorem Net.warmCharter_frame {v : Quad LineValues} (h : Net.Frame wz a n) :
    Net.Frame wz a (Net.warmCharter v n) := by
  unfold Net.warmCharter
  repeat' first
    | assumption | with_reducible apply Net.updateLine_frame | with_reducible apply overEach_frame | dsimp only | intro _ _ _

theorem Net.releaseHeld_frame (h : Net.Frame wz a n) :
    Net.Frame wz a (Net.releaseHeld n) := by
  unfold Net.releaseHeld
  repeat' first
    | assumption | with_reducible apply overEach_frame | with_reducible apply Net.releaseLine_frame | dsimp only | intro _ _ _ | split

theorem Net.haltStalled_frame {st : Stalled} (h : Net.Frame wz a n) :
    Net.Frame wz a (Net.haltStalled st n).1 := by
  unfold Net.haltStalled
  repeat' first
    | assumption | with_reducible apply Net.haltPlan_frame | dsimp only | split

theorem Net.haltOrders_frame {stall : Option Stalled} (h : Net.Frame wz a n) : Net.Frame wz a (n.haltOrders stall).1 := by
  unfold Net.haltOrders
  split
  · exact Net.haltQueue_frame h
  · exact Net.haltQueue_frame (Net.haltStalled_frame h)

theorem Net.holdLines_frame (h : Net.Frame wz a n) : Net.Frame wz a n.holdLines :=
  overEach_frame (fun _ _ k => Net.updateLine_frame k) h

end

end Sys2Proof.Machine
end

