-- ==== Sys2Proof/Laws/Outages.lean ====
section
/-! SUPPORT. What the outage unit and the survey engine's completions change: a frame for each operation, and the pairing of fed-state,
supply state and outage link (R130, R133) through an applied result, a RESTORE and a RELIGHT. -/

namespace Sys2Proof.Machine

/-! ## Counts of an outage record -/

theorem Outage.counts_setHeld (h : List HeldZone) (o : Outage) : (o.setHeld h).countsAgree = true := by
  unfold Outage.countsAgree; exact decide_eq_true rfl

theorem Outage.counts_leave (now : Time) (z : Nat) (o : Outage) : (o.leave now z).countsAgree = true := by
  unfold Outage.leave
  dsimp only
  split <;> exact Outage.counts_setHeld _ o

theorem Outage.counts_setRelit (z relit : Nat) (o : Outage) : (o.setRelit z relit).countsAgree = true := Outage.counts_setHeld _ o

theorem Outage.counts_join (hs : List HeldZone) (o : Outage) : (o.join hs).countsAgree = true := Outage.counts_setHeld _ o

/-! ## Marks: steps 1 to 5 of R134 mark points alone -/

theorem overEach_marks {α : Type} {f : α → Net → Net} (hf : ∀ x m, (f x m).marks = m.marks) (xs : List α) (n : Net) :
    (overEach f xs n).marks = n.marks := by
  unfold overEach
  induction xs generalizing n with
  | nil => rfl
  | cons x xs ih => exact (ih (f x n)).trans (hf x n)

@[simp] theorem Net.writeFed_marks (result : List Nat) (n : Net) : (n.writeFed result).marks = n.marks := by
  unfold Net.writeFed
  exact overEach_marks (fun _ _ => Net.setZone_marks _ _ _) _ n

@[simp] theorem Net.supplyZone_marks (z : Nat) (n : Net) : (n.supplyZone z).marks = n.marks := by
  unfold Net.supplyZone
  dsimp only
  split <;> rfl

@[simp] theorem Net.repressurise_marks (z : Nat) (n : Net) : (n.repressurise z).marks = n.marks := by
  unfold Net.repressurise
  dsimp only
  split
  · exact Net.supplyZone_marks z _
  · rfl

@[simp] theorem Net.joinLosses_marks (slot : Nat) (zs : List Nat) (n : Net) : (n.joinLosses slot zs).marks = n.marks := by
  unfold Net.joinLosses
  exact overEach_marks (fun _ _ => Net.setZone_marks _ _ _) zs _

theorem Net.openIncident_marks {kind : IncidentKind} {cls zone x y : Nat} {n : Net} {q : Net × Nat}
    (h : n.openIncident kind cls zone x y = some q) : q.1.marks = n.marks := by
  unfold Net.openIncident at h
  rw [Option.map_eq_some_iff] at h
  obtain ⟨_, -, rfl⟩ := h
  rfl

@[simp] theorem Net.linkNew_marks (slot zone : Nat) (n : Net) : (n.linkNew slot zone).marks = n.marks := by
  unfold Net.linkNew
  repeat' first | exact Net.openIncident_marks (by assumption) | rfl | dsimp only | split

@[simp] theorem Net.placeLosses_marks (p : LossPlace) (zs : List Nat) (n : Net) : (n.placeLosses p zs).marks = n.marks := by
  unfold Net.placeLosses
  split
  · rfl
  · exact Net.joinLosses_marks _ _ _
  · exact (Net.linkNew_marks _ _ _).trans (Net.joinLosses_marks _ _ _)

@[simp] theorem Net.loseAgain_marks (z : Nat) (n : Net) : (n.loseAgain z).marks = n.marks := by
  unfold Net.loseAgain
  dsimp only
  split <;> rfl

@[simp] theorem Net.gain_marks (z : Nat) (n : Net) : (n.gain z).marks = n.marks := by
  unfold Net.gain
  split
  · exact Net.repressurise_marks z n
  · rfl

theorem Net.placeExcursion_marks {point zone : Nat} {band : Band} {n : Net} {q : Net × Nat} (h : n.placeExcursion point zone band = some q) :
    q.1.marks = n.marks := by
  unfold Net.placeExcursion at h
  split at h
  · cases h; rfl
  · dsimp only at h
    rw [Option.map_eq_some_iff] at h
    obtain ⟨_, e, rfl⟩ := h
    exact (Net.setIncident_marks _ _ _).trans (Net.openIncident_marks e)

/-- R62, R134 step 5: a point judged is marked URGENT, and nothing else is marked. -/
@[simp] theorem Net.unmarkedExcursion_marks (i : Nat) (p : Point) (n : Net) :
    (n.unmarkedExcursion i p).marks = n.marks.add .urgent (.point i) := by
  unfold Net.unmarkedExcursion
  dsimp only
  cases h : (n.mark .urgent (.point i)).placeExcursion i p.zone p.band with
  | none => rfl
  | some q => exact Net.placeExcursion_marks h

section
variable {a n : Net}

/-! ## Frames without the zones -/

theorem Net.supplyZone_frame {z : Nat} (h : Net.Frame false a n) : Net.Frame false a (n.supplyZone z) := by
  unfold Net.supplyZone
  dsimp only
  split
  · exact Net.setOutage_frame (fun o _ => Outage.counts_leave _ _ o) (Net.setZone_frame_false h)
  · exact Net.setZone_frame_false h

theorem Net.repressurise_frame {z : Nat} (h : Net.Frame false a n) : Net.Frame false a (n.repressurise z) := by
  unfold Net.repressurise
  dsimp only
  split
  · exact Net.supplyZone_frame (Net.setZone_frame_false h)
  · exact Net.setZone_frame_false h

theorem Net.joinLosses_frame {slot : Nat} {zs : List Nat} (h : Net.Frame false a n) : Net.Frame false a (n.joinLosses slot zs) := by
  unfold Net.joinLosses
  exact overEach_frame (fun _ _ k => Net.setZone_frame_false k) (Net.setOutage_frame (fun o _ => Outage.counts_join _ o) h)

theorem Net.makeOutage_frame {slot : Nat} (h : Net.Frame false a n) : Net.Frame false a (n.makeOutage slot) :=
  ⟨h.mode, h.now, h.valid, h.params, h.marks,
    fun x => Slot.counts_modify _ slot _ (fun _ _ => rfl) (h.outages x), fun e => absurd e (by decide), h.count, h.resumes⟩

theorem Net.linkBoth_frame {slot : Nat} {r : Ref} (h : Net.Frame false a n) : Net.Frame false a (n.linkBoth slot r) :=
  Net.setOutage_frame (Outage.counts_link r) (Net.setIncident_frame h)

theorem Net.linkNew_frame {slot zone : Nat} (h : Net.Frame false a n) : Net.Frame false a (n.linkNew slot zone) := by
  unfold Net.linkNew
  repeat' first
    | exact Net.linkBoth_frame (Net.openIncident_frame h (by assumption))
    | exact Net.linkBoth_frame h | exact h | dsimp only | split

theorem Net.placeLosses_frame {p : LossPlace} {zs : List Nat} (h : Net.Frame false a n) : Net.Frame false a (n.placeLosses p zs) := by
  unfold Net.placeLosses
  split
  · exact h
  · exact Net.joinLosses_frame h
  · exact Net.linkNew_frame (Net.joinLosses_frame (Net.makeOutage_frame h))

theorem Net.loseAgain_frame {z : Nat} (h : Net.Frame false a n) : Net.Frame false a (n.loseAgain z) := by
  unfold Net.loseAgain
  dsimp only
  split
  · exact Net.setOutage_frame (fun o _ => Outage.counts_setRelit _ _ o) (Net.setZone_frame_false h)
  · exact Net.setZone_frame_false h

theorem Net.gain_frame {z : Nat} (h : Net.Frame false a n) : Net.Frame false a (n.gain z) := by
  unfold Net.gain
  split
  · exact Net.repressurise_frame h
  · exact Net.setZone_frame_false h

theorem Net.writeFed_frame {result : List Nat} (h : Net.Frame false a n) : Net.Frame false a (n.writeFed result) :=
  overEach_frame (fun _ _ k => Net.setZone_frame_false k) h

theorem Net.markZone_frame {wz : Bool} {before : Net} {z : Nat} (h : Net.Frame wz a n) : Net.Frame wz a (Net.markZone before z n) := by
  unfold Net.markZone
  repeat' first | exact h | exact Net.mark_frame h | exact Net.markIf_frame h | split

theorem Net.markOutage_frame {wz : Bool} {before : Net} {i : Nat} (h : Net.Frame wz a n) : Net.Frame wz a (Net.markOutage before i n) := by
  unfold Net.markOutage
  repeat' first | exact h | exact Net.mark_frame h | exact Net.markIf_frame h | split

theorem Net.markOutcome_frame {wz : Bool} {before : Net} (h : Net.Frame wz a n) : Net.Frame wz a (Net.markOutcome before n) :=
  overEach_frame (fun _ _ k => Net.markIncident_frame k)
    (overEach_frame (fun _ _ k => Net.markOutage_frame k) (overEach_frame (fun _ _ k => Net.markZone_frame k) h))

theorem Net.applyRest_frame {before : Net} {result : List Nat} (h : Net.Frame false a n) :
    Net.Frame false a (Net.applyRest before result n) :=
  Net.markOutcome_frame (overEach_frame (fun _ _ k => Net.judgeUnmarked_frame k)
    (overEach_frame (fun _ _ k => Net.gain_frame k) (overEach_frame (fun _ _ k => Net.loseAgain_frame k) h)))

theorem Net.applyResult_frame {result : List Nat} {m : Net} (h : Net.Frame false a n) (e : n.applyResult result = some m) :
    Net.Frame false a m := by
  unfold Net.applyResult at e
  dsimp only at e
  split at e
  · cases e; exact Net.applyRest_frame (Net.writeFed_frame h)
  · rw [Option.map_eq_some_iff] at e
    obtain ⟨p, -, rfl⟩ := e
    exact Net.applyRest_frame (Net.placeLosses_frame (Net.writeFed_frame h))

theorem Net.restoreOutage_frame {slot : Nat} {o : Outage} (h : Net.Frame false a n) : Net.Frame false a (n.restoreOutage slot o) :=
  overEach_frame (fun _ _ k => Net.judgeSupplied_frame k)
    (overEach_frame (fun _ _ k => Net.mark_frame (Net.repressurise_frame k))
      (Net.mark_frame (Net.setOutage_frame (fun o k => by exact k) h)))

theorem Net.takeRestore_frame {r : Ref} (h : Net.Frame false a n) : Net.Frame false a (n.takeRestore r).1 := by
  unfold Net.takeRestore
  repeat' first | exact h | exact Net.restoreOutage_frame h | dsimp only | split

theorem Net.relight_frame {z count : Nat} {x : Zone} (h : Net.Frame false a n) : Net.Frame false a (n.relight z count x) := by
  unfold Net.relight
  dsimp only
  have h1 : Net.Frame false a (match n.zoneOutage z with
      | some (slot, _) => (n.setOutage slot (Outage.setRelit z (n.relitOf z + count))).mark .ordinary (.outage slot)
      | none => n) := by
    split
    · exact Net.mark_frame (Net.setOutage_frame (fun o _ => Outage.counts_setRelit _ _ o) h)
    · exact h
  split
  · exact Net.judgeSupplied_frame (Net.supplyZone_frame (Net.mark_frame h1))
  · exact Net.mark_frame h1

theorem Net.takeRelight_frame {b : RelightBody} (h : Net.Frame false a n) : Net.Frame false a (n.takeRelight b).1 := by
  unfold Net.takeRelight
  repeat' first | exact h | exact Net.relight_frame h | dsimp only | split

theorem Net.offerResult_frame {start : BitVec 32} {result : List Nat} (h : Net.Frame false a n) :
    Net.Frame false a (n.offerResult start result) := by
  unfold Net.offerResult
  split
  · rename_i m e
    unfold Net.applyCompletion at e
    rw [Option.map_eq_some_iff] at e
    obtain ⟨m, e, rfl⟩ := e
    exact Net.setSurvey_frame (Net.applyResult_frame h e)
  · exact Net.setSurvey_frame h

theorem Net.completeReal_frame (h : Net.Frame false a n) : Net.Frame false a n.completeReal := by
  unfold Net.completeReal
  split
  · dsimp only
    split
    · exact Net.offerResult_frame (Net.setSurvey_frame h)
    · exact Net.setSurvey_frame (Net.setSurvey_frame h)
  · exact h

theorem Net.outageSlotFreed_frame (h : Net.Frame false a n) : Net.Frame false a n.outageSlotFreed := by
  unfold Net.outageSlotFreed
  split
  · dsimp only
    split
    · exact Net.offerResult_frame (Net.setSurvey_frame h)
    · exact Net.setSurvey_frame (Net.setSurvey_frame h)
  · exact h

theorem Net.completeTrial_frame {wz : Bool} (h : Net.Frame wz a n) : Net.Frame wz a n.completeTrial.net := by
  unfold Net.completeTrial
  split
  · dsimp only
    split
    · exact Net.handVerdict_frame (Net.setSurvey_frame h)
    · dsimp only; exact Net.setSurvey_frame h
  · exact h

theorem Net.reoffer_frame {wz : Bool} {st : Stalled} {m : Net} (h : Net.Frame wz a n) (e : n.reoffer st = some m) : Net.Frame wz a m := by
  unfold Net.reoffer at e
  split at e
  · rw [Option.bind_eq_some_iff] at e
    obtain ⟨i, -, e⟩ := e
    exact Net.offerTrial_frame h e
  · exact Net.offerTrial_frame h e

/-! ## Slots (R145, R173, R174) -/

theorem Net.retire_frame {wz : Bool} {r : RecordName} (h : Net.Frame wz a n) : Net.Frame wz a (n.retire r) := by
  unfold Net.retire
  split
  · exact Net.incidents_frame h
  · exact Net.plans_frame h
  · refine ⟨h.mode, h.now, h.valid, h.params, h.marks, fun x => Slot.counts_modify _ _ _ ?_ (h.outages x), h.zones, h.count, h.resumes⟩
    intro sl k
    unfold shiftSlot
    split <;> exact k
  · exact h

theorem Net.unretire_frame {wz : Bool} {r : RecordName} (h : Net.Frame wz a n) : Net.Frame wz a (n.unretire r) := by
  unfold Net.unretire
  split
  · exact Net.incidents_frame h
  · exact Net.plans_frame h
  · refine ⟨h.mode, h.now, h.valid, h.params, h.marks, fun x => Slot.counts_modify _ _ _ ?_ (h.outages x), h.zones, h.count, h.resumes⟩
    intro sl k
    unfold shiftSlot
    split <;> exact k
  · exact h

theorem Net.vacate_frame {wz : Bool} {r : RecordName} (h : Net.Frame wz a n) : Net.Frame wz a (n.vacate r) := by
  unfold Net.vacate
  split
  · exact Net.incidents_frame h
  · exact Net.plans_frame h
  · refine ⟨h.mode, h.now, h.valid, h.params, h.marks, fun x => Slot.counts_modify _ _ _ ?_ (h.outages x), h.zones, h.count, h.resumes⟩
    intro sl k
    unfold Machine.vacate
    split
    · rfl
    · exact k
  · exact h

theorem Net.freeRetired_frame {rs : List Retiring} (h : Net.Frame false a n) : Net.Frame false a (n.freeRetired rs) := by
  unfold Net.freeRetired
  dsimp only
  split
  · exact Net.outageSlotFreed_frame (overEach_frame (fun _ _ k => Net.vacate_frame k) h)
  · exact overEach_frame (fun _ _ k => Net.vacate_frame k) h

end

end Sys2Proof.Machine
end

