-- ==== Sys2Proof/Laws/Zones.lean ====
section
/-! SUPPORT. The pairing of fed-state, supply state and outage link (R130, R133), zone by zone: through an applied survey result, a RESTORE
and a RELIGHT. -/

namespace Sys2Proof.Machine

/-! ## The ground fields of one zone -/

abbrev Ground := FedState × Supply × Option Ref

/-- R130, R133 for the ground fields. -/
abbrev groundOk (g : Ground) : Prop := (g.1 = .unfed ↔ g.2.1 = .unfed) ∧ (g.2.2.isSome = true ↔ g.2.1 ≠ .supplied)

def Net.groundAt (n : Net) (i : Nat) : Option Ground := (n.zones[i]?).map Zone.ground

theorem Net.zonesAgree_iff (n : Net) : n.zonesAgree = true ↔ ∀ i g, n.groundAt i = some g → groundOk g := by
  unfold Net.zonesAgree
  rw [List.all_eq_true]
  constructor
  · intro h i g hg
    unfold Net.groundAt at hg
    rw [Option.map_eq_some_iff] at hg
    obtain ⟨x, hx, rfl⟩ := hg
    have := h x (List.mem_of_getElem? hx)
    unfold Zone.agrees at this
    exact of_decide_eq_true this
  · intro h x hx
    obtain ⟨i, hi⟩ := List.mem_iff_getElem?.1 hx
    unfold Zone.agrees
    exact decide_eq_true (h i x.ground (by unfold Net.groundAt; rw [hi]; rfl))

/-- Nets with the same ground fields agree alike. -/
theorem Net.zonesAgree_of_ground {a b : Net} (h : b.zones.map Zone.ground = a.zones.map Zone.ground) (k : a.zonesAgree = true) :
    b.zonesAgree = true := by
  rw [Net.zonesAgree_iff] at k ⊢
  intro i g hg
  refine k i g ?_
  unfold Net.groundAt at hg ⊢
  rw [← List.getElem?_map] at hg ⊢
  rw [← h]; exact hg

/-- A frame with the zones leaves every zone's ground fields. -/
theorem Net.Frame.groundAt {a b : Net} (h : Net.Frame true a b) (i : Nat) : b.groundAt i = a.groundAt i := by
  unfold Net.groundAt
  rw [← List.getElem?_map, ← List.getElem?_map, h.zones (Eq.refl _)]

theorem Net.groundAt_congr {a b : Net} (h : b.zones = a.zones) (i : Nat) : b.groundAt i = a.groundAt i := by
  unfold Net.groundAt; rw [h]

theorem Net.groundAt_setZone_self (n : Net) (i : Nat) (f : Zone → Zone) : (n.setZone i f).groundAt i = (n.zones[i]?).map (fun x => (f x).ground) := by
  unfold Net.groundAt
  rw [Net.setZone_zones, List.getElem?_modify]
  cases n.zones[i]? <;> simp

theorem Net.groundAt_setZone_other (n : Net) (i j : Nat) (f : Zone → Zone) (h : j ≠ i) : (n.setZone i f).groundAt j = n.groundAt j := by
  unfold Net.groundAt
  rw [Net.setZone_zones, List.getElem?_modify]
  cases n.zones[j]? <;> simp [Ne.symm h]

theorem Net.groundAt_some {n : Net} {i : Nat} {g : Ground} (h : n.groundAt i = some g) : ∃ x, n.zones[i]? = some x ∧ x.ground = g := by
  unfold Net.groundAt at h
  rwa [Option.map_eq_some_iff] at h

/-! ## A zone at a time -/

/-- An operation on zone `x` takes its ground fields from `P` to `Q` and leaves every other zone's. -/
def touches (x : Nat) (f : Net → Net) (P Q : Ground → Prop) : Prop :=
  ∀ m, (∀ g, m.groundAt x = some g → P g) → (∀ j, j ≠ x → (f m).groundAt j = m.groundAt j) ∧ ∀ g, (f m).groundAt x = some g → Q g

/-- Repeated over distinct zones. -/
theorem overEach_touches {f : Nat → Net → Net} {P Q : Ground → Prop} (hf : ∀ x, touches x (f x) P Q) (xs : List Nat) (hx : xs.Nodup) (n : Net)
    (h : ∀ x ∈ xs, ∀ g, n.groundAt x = some g → P g) :
    (∀ j, j ∉ xs → (overEach f xs n).groundAt j = n.groundAt j) ∧ ∀ x ∈ xs, ∀ g, (overEach f xs n).groundAt x = some g → Q g := by
  induction xs generalizing n with
  | nil => exact ⟨fun _ _ => rfl, fun x hx => absurd hx (List.not_mem_nil)⟩
  | cons y ys ih =>
    rw [List.nodup_cons] at hx
    obtain ⟨h1, h2⟩ := hf y n (h y (by simp))
    obtain ⟨k1, k2⟩ := ih hx.2 (f y n) (fun x hxs g hg => by
      rw [h1 x (fun e => hx.1 (e ▸ hxs))] at hg
      exact h x (by simp [hxs]) g hg)
    refine ⟨fun j hj => ?_, fun x hxs g hg => ?_⟩
    · rw [List.mem_cons, not_or] at hj
      exact (k1 j hj.2).trans (h1 j hj.1)
    · rcases List.mem_cons.1 hxs with rfl | hxs
      · exact h2 g (((k1 x hx.1).symm.trans (show (overEach f ys (f x n)).groundAt x = some g from hg)))
      · exact k2 x hxs g hg

theorem touches_supplyZone (x : Nat) : touches x (Net.supplyZone x) (fun g => g.1 = .fed) groundOk := by
  intro m hm
  have key : ∀ j, (m.supplyZone x).groundAt j = (m.setZone x (fun y => { y with supply := .supplied, outage := none })).groundAt j := by
    intro j; unfold Net.supplyZone; dsimp only; split <;> rfl
  refine ⟨fun j hj => by rw [key, Net.groundAt_setZone_other _ _ _ _ hj], fun g hg => ?_⟩
  rw [key, Net.groundAt_setZone_self, Option.map_eq_some_iff] at hg
  obtain ⟨y, hy, rfl⟩ := hg
  have hfed : y.fed = .fed := hm y.ground (by unfold Net.groundAt; rw [hy]; rfl)
  constructor <;> simp [Zone.ground, hfed]

theorem touches_repressurise (x : Nat) : touches x (Net.repressurise x) (fun g => g.1 = .fed ∧ g.2.2.isSome = true) groundOk := by
  intro m hm
  have h0 : ∀ g, (m.setZone x (fun y => { y with supply := .repressurised })).groundAt x = some g →
      g.1 = .fed ∧ g.2.1 = .repressurised ∧ g.2.2.isSome = true := by
    intro g hg
    rw [Net.groundAt_setZone_self, Option.map_eq_some_iff] at hg
    obtain ⟨y, hy, rfl⟩ := hg
    obtain ⟨h1, h2⟩ := hm y.ground (by unfold Net.groundAt; rw [hy]; rfl)
    exact ⟨h1, rfl, h2⟩
  unfold Net.repressurise
  dsimp only
  split
  · obtain ⟨h1, h2⟩ := touches_supplyZone x _ (fun g hg => (h0 g hg).1)
    exact ⟨fun j hj => (h1 j hj).trans (Net.groundAt_setZone_other _ _ _ _ hj), h2⟩
  · refine ⟨fun j hj => Net.groundAt_setZone_other _ _ _ _ hj, fun g hg => ?_⟩
    obtain ⟨h1, h2, h3⟩ := h0 g hg
    exact ⟨by rw [h1, h2]; decide, by rw [h2, h3]; decide⟩

theorem touches_loseAgain (x : Nat) : touches x (Net.loseAgain x) (fun g => g.1 = .unfed ∧ g.2.2.isSome = true) groundOk := by
  intro m hm
  have key : ∀ j, (m.loseAgain x).groundAt j = (m.setZone x (fun y => { y with supply := .unfed })).groundAt j := by
    intro j; unfold Net.loseAgain; dsimp only; split <;> rfl
  refine ⟨fun j hj => by rw [key, Net.groundAt_setZone_other _ _ _ _ hj], fun g hg => ?_⟩
  rw [key, Net.groundAt_setZone_self, Option.map_eq_some_iff] at hg
  obtain ⟨y, hy, rfl⟩ := hg
  obtain ⟨h1, h2⟩ := hm y.ground (by unfold Net.groundAt; rw [hy]; rfl)
  simp only [Zone.ground] at h1 h2
  constructor <;> simp [Zone.ground, h1, h2]

theorem touches_gain (x : Nat) : touches x (Net.gain x) (fun g => g.1 = .fed ∧ g.2.2.isSome = true) groundOk := by
  intro m hm
  unfold Net.gain
  split
  · exact touches_repressurise x m hm
  · refine ⟨fun j hj => Net.groundAt_setZone_other _ _ _ _ hj, fun g hg => ?_⟩
    rw [Net.groundAt_setZone_self, Option.map_eq_some_iff] at hg
    obtain ⟨y, hy, rfl⟩ := hg
    obtain ⟨h1, h2⟩ := hm y.ground (by unfold Net.groundAt; rw [hy]; rfl)
    simp only [Zone.ground] at h1 h2
    constructor <;> simp [Zone.ground, h1, h2]

theorem touches_lose (r : Ref) (x : Nat) :
    touches x (fun n => n.setZone x (fun y => { y with supply := .unfed, outage := some r })) (fun g => g.1 = .unfed) groundOk := by
  intro m hm
  refine ⟨fun j hj => Net.groundAt_setZone_other _ _ _ _ hj, fun g hg => ?_⟩
  rw [Net.groundAt_setZone_self, Option.map_eq_some_iff] at hg
  obtain ⟨y, hy, rfl⟩ := hg
  have h1 := hm y.ground (by unfold Net.groundAt; rw [hy]; rfl)
  simp only [Zone.ground] at h1
  constructor <;> simp [Zone.ground, h1]

/-! ## An applied result (R134) -/

theorem Net.groundAt_writeFed (result : List Nat) (n : Net) (i : Nat) :
    (n.writeFed result).groundAt i = (n.groundAt i).map (fun g => (fedOf (decide (i ∈ result)), g.2)) := by
  have hlen : ∀ j, n.zones.length ≤ j → n.groundAt j = none := by
    intro j hj; unfold Net.groundAt; rw [List.getElem?_eq_none hj]; rfl
  have go : ∀ (xs : List Nat), xs.Nodup → ∀ m : Net,
      (overEach (fun z n => n.setZone z (fun x => { x with fed := fedOf (decide (z ∈ result)) })) xs m).groundAt i =
        if i ∈ xs then (m.groundAt i).map (fun g => (fedOf (decide (i ∈ result)), g.2)) else m.groundAt i := by
    intro xs
    induction xs with
    | nil => intro _ m; simp [overEach]
    | cons y ys ih =>
      intro hnd m
      rw [List.nodup_cons] at hnd
      have := ih hnd.2 (m.setZone y (fun x => { x with fed := fedOf (decide (y ∈ result)) }))
      change Net.groundAt (overEach _ ys _) i = _
      rw [this]
      by_cases hy : i = y
      · subst hy
        rw [if_neg hnd.1, if_pos (by simp), Net.groundAt_setZone_self]
        unfold Net.groundAt
        cases m.zones[i]? <;> rfl
      · rw [Net.groundAt_setZone_other _ _ _ _ hy]
        by_cases hys : i ∈ ys <;> simp [hy, hys]
  unfold Net.writeFed
  rw [go _ (List.nodup_range) n]
  by_cases hi : i < n.zones.length
  · rw [if_pos (List.mem_range.2 hi)]
  · rw [if_neg (fun h => hi (List.mem_range.1 h)), hlen i (by omega)]; rfl

theorem Net.mem_idsWhere {α : Type} (xs : List α) (p : α → Bool) (i : Nat) : i ∈ idsWhere xs p ↔ ∃ x, xs[i]? = some x ∧ p x = true := by
  unfold idsWhere
  rw [List.mem_filter, List.mem_range]
  constructor
  · rintro ⟨hi, h⟩
    rw [List.getElem?_eq_getElem hi] at h
    exact ⟨_, List.getElem?_eq_getElem hi, h⟩
  · rintro ⟨x, hx, h⟩
    refine ⟨(List.getElem?_eq_some_iff.1 hx).1, ?_⟩
    rw [hx]; exact h

theorem Net.nodup_idsWhere {α : Type} (xs : List α) (p : α → Bool) : (idsWhere xs p).Nodup := List.nodup_range.filter _

theorem Net.mem_zonesOfClass (n : Net) (p : Supply → Bool) (b : Bool) (result : List Nat) (i : Nat) :
    i ∈ n.zonesOfClass p b result ↔ (∃ g, n.groundAt i = some g ∧ p g.2.1 = true) ∧ decide (i ∈ result) = b := by
  unfold Net.zonesOfClass
  rw [List.mem_filter, Net.mem_idsWhere, decide_eq_true_iff]
  refine and_congr_left (fun _ => ⟨?_, ?_⟩)
  · rintro ⟨x, hx, hp⟩
    exact ⟨x.ground, by unfold Net.groundAt; rw [hx]; rfl, hp⟩
  · rintro ⟨g, hg, hp⟩
    obtain ⟨x, hx, rfl⟩ := Net.groundAt_some hg
    exact ⟨x, hx, hp⟩

theorem Net.nodup_zonesOfClass (n : Net) (p : Supply → Bool) (b : Bool) (result : List Nat) : (n.zonesOfClass p b result).Nodup :=
  (Net.nodup_idsWhere _ _).filter _

theorem Net.groundAt_joinLosses (slot : Nat) (zs : List Nat) (hz : zs.Nodup) (n : Net) (h : ∀ x ∈ zs, ∀ g, n.groundAt x = some g → g.1 = .unfed) :
    (∀ j, j ∉ zs → (n.joinLosses slot zs).groundAt j = n.groundAt j) ∧
      ∀ x ∈ zs, ∀ g, (n.joinLosses slot zs).groundAt x = some g → groundOk g := by
  unfold Net.joinLosses
  dsimp only
  exact overEach_touches (touches_lose (slotRef n.outages slot)) zs hz (n.setOutage slot (Outage.join (n.heldEntries zs))) h

theorem Net.groundAt_linkNew (slot zone : Nat) (n : Net) (j : Nat) : (n.linkNew slot zone).groundAt j = n.groundAt j := by
  have hm : ∀ m i, n.openIncident .supplyLoss 1 zone (((n.zones[zone]?).map (·.gridX)).getD 0) (((n.zones[zone]?).map (·.gridY)).getD 0) =
      some (m, i) → m.zones = n.zones := by
    intro m i e
    unfold Net.openIncident at e
    rw [Option.map_eq_some_iff] at e
    obtain ⟨_, -, e⟩ := e
    cases e; rfl
  have hl : ∀ (m : Net) (r : Ref), (m.linkBoth slot r).zones = m.zones := by
    intro m r
    unfold Net.linkBoth
    rw [Net.setOutage_zones, Net.setIncident_zones]
  apply Net.groundAt_congr
  unfold Net.linkNew
  split
  · split
    · split
      · exact hl _ _
      · rfl
    · rfl
  all_goals
    dsimp only
    split
    · exact (hl _ _).trans (hm _ _ (by assumption))
    · rfl

theorem Net.groundAt_placeLosses (p : LossPlace) (zs : List Nat) (hz : zs.Nodup) (n : Net)
    (h : ∀ x ∈ zs, ∀ g, n.groundAt x = some g → g.1 = .unfed) :
    (∀ j, j ∉ zs → (n.placeLosses p zs).groundAt j = n.groundAt j) ∧
      ∀ x ∈ zs, ∀ g, (n.placeLosses p zs).groundAt x = some g → groundOk g := by
  unfold Net.placeLosses
  split
  · exact ⟨fun _ _ => rfl, fun x hx => absurd hx List.not_mem_nil⟩
  · exact Net.groundAt_joinLosses _ _ hz n h
  · rename_i slot z zs
    have := Net.groundAt_joinLosses slot (z :: zs) hz (n.makeOutage slot) h
    refine ⟨fun j hj => ?_, fun x hx g hg => ?_⟩
    · rw [Net.groundAt_linkNew]; exact this.1 j hj
    · rw [Net.groundAt_linkNew] at hg; exact this.2 x hx g hg

/-- R134, steps 3 to 6: from a net in which losses are placed. -/
theorem Net.zonesAgree_applyRest (before : Net) (result : List Nat) (n : Net) (hb : before.zonesAgree = true)
    (hn : ∀ i g, before.groundAt i = some g → (g.2.1 = .supplied ∧ i ∉ result ∧ ∀ k, n.groundAt i = some k → groundOk k) ∨
      (¬ (g.2.1 = .supplied ∧ i ∉ result) ∧ n.groundAt i = some (fedOf (decide (i ∈ result)), g.2)))
    (hnone : ∀ i, before.groundAt i = none → n.groundAt i = none) : (Net.applyRest before result n).zonesAgree = true := by
  rw [Net.zonesAgree_iff] at hb
  have hE := overEach_touches (fun x => touches_loseAgain x) (before.zonesOfClass Supply.heldFed false result)
    (Net.nodup_zonesOfClass _ _ _ _) n (by
      intro x hx k hk
      rw [Net.mem_zonesOfClass] at hx
      obtain ⟨⟨g, hg, hp⟩, hr⟩ := hx
      have hok := hb x g hg
      rcases hn x g hg with h | h
      · rw [h.1] at hp; exact absurd hp (by decide)
      · rw [h.2] at hk
        cases hk
        refine ⟨by rw [hr]; rfl, ?_⟩
        rw [hok.2]
        intro e; rw [e] at hp; exact absurd hp (by decide))
  obtain ⟨hE1, hE2⟩ := hE
  have hF := overEach_touches (fun x => touches_gain x) (before.zonesOfClass (· == .unfed) true result)
    (Net.nodup_zonesOfClass _ _ _ _) (overEach Net.loseAgain (before.zonesOfClass Supply.heldFed false result) n) (by
      intro x hx k hk
      rw [Net.mem_zonesOfClass] at hx
      obtain ⟨⟨g, hg, hp⟩, hr⟩ := hx
      have hp : g.2.1 = .unfed := by simpa using hp
      have hok := hb x g hg
      rw [hE1 x (by
        rw [Net.mem_zonesOfClass]
        rintro ⟨-, h⟩
        rw [hr] at h; exact absurd h (by decide))] at hk
      rcases hn x g hg with h | h
      · rw [h.1] at hp; exact absurd hp (by decide)
      · rw [h.2] at hk
        cases hk
        refine ⟨by rw [hr]; rfl, ?_⟩
        rw [hok.2, hp]; decide)
  obtain ⟨hF1, hF2⟩ := hF
  unfold Net.applyRest
  dsimp only
  refine Net.zonesAgree_of_ground ((Net.markOutcome_frame (wz := true) (overEach_frame (fun _ _ k => Net.judgeUnmarked_frame k)
    (Net.Frame.rfl))).zones rfl) ?_
  rw [Net.zonesAgree_iff]
  intro i k hk
  by_cases hiF : i ∈ before.zonesOfClass (· == .unfed) true result
  · exact hF2 i hiF k hk
  · rw [hF1 i hiF] at hk
    by_cases hiE : i ∈ before.zonesOfClass Supply.heldFed false result
    · exact hE2 i hiE k hk
    · rw [hE1 i hiE] at hk
      cases hg : before.groundAt i with
      | none => rw [hnone i hg] at hk; cases hk
      | some g =>
        have hok := hb i g hg
        rcases hn i g hg with h | h
        · exact h.2.2 k hk
        · rw [h.2] at hk
          cases hk
          rw [Net.mem_zonesOfClass] at hiE hiF
          have e1 : ¬ (g.2.1.heldFed = true ∧ i ∉ result) := fun e => hiE ⟨⟨g, hg, e.1⟩, decide_eq_false e.2⟩
          have e2 : ¬ (g.2.1 = .unfed ∧ i ∈ result) := fun e => hiF ⟨⟨g, hg, by rw [e.1]; rfl⟩, decide_eq_true e.2⟩
          refine ⟨?_, hok.2⟩
          have h1 := h.1
          revert h1 e1 e2
          by_cases hi : i ∈ result <;> cases g.2.1 <;> simp [hi, fedOf, Supply.heldFed]

/-- R134: an applied result. -/
theorem Net.zonesAgree_applyResult {result : List Nat} {n m : Net} (h : n.zonesAgree = true) (e : n.applyResult result = some m) :
    m.zonesAgree = true := by
  have hw : ∀ i, (n.writeFed result).groundAt i = (n.groundAt i).map (fun g => (fedOf (decide (i ∈ result)), g.2)) :=
    Net.groundAt_writeFed result n
  have hmem : ∀ i g, n.groundAt i = some g → (i ∈ n.zonesOfClass (· == .supplied) false result ↔ g.2.1 = .supplied ∧ i ∉ result) := by
    intro i g hg
    rw [Net.mem_zonesOfClass, decide_eq_false_iff_not]
    refine and_congr_left (fun _ => ⟨?_, fun e => ⟨g, hg, by rw [e]; rfl⟩⟩)
    rintro ⟨k, hk, e⟩
    rw [hg] at hk; cases hk; simpa using e
  unfold Net.applyResult at e
  dsimp only at e
  split at e
  · rename_i hl
    cases e
    refine Net.zonesAgree_applyRest n result _ h ?_ ?_
    · intro i g hg
      right
      refine ⟨fun k => ?_, by rw [hw, hg]; rfl⟩
      have := (hmem i g hg).2 k
      rw [hl] at this; exact absurd this List.not_mem_nil
    · intro i hi; rw [hw, hi]; rfl
  · rw [Option.map_eq_some_iff] at e
    obtain ⟨p, -, rfl⟩ := e
    obtain ⟨k1, k2⟩ := Net.groundAt_placeLosses p (n.zonesOfClass (· == .supplied) false result) (Net.nodup_zonesOfClass _ _ _ _)
      (n.writeFed result) (by
        intro x hx g hg
        rw [hw, Option.map_eq_some_iff] at hg
        obtain ⟨k, hk, rfl⟩ := hg
        have := ((hmem x k hk).1 hx).2
        simp [fedOf, this])
    refine Net.zonesAgree_applyRest n result _ h ?_ ?_
    · intro i g hg
      by_cases hi : i ∈ n.zonesOfClass (· == .supplied) false result
      · exact Or.inl ⟨((hmem i g hg).1 hi).1, ((hmem i g hg).1 hi).2, k2 i hi⟩
      · exact Or.inr ⟨fun e => hi ((hmem i g hg).2 e), by rw [k1 i hi, hw, hg]; rfl⟩
    · intro i hi
      rw [k1 i (by rw [Net.mem_zonesOfClass]; rintro ⟨⟨g, hg, -⟩, -⟩; rw [hi] at hg; cases hg), hw, hi]; rfl

/-! ## Completions, RESTORE, RELIGHT -/

theorem Net.zonesAgree_offerResult {start : BitVec 32} {result : List Nat} {n : Net} (h : n.zonesAgree = true) :
    (n.offerResult start result).zonesAgree = true := by
  unfold Net.offerResult
  split
  · rename_i m e
    unfold Net.applyCompletion at e
    rw [Option.map_eq_some_iff] at e
    obtain ⟨m, e, rfl⟩ := e
    exact (Net.zonesAgree_applyResult h e : m.zonesAgree = true)
  · exact h

theorem Net.zonesAgree_completeReal {n : Net} (h : n.zonesAgree = true) : n.completeReal.zonesAgree = true := by
  unfold Net.completeReal
  split
  · dsimp only
    split
    · exact Net.zonesAgree_offerResult h
    · exact h
  · exact h

theorem Net.zonesAgree_outageSlotFreed {n : Net} (h : n.zonesAgree = true) : n.outageSlotFreed.zonesAgree = true := by
  unfold Net.outageSlotFreed
  split
  · dsimp only
    split
    · exact Net.zonesAgree_offerResult h
    · exact h
  · exact h

theorem Net.zonesAgree_freeRetired {rs : List Retiring} {n : Net} (h : n.zonesAgree = true) : (n.freeRetired rs).zonesAgree = true := by
  have hv : (overEach (fun (r : Retiring) n => n.vacate r.record) rs n).zonesAgree = true :=
    Net.zonesAgree_of_ground ((overEach_frame (wz := true) (fun _ _ k => Net.vacate_frame k) Net.Frame.rfl).zones rfl) h
  unfold Net.freeRetired
  dsimp only
  split
  · exact Net.zonesAgree_outageSlotFreed hv
  · exact hv

theorem Net.zonesAgree_relight {z count : Nat} {x : Zone} {n : Net} (h : n.zonesAgree = true) (hx : n.zones[z]? = some x)
    (hs : x.supply = .repressurised) : (n.relight z count x).zonesAgree = true := by
  have hfed : x.fed = .fed := by
    have := (Net.zonesAgree_iff n).1 h z x.ground (by unfold Net.groundAt; rw [hx]; rfl)
    have h1 := this.1
    simp only [Zone.ground, hs] at h1
    cases hf : x.fed with
    | fed => rfl
    | unfed => rw [hf] at h1; exact absurd (h1.1 rfl) (by decide)
  have claim : ∀ m : Net, m.zones = n.zones →
      (if n.relitOf z + count = x.customers then ((m.mark .ordinary (.zone z)).supplyZone z).judgeSupplied z
        else m.mark .ordinary (.zone z)).zonesAgree = true := by
    intro m hm
    have hmg : (m.mark .ordinary (.zone z)).zonesAgree = true := Net.zonesAgree_of_ground (by rw [Net.mark_zones, hm]) h
    split
    · refine Net.zonesAgree_of_ground ((Net.judgeSupplied_frame (wz := true) Net.Frame.rfl).zones rfl) ?_
      obtain ⟨h1, h2⟩ := touches_supplyZone z (m.mark .ordinary (.zone z)) (by
        intro g hg
        rw [Net.groundAt_congr (show (m.mark .ordinary (.zone z)).zones = n.zones from hm)] at hg
        unfold Net.groundAt at hg
        rw [hx] at hg; cases hg; exact hfed)
      rw [Net.zonesAgree_iff] at hmg ⊢
      intro i g hg
      by_cases hi : i = z
      · subst hi; exact h2 g hg
      · rw [h1 i hi] at hg; exact hmg i g hg
    · exact hmg
  unfold Net.relight
  exact claim _ (by split <;> rfl)

theorem Net.zonesAgree_takeRelight {b : RelightBody} {n : Net} (h : n.zonesAgree = true) : (n.takeRelight b).1.zonesAgree = true := by
  unfold Net.takeRelight
  dsimp only
  split
  · exact h
  · rename_i x hx
    split
    · exact h
    · split
      · exact h
      · rename_i hf
        dsimp only
        refine Net.zonesAgree_relight h hx ?_
        unfold Net.relightFault at hf
        split at hf
        · cases hf
        · rename_i hs
          exact Decidable.not_not.1 hs

/-- What a RESTORE's zones pass through: fed, and either SUPPLIED with no customers, or held. -/
theorem Net.zonesAgree_repressurise_all (zs : List Nat) (n : Net) (h : n.zonesAgree = true)
    (hz : ∀ z ∈ zs, ∀ x, n.zones[z]? = some x → x.fed = .fed ∧ (x.outage.isSome = true ∨ x.customers = 0)) :
    (overEach (fun z n => (n.repressurise z).mark .ordinary (.zone z)) zs n).zonesAgree = true := by
  induction zs generalizing n with
  | nil => exact h
  | cons y ys ih =>
    have key : ∀ (m : Net) (j : Nat) (x : Zone), (m.repressurise y).zones[j]? = some x →
        ∃ w, m.zones[j]? = some w ∧ w.fed = x.fed ∧ w.customers = x.customers ∧
          (j ≠ y → w = x) ∧ (j = y → if w.customers = 0 then x.supply = .supplied ∧ x.outage = none
            else x.supply = .repressurised ∧ x.outage = w.outage) := by
      intro m j x hx
      have hsup : ∀ k : Net, (k.supplyZone y).zones = k.zones.modify y (fun x => { x with supply := .supplied, outage := none }) := by
        intro k; unfold Net.supplyZone; dsimp only; split <;> rfl
      unfold Net.repressurise at hx
      dsimp only at hx
      by_cases hj : y = j
      · subst hj
        cases hw : m.zones[y]? with
        | none =>
          split at hx
          · rw [hsup, Net.setZone_zones, List.getElem?_modify, List.getElem?_modify, hw] at hx; cases hx
          · rw [Net.setZone_zones, List.getElem?_modify, hw] at hx; cases hx
        | some w =>
          refine ⟨w, rfl, ?_⟩
          rw [hw] at hx
          by_cases hc : w.customers = 0
          · rw [if_pos (by simpa using hc), hsup, Net.setZone_zones, List.getElem?_modify, List.getElem?_modify, hw] at hx
            simp only [if_true, Option.map_eq_map, Option.map_some, Option.some.injEq] at hx
            subst hx
            exact ⟨rfl, rfl, fun e => absurd rfl e, fun _ => by rw [if_pos hc]; exact ⟨rfl, rfl⟩⟩
          · rw [if_neg (by simpa using hc), Net.setZone_zones, List.getElem?_modify, hw] at hx
            simp only [if_true, Option.map_eq_map, Option.map_some, Option.some.injEq] at hx
            subst hx
            exact ⟨rfl, rfl, fun e => absurd rfl e, fun _ => by rw [if_neg hc]; exact ⟨rfl, rfl⟩⟩
      · have : m.zones[j]? = some x := by
          split at hx
          · rw [hsup, Net.setZone_zones, List.getElem?_modify, List.getElem?_modify] at hx
            simpa [hj] using hx
          · rw [Net.setZone_zones, List.getElem?_modify] at hx
            simpa [hj] using hx
        exact ⟨x, this, rfl, rfl, fun _ => rfl, fun e => absurd e.symm hj⟩
    refine ih ((n.repressurise y).mark .ordinary (.zone y)) ?_ ?_
    · rw [Net.zonesAgree_iff] at h ⊢
      intro i g hg
      obtain ⟨x, hx, rfl⟩ := Net.groundAt_some hg
      obtain ⟨w, hw, hf, hc, ho, hs⟩ := key n i x hx
      by_cases hi : i = y
      · subst hi
        obtain ⟨k1, k2⟩ := hz i (by simp) w hw
        have hs := hs rfl
        have hxf : x.fed = .fed := by rw [← hf]; exact k1
        by_cases hc0 : w.customers = 0
        · rw [if_pos hc0] at hs
          constructor <;> simp [Zone.ground, hxf, hs.1, hs.2]
        · rw [if_neg hc0] at hs
          have : w.outage.isSome = true := k2.resolve_right hc0
          constructor <;> simp [Zone.ground, hxf, hs.1, hs.2, this]
      · rw [← ho hi]
        exact h i w.ground (by unfold Net.groundAt; rw [hw]; rfl)
    · intro z hzm x hx
      obtain ⟨w, hw, hf, hc, ho, hs⟩ := key n z x hx
      obtain ⟨k1, k2⟩ := hz z (by simp [hzm]) w hw
      refine ⟨by rw [← hf]; exact k1, ?_⟩
      by_cases hi : z = y
      · have hs := hs hi
        by_cases hc0 : w.customers = 0
        · exact Or.inr (by rw [← hc]; exact hc0)
        · rw [if_neg hc0] at hs
          rw [hs.2]
          exact Or.inl (k2.resolve_right hc0)
      · rw [← ho hi]; exact k2

theorem Net.zonesAgree_restoreOutage {slot : Nat} {o : Outage} {n : Net} (h : n.zonesAgree = true) :
    (n.restoreOutage slot o).zonesAgree = true := by
  unfold Net.restoreOutage
  dsimp only
  refine Net.zonesAgree_of_ground ((overEach_frame (wz := true) (fun _ _ k => Net.judgeSupplied_frame k) Net.Frame.rfl).zones rfl) ?_
  refine Net.zonesAgree_repressurise_all _ _ h ?_
  intro z hz x hx
  have hx : n.zones[z]? = some x := hx
  rw [List.mem_filter, hx] at hz
  have hs : x.supply = .refedUncontrolled := by simpa using hz.2
  have hok := (Net.zonesAgree_iff n).1 h z x.ground (by unfold Net.groundAt; rw [hx]; rfl)
  simp only [groundOk, Zone.ground, hs] at hok
  refine ⟨?_, Or.inl (hok.2.2 (by decide))⟩
  cases hf : x.fed with
  | fed => rfl
  | unfed => exact absurd (hok.1.1 hf) (by decide)

theorem Net.zonesAgree_takeRestore {r : Ref} {n : Net} (h : n.zonesAgree = true) : (n.takeRestore r).1.zonesAgree = true := by
  unfold Net.takeRestore
  split
  · exact h
  · split
    · exact Net.zonesAgree_restoreOutage h
    · exact h

end Sys2Proof.Machine
end

