-- ==== Sys2Proof/Laws/Orders.lean ====
section
/-! SUPPORT. An order taken (R157 to R160): what a ready order's event leaves, once for every order, and each order's owner. -/

namespace Sys2Proof.Machine

/-! ## A folio nothing holds -/

theorem List.map_eq_self {α : Type} {f : α → α} {xs : List α} (h : ∀ x ∈ xs, f x = x) : xs.map f = xs := by
  induction xs with
  | nil => rfl
  | cons x xs ih => rw [List.map_cons, h x (by simp), ih (fun y hy => h y (by simp [hy]))]

/-- R158: losing a folio that no trial records changes nothing. -/
theorem Net.loseOrderFolio_self (n : Net) (i : Nat)
    (hp : n.plans.all (fun sl => sl.record.all (fun p => decide (p.folio ≠ some i))) = true)
    (hq : n.survey.queue.all (fun q => !q.holdsFolio i) = true) : n.loseOrderFolio i = n := by
  rw [List.all_eq_true] at hp hq
  have h1 : n.plans.map (Slot.update (fun p => if p.folio = some i then { p with folio := none } else p)) = n.plans := by
    apply List.map_eq_self
    intro sl hsl
    have := hp sl hsl
    obtain ⟨st, se, r⟩ := sl
    cases r with
    | none => rfl
    | some p =>
      have hne : p.folio ≠ some i := by simpa using this
      simp only [Slot.update, Option.map_some, if_neg hne]
  have h2 : n.survey.queue.map (Subject.loseFolio i) = n.survey.queue := by
    apply List.map_eq_self
    intro q hq'
    have := hq q hq'
    cases q with
    | plan r => rfl
    | source s t o r folio =>
      cases folio with
      | none => rfl
      | some f =>
        have hne : f ≠ i := by
          intro e; subst e
          simp [Subject.holdsFolio] at this
        simp only [Subject.loseFolio, if_neg hne]
  unfold Net.loseOrderFolio
  rw [h1, h2]

/-- R158: taking a folio nothing holds moves the cursor and clears the lent list of it. -/
theorem State.reclaim_free (s : State) (i : Nat) (h : s.folioFree i = true) :
    s.reclaim i = s.setExch (fun x => { x with lent := x.lent.filter (fun j => j ≠ i), cursor := some i }) := by
  unfold State.folioFree at h
  simp only [Bool.and_eq_true, decide_eq_true_eq] at h
  obtain ⟨⟨hf, hp⟩, hq⟩ := h
  unfold State.reclaim
  dsimp only
  rw [if_neg hf]
  unfold State.onNet
  rw [show (s.setExch (fun x => { x with lent := x.lent.filter (fun j => j ≠ i), cursor := some i })).net = s.net from rfl,
    Net.loseOrderFolio_self s.net i hp hq]
  rfl

/-! ## The post -/

theorem postBytes_flags (p : Post) (o : Order) : (postBytes p o)[2]? = some (some (if p.notify then 1 else 0)) := rfl

theorem postBytes_length (p : Post) (o : Order) : (postBytes p o).length = 16 + o.bytes.length := by
  unfold postBytes halfBytes
  simp only [List.length_append, List.length_map, List.length_replicate, List.length_cons, List.length_nil]

/-- The state in which the owner gets an order from folio `i`: posted, the cursor moved, the turn TAKEN. -/
def State.begun (s : State) (i : Nat) (p : Post) (o : Order) : State :=
  { s with
    mem := (s.mem.writeOut (s.folioAddr i) (postBytes p o)).writeOut (s.folioAddr i) (out 1 2)
    exch := { s.exch with lent := s.exch.lent.filter (fun j => j ≠ i), cursor := some i } }

/-- What a ready order's event comes to: posted, taken, read, and handed on. -/
theorem State.takeOrder_ready (s : State) (i : Nat) (p : Post) (o : Order) (h : s.ready i p o = true) :
    s.takeOrder p o = (let s1 := ((s.hostPosts i p o).setExch (fun x =>
        { x with lent := x.lent.filter (fun j => j ≠ i), cursor := some i })).serveFolio i (.order o)
      if s1.exch.stall.isSome then s1 else s1.walk i) := by
  unfold State.ready at h
  simp only [Bool.and_eq_true, decide_eq_true_eq] at h
  obtain ⟨⟨⟨⟨h1, h2, h3, h4⟩, hf⟩, hb1, hb2⟩, hl⟩ := h
  unfold State.takeOrder
  rw [h3]
  dsimp only
  rw [if_pos h1]
  have hpo : postedOrder p o = .order o := by
    unfold postedOrder
    rw [if_neg (by omega), if_neg (by omega)]
  unfold State.takeFolio
  rw [hpo, State.reclaim_free (s.hostPosts i p o) i hf]

/-- An owner changes the net or the clock, nothing else. -/
structure State.OwnerOnly (s q : State) : Prop where
  mem : q.mem = s.mem
  exch : q.exch = s.exch
  report : q.report = s.report
  pending : q.pending = s.pending

theorem onNetAnswer_owner (f : Net → Net × Answer) (s : State) : s.OwnerOnly (onNetAnswer f s).1 := ⟨rfl, rfl, rfl, rfl⟩

theorem onNetAnswerLines_owner (f : Net → Net × Answer) (s : State) : s.OwnerOnly (onNetAnswerLines f s).1 := ⟨rfl, rfl, rfl, rfl⟩

theorem onNetResult_owner (f : Net → Net × OrderResult) (s : State) : s.OwnerOnly (onNetResult f s).1 := ⟨rfl, rfl, rfl, rfl⟩

theorem State.runOrder_owner (i : Nat) (o : Order) (s : State) : s.OwnerOnly (s.runOrder i o).1 := by
  cases o
  case clock b =>
    unfold State.runOrder State.takeClock
    dsimp only
    split <;> exact ⟨rfl, rfl, rfl, rfl⟩
  all_goals
    unfold State.runOrder
    dsimp only
    with_reducible first
      | exact onNetAnswer_owner _ s
      | exact onNetAnswerLines_owner _ s
      | exact onNetResult_owner _ s
      | exact ⟨rfl, rfl, rfl, rfl⟩

/-! ## The bytes of an answered folio -/

theorem leNat_leBytes (w n : Nat) : leNat (leBytes w n) = n % 256 ^ w := by
  induction w generalizing n with
  | zero => simp [leBytes, leNat, Nat.mod_one]
  | succ w ih =>
    rw [leBytes, leNat, ih, Nat.pow_succ, Nat.mul_comm (256 ^ w) 256, Nat.mod_mul]
    simp

theorem answerBytes_split (flags : Byte) (stamp : Nat) (a : Answer) :
    ∃ x : OutByte, (∀ k, a.portions = some k → x = some (BitVec.ofNat 8 k)) ∧ answerBytes flags stamp a =
      (some flags :: some (BitVec.ofNat 8 a.code.code) :: none :: none :: some (BitVec.ofNat 8 a.body.length) :: x ::
        (leBytes 8 stamp).map some) ++ a.body := by
  unfold answerBytes
  cases a.portions with
  | none => exact ⟨none, fun k h => absurd h (by simp), rfl⟩
  | some k => exact ⟨some (BitVec.ofNat 8 k), fun j h => by cases h; rfl, rfl⟩

/-- Every byte of a folio after its answer is written, its turn last. -/
theorem Memory.answered_bytes (m : Memory) (x : Nat) (flags : Byte) (stamp : Nat) (a : Answer) (hl : a.body.length ≤ 240) :
    let m' := (m.writeOut (x + 2) (answerBytes flags stamp a)).writeOut x (out 1 3)
    m'.read x = 3 ∧ m'.read (x + 1) = m.read (x + 1) ∧ m'.read (x + 2) = flags ∧ m'.read (x + 3) = BitVec.ofNat 8 a.code.code ∧
      m'.read (x + 4) = m.read (x + 4) ∧ m'.read (x + 5) = m.read (x + 5) ∧ m'.read (x + 6) = BitVec.ofNat 8 a.body.length ∧
      (∀ k, a.portions = some k → m'.read (x + 7) = BitVec.ofNat 8 k) ∧ m'.bytes (x + 8) 8 = leBytes 8 stamp ∧
      (∀ k b, a.body[k]? = some (some b) → m'.read (x + 16 + k) = b) ∧
      (∀ b, b < x ∨ x + 256 ≤ b → m'.read b = m.read b) := by
  intro m'
  obtain ⟨y, hk, hy⟩ := answerBytes_split flags stamp a
  have len : (answerBytes flags stamp a).length = 14 + a.body.length := by
    rw [hy]; simp [leBytes]; omega
  have base : ∀ b, b ≠ x → m'.read b = (m.writeOut (x + 2) (answerBytes flags stamp a)).read b := by
    intro b hb
    show (Memory.writeOut _ x (out 1 3)).read b = _
    rcases Nat.lt_or_gt_of_ne hb with h | h
    · exact Memory.read_writeOut_below _ _ _ _ h
    · exact Memory.read_writeOut_above _ _ _ _ (by simp [out, leBytes]; omega)
  have inner : ∀ k, (m.writeOut (x + 2) (answerBytes flags stamp a)).read (x + 2 + k) =
      (((answerBytes flags stamp a)[k]?).join).getD (m.read (x + 2 + k)) := by
    intro k
    rw [Memory.read_writeOut, if_pos (by omega), Nat.add_sub_cancel_left]
  refine ⟨?_, ?_, ?_, ?_, ?_, ?_, ?_, ?_, ?_, ?_, ?_⟩
  · show (Memory.writeOut _ x (out 1 3)).read x = 3
    rw [Memory.read_writeOut, if_pos (Nat.le_refl _), Nat.sub_self]; rfl
  · rw [base _ (by omega), Memory.read_writeOut_below _ _ _ _ (by omega)]
  · rw [base _ (by omega)]
    have := inner 0
    rw [hy] at this; rw [hy]; exact this
  · rw [base _ (by omega)]
    have := inner 1
    rw [hy] at this; rw [hy]; exact this
  · rw [base _ (by omega)]
    have := inner 2
    rw [hy] at this; rw [hy]; exact this
  · rw [base _ (by omega)]
    have := inner 3
    rw [hy] at this; rw [hy]; exact this
  · rw [base _ (by omega)]
    have := inner 4
    rw [hy] at this; rw [hy]; exact this
  · intro k hp
    rw [base _ (by omega)]
    have := inner 5
    rw [hy, hk k hp] at this; rw [hy, hk k hp]; exact this
  · have k6 := inner 6
    have k7 := inner 7
    have k8 := inner 8
    have k9 := inner 9
    have k10 := inner 10
    have k11 := inner 11
    have k12 := inner 12
    have k13 := inner 13
    rw [hy] at k6 k7 k8 k9 k10 k11 k12 k13
    simp only [Memory.bytes, leBytes]
    rw [base _ (by omega), base _ (by omega), base _ (by omega), base _ (by omega), base _ (by omega), base _ (by omega),
      base _ (by omega), base _ (by omega), hy]
    exact List.cons_eq_cons.2 ⟨k6, List.cons_eq_cons.2 ⟨k7, List.cons_eq_cons.2 ⟨k8, List.cons_eq_cons.2 ⟨k9, List.cons_eq_cons.2
      ⟨k10, List.cons_eq_cons.2 ⟨k11, List.cons_eq_cons.2 ⟨k12, List.cons_eq_cons.2 ⟨k13, rfl⟩⟩⟩⟩⟩⟩⟩⟩
  · intro k b hb
    rw [base _ (by omega)]
    have := inner (14 + k)
    rw [hy, List.getElem?_append_right (by simp [leBytes])] at this
    rw [hy]
    have e : 14 + k - (some flags :: some (BitVec.ofNat 8 a.code.code) :: none :: none :: some (BitVec.ofNat 8 a.body.length) :: y ::
      (leBytes 8 stamp).map some).length = k := by simp [leBytes]
    rw [e, hb] at this
    rw [show x + 16 + k = x + 2 + (14 + k) by omega, this]
    rfl
  · intro b hb
    rw [base _ (by omega)]
    rcases hb with hb | hb
    · exact Memory.read_writeOut_below _ _ _ _ (by omega)
    · exact Memory.read_writeOut_above _ _ _ _ (by rw [len]; omega)

/-- The bytes of a folio the host has posted and the part has turned TAKEN. -/
theorem Memory.posted_bytes (m : Memory) (x : Nat) (p : Post) (o : Order) (ho : o.bytes.length ≤ 240) :
    let m' := (m.writeOut x (postBytes p o)).writeOut x (out 1 2)
    m'.read x = 2 ∧ m'.read (x + 1) = o.kind ∧ m'.read (x + 2) = (if p.notify then 1 else 0) ∧
      m'.read (x + 4) = p.link.extractLsb' 0 8 ∧ m'.read (x + 5) = p.link.extractLsb' 8 8 ∧
      (∀ b, b < x ∨ x + 256 ≤ b → m'.read b = m.read b) := by
  intro m'
  have base : ∀ b, b ≠ x → m'.read b = (m.writeOut x (postBytes p o)).read b := by
    intro b hb
    show (Memory.writeOut _ x (out 1 2)).read b = _
    rcases Nat.lt_or_gt_of_ne hb with h | h
    · exact Memory.read_writeOut_below _ _ _ _ h
    · exact Memory.read_writeOut_above _ _ _ _ (by simp [out, leBytes]; omega)
  have inner : ∀ k, (m.writeOut x (postBytes p o)).read (x + k) = (((postBytes p o)[k]?).join).getD (m.read (x + k)) := by
    intro k
    rw [Memory.read_writeOut, if_pos (by omega), Nat.add_sub_cancel_left]
  refine ⟨?_, ?_, ?_, ?_, ?_, ?_⟩
  · show (Memory.writeOut _ x (out 1 2)).read x = 2
    rw [Memory.read_writeOut, if_pos (Nat.le_refl _), Nat.sub_self]; rfl
  · rw [base _ (by omega)]; exact inner 1
  · rw [base _ (by omega)]; exact inner 2
  · rw [base _ (by omega)]; exact inner 4
  · rw [base _ (by omega)]; exact inner 5
  · intro b hb
    rw [base _ (by omega)]
    rcases hb with hb | hb
    · exact Memory.read_writeOut_below _ _ _ _ hb
    · exact Memory.read_writeOut_above _ _ _ _ (by rw [postBytes_length]; omega)

theorem leNat_halfBytes (x : Half) : leNat [x.extractLsb' 0 8, x.extractLsb' 8 8] = x.toNat := by
  simp only [leNat, BitVec.extractLsb'_toNat]
  have := x.isLt
  simp only [Nat.shiftRight_zero, Nat.reducePow]
  rw [Nat.shiftRight_eq_div_pow]
  omega

/-! ## The walk after an order -/

/-- R157: the walk from a folio that is neither OPEN nor POSTED and whose link is NONE or names a folio. -/
theorem State.walk_on (s : State) (i link : Nat) (ht : 1 < s.turnOf i) (hl : s.linkOf i = link)
    (hk : link = Config.noneHalf ∨ link < s.exch.folioCount) :
    s.walk i = s.setExch (fun x => { x with sweep := some (phaseAfter link) }) := by
  unfold State.walk phaseAfter
  rw [if_neg (by unfold turnPosted; omega), hl]
  by_cases h : link = Config.noneHalf
  · rw [if_pos h, if_pos h]
  · rw [if_neg h, if_neg h, if_neg (by omega)]

/-- R172: what judging STARVED at the end of an event leaves. -/
theorem State.judgeStarved_eq (u : State) :
    u.judgeStarved = { u with exch := { u.exch with cause := u.exch.cause ||| (if u.starving then Cause.starved.bit else 0) } } := by
  unfold State.judgeStarved
  cases hu : u.starving
  · simp
  · rfl

/-- R158: a ready order other than a LEND that its owner answers in the event. -/
theorem State.takeOrder_answered (s : State) (i : Nat) (p : Post) (o : Order) (a : Answer) (h : s.ready i p o = true) (hL : o ≠ .lend)
    (ha : ((s.begun i p o).runOrder i o).2 = .answered a) (hlen : a.body.length ≤ 240) :
    ∃ t, (s.takeOrder p o).concluded = .next t ∧ s.TookAnswered t i p o a ∧ t.net = ((s.begun i p o).runOrder i o).1.net ∧
      t.tod = ((s.begun i p o).runOrder i o).1.tod ∧ t.timeUnset = ((s.begun i p o).runOrder i o).1.timeUnset := by
  have hr := h
  unfold State.ready at h
  simp only [Bool.and_eq_true, decide_eq_true_eq] at h
  obtain ⟨⟨⟨⟨hmode, hreach, hnext, hstall⟩, hfree⟩, hb1, hb2⟩, hlink⟩ := h
  have ho : o.bytes.length ≤ 240 := Nat.le_trans hb1 hb2
  have hbegun : ((s.hostPosts i p o).setExch (fun x => { x with lent := x.lent.filter (fun j => j ≠ i), cursor := some i })).setTurn i
      turnTaken = s.begun i p o := by
    unfold State.setTurn State.put
    rw [show ((s.hostPosts i p o).setExch (fun x =>
      { x with lent := x.lent.filter (fun j => j ≠ i), cursor := some i })).exch.reachable = s.exch.reachable from rfl, hreach]
    rfl
  obtain ⟨b0, b1, b2, b4, b5, bout⟩ := Memory.posted_bytes s.mem (s.folioAddr i) p o ho
  generalize hq : (s.begun i p o).runOrder i o = q at ha ⊢
  obtain ⟨q, res⟩ := q
  simp only at ha
  subst ha
  have hown : (s.begun i p o).OwnerOnly q := by
    have := State.runOrder_owner i o (s.begun i p o)
    rw [hq] at this; exact this
  have hqa : q.folioAddr i = s.folioAddr i := by unfold State.folioAddr; rw [hown.exch]; rfl
  have hqr : q.exch.reachable = true := by rw [hown.exch]; exact hreach
  have hqm : q.mem = (s.begun i p o).mem := hown.mem
  have hserve : ((s.hostPosts i p o).setExch (fun x => { x with lent := x.lent.filter (fun j => j ≠ i), cursor := some i })).serveFolio i
      (.order o) = q.writeAnswer { folio := i, answer := a } := by
    unfold State.serveFolio
    cases o <;> first | exact absurd rfl hL | (simp only [hbegun, hq, State.settleOrder])
  -- the answer written
  have hflagsRead : q.mem.read (q.folioAddr i + 2) = if p.notify then 1 else 0 := by rw [hqa, hqm]; exact b2
  have hnotify : (q.mem.read (q.folioAddr i + 2)).getLsbD 0 = p.notify := by rw [hflagsRead]; cases p.notify <;> rfl
  obtain ⟨c0, c1, c2, c3, c4, c5, c6, cp, c7, c8, cout⟩ :=
    Memory.answered_bytes q.mem (q.folioAddr i) (q.stampedFlags i) q.stamp a hlen
  generalize hM : (q.mem.writeOut (q.folioAddr i + 2) (answerBytes (q.stampedFlags i) q.stamp a)).writeOut (q.folioAddr i) (out 1 3) = M
    at c0 c1 c2 c3 c4 c5 c6 cp c7 c8 cout
  have hw : q.writeAnswer { folio := i, answer := a } =
      { q with mem := M, exch := { q.exch with cause := q.exch.cause ||| (if p.notify then Cause.answer.bit else 0) } } := by
    unfold State.writeAnswer
    rw [if_pos hqr]
    dsimp only
    rw [hnotify]
    have hput : ((q.put (q.folioAddr i + 2) (answerBytes (q.stampedFlags i) q.stamp a)).setTurn i turnAnswered) = { q with mem := M } := by
      unfold State.setTurn State.put
      rw [if_pos hqr]
      rw [if_pos (show ({ q with mem := q.mem.writeOut (q.folioAddr i + 2) (answerBytes (q.stampedFlags i) q.stamp a) } : State).exch.reachable =
        true from hqr)]
      rw [← hM]; rfl
    rw [hput]
    cases p.notify
    · rw [if_neg (by decide)]; simp
    · rfl
  -- the walk
  have hnum : M.number (s.folioAddr i + 4) 2 = p.link.toNat := by
    show leNat [M.read (s.folioAddr i + 4), M.read (s.folioAddr i + 4 + 1)] = _
    rw [← hqa, c4, show q.folioAddr i + 4 + 1 = q.folioAddr i + 5 from rfl, c5, hqm, hqa]
    rw [show (s.begun i p o).mem.read (s.folioAddr i + 4) = _ from b4, show (s.begun i p o).mem.read (s.folioAddr i + 5) = _ from b5]
    exact leNat_halfBytes p.link
  have hstart : s.takeOrder p o = ({ q with mem := M, exch := { q.exch with cause := q.exch.cause ||| (if p.notify then Cause.answer.bit else 0), sweep := some (phaseAfter p.link.toNat) } } : State) := by
    rw [State.takeOrder_ready s i p o hr]
    dsimp only
    rw [hserve, hw]
    have hst : q.exch.stall = none := by rw [hown.exch]; exact hstall
    rw [if_neg (by simp [hst])]
    rw [State.walk_on _ i p.link.toNat]
    · rfl
    · show 1 < (M.read (q.folioAddr i)).toNat
      rw [c0]; decide
    · show M.number (q.folioAddr i + 4) 2 = _
      rw [hqa]; exact hnum
    · show _ ∨ _ < q.exch.folioCount
      rw [hown.exch]; exact hlink
  refine ⟨(s.takeOrder p o).judgeStarved, rfl, ?_⟩
  rw [State.judgeStarved_eq, hstart]
  have hsv : ∀ c : Word, ({ q with mem := M, exch := { q.exch with cause := c, sweep := some (phaseAfter p.link.toNat) } } : State).starving = q.starving :=
    fun _ => rfl
  rw [hsv]
  refine ⟨{ exch := ?_, report := hown.report, pending := hown.pending, memory := ?_, answered := ?_, header := ?_ }, rfl, rfl, rfl⟩
  · simp only [hown.exch, causeAfter, Bool.true_and]
    rw [show ∀ c : Word, ({ q with mem := M, exch := { (s.begun i p o).exch with cause := c, sweep := some (phaseAfter p.link.toNat) } } :
      State).starving = q.starving from fun c => by
        unfold State.starving State.hasWork State.hasFolio; rw [hown.exch]]
    rfl
  · intro b hb
    show M.read b = s.mem.read b
    rw [cout b (by rw [hqa]; exact hb), hqm]
    exact bout b hb
  · have haddr : ∀ c : Word, ({ q with mem := M, exch := { q.exch with cause := c, sweep := some (phaseAfter p.link.toNat) } } :
        State).folioAddr i = q.folioAddr i := fun _ => rfl
    refine ⟨c0, c3, c6, cp, ?_, ?_, c8⟩
    · show (M.read (q.folioAddr i + 2)).getLsbD 1 = q.timeUnset
      rw [c2]
      unfold State.stampedFlags
      rw [hflagsRead]
      cases q.timeUnset <;> cases p.notify <;> rfl
    · show M.number (q.folioAddr i + 8) 8 = q.stamp % 2 ^ 64
      unfold Memory.number
      rw [c7, leNat_leBytes]
      rfl
  · refine ⟨?_, ?_, ?_⟩
    · show M.read (q.folioAddr i + 1) = _
      rw [c1, hqa, hqm]; exact b1
    · show (M.read (q.folioAddr i + 2)).getLsbD 0 = _
      rw [c2]
      unfold State.stampedFlags
      rw [hflagsRead]
      cases q.timeUnset <;> cases p.notify <;> rfl
    · show M.number (q.folioAddr i + 4) 2 = _
      rw [hqa]; exact hnum

/-- R159: a ready order that its owner takes to wait for a trial. -/
theorem State.takeOrder_pending (s : State) (i : Nat) (p : Post) (o : Order) (h : s.ready i p o = true) (hL : o ≠ .lend)
    (ha : ((s.begun i p o).runOrder i o).2 = .pending) :
    ∃ t, (s.takeOrder p o).concluded = .next t ∧ s.TookPending t i p o ∧ t.net = ((s.begun i p o).runOrder i o).1.net ∧
      t.tod = ((s.begun i p o).runOrder i o).1.tod ∧ t.timeUnset = ((s.begun i p o).runOrder i o).1.timeUnset := by
  have hr := h
  unfold State.ready at h
  simp only [Bool.and_eq_true, decide_eq_true_eq] at h
  obtain ⟨⟨⟨⟨hmode, hreach, hnext, hstall⟩, hfree⟩, hb1, hb2⟩, hlink⟩ := h
  have ho : o.bytes.length ≤ 240 := Nat.le_trans hb1 hb2
  have hbegun : ((s.hostPosts i p o).setExch (fun x => { x with lent := x.lent.filter (fun j => j ≠ i), cursor := some i })).setTurn i
      turnTaken = s.begun i p o := by
    unfold State.setTurn State.put
    rw [show ((s.hostPosts i p o).setExch (fun x =>
      { x with lent := x.lent.filter (fun j => j ≠ i), cursor := some i })).exch.reachable = s.exch.reachable from rfl, hreach]
    rfl
  obtain ⟨b0, b1, b2, b4, b5, bout⟩ := Memory.posted_bytes s.mem (s.folioAddr i) p o ho
  generalize hq : (s.begun i p o).runOrder i o = q at ha ⊢
  obtain ⟨q, res⟩ := q
  simp only at ha
  subst ha
  have hown : (s.begun i p o).OwnerOnly q := by
    have := State.runOrder_owner i o (s.begun i p o)
    rw [hq] at this; exact this
  have hqa : q.folioAddr i = s.folioAddr i := by unfold State.folioAddr; rw [hown.exch]; rfl
  have hqm : q.mem = (s.begun i p o).mem := hown.mem
  have hserve : ((s.hostPosts i p o).setExch (fun x => { x with lent := x.lent.filter (fun j => j ≠ i), cursor := some i })).serveFolio i
      (.order o) = q := by
    unfold State.serveFolio
    cases o <;> first | exact absurd rfl hL | (simp only [hbegun, hq, State.settleOrder])
  have hnum : q.mem.number (q.folioAddr i + 4) 2 = p.link.toNat := by
    rw [hqa, hqm]
    show leNat [(s.begun i p o).mem.read (s.folioAddr i + 4), (s.begun i p o).mem.read (s.folioAddr i + 4 + 1)] = _
    rw [show (s.begun i p o).mem.read (s.folioAddr i + 4) = _ from b4, show (s.begun i p o).mem.read (s.folioAddr i + 4 + 1) = _ from b5]
    exact leNat_halfBytes p.link
  have hstart : s.takeOrder p o = ({ q with exch := { q.exch with sweep := some (phaseAfter p.link.toNat) } } : State) := by
    rw [State.takeOrder_ready s i p o hr]
    dsimp only
    rw [hserve]
    have hst : q.exch.stall = none := by rw [hown.exch]; exact hstall
    rw [if_neg (by simp [hst])]
    rw [State.walk_on _ i p.link.toNat]
    · rfl
    · show 1 < (q.mem.read (q.folioAddr i)).toNat
      rw [hqa, hqm, show (s.begun i p o).mem.read (s.folioAddr i) = _ from b0]; decide
    · exact hnum
    · show _ ∨ _ < q.exch.folioCount
      rw [hown.exch]; exact hlink
  refine ⟨(s.takeOrder p o).judgeStarved, rfl, ?_⟩
  rw [State.judgeStarved_eq, hstart]
  refine ⟨{ exch := ?_, report := hown.report, pending := hown.pending, memory := ?_, turn := ?_, header := ?_ }, rfl, rfl, rfl⟩
  · rw [show ∀ c : Word, ({ q with exch := { q.exch with cause := c, sweep := some (phaseAfter p.link.toNat) } } : State).starving =
      q.starving from fun _ => rfl]
    simp only [hown.exch, causeAfter, Bool.false_and]
    rw [show ∀ c : Word, ({ q with exch := { (s.begun i p o).exch with cause := c, sweep := some (phaseAfter p.link.toNat) } } :
      State).starving = q.starving from fun c => by
        unfold State.starving State.hasWork State.hasFolio; rw [hown.exch]]
    simp only [Bool.false_eq_true, if_false]
    rw [show s.exch.cause ||| (0 : Word) = s.exch.cause from BitVec.or_zero]
    rfl
  · intro b hb
    show q.mem.read b = s.mem.read b
    rw [hqm]
    exact bout b hb
  · show q.mem.read (q.folioAddr i) = 2
    rw [hqa, hqm]; exact b0
  · refine ⟨?_, ?_, ?_⟩
    · show q.mem.read (q.folioAddr i + 1) = _
      rw [hqa, hqm]; exact b1
    · show (q.mem.read (q.folioAddr i + 2)).getLsbD 0 = _
      rw [hqa, hqm, show (s.begun i p o).mem.read (s.folioAddr i + 2) = _ from b2]
      cases p.notify <;> rfl
    · exact hnum

end Sys2Proof.Machine
end

