-- ==== Sys2Proof/Laws/Faults.lean ====
section
/-! SUPPORT. What an exchange fault does, and what a bus error on an access of a taken folio leaves of host memory (R163, log 18). -/

namespace Sys2Proof.Machine

/-! ## Out of reach nothing is written (R164) -/

theorem State.put_out (a : Nat) (bs : List OutByte) (s : State) (h : s.exch.reachable = false) : s.put a bs = s := by
  simp [State.put, h]

theorem State.setTurn_out (i turn : Nat) (s : State) (h : s.exch.reachable = false) : s.setTurn i turn = s := s.put_out _ _ h

theorem State.writeAnswer_out (r : Reply) (s : State) (h : s.exch.reachable = false) : s.writeAnswer r = s := by
  simp [State.writeAnswer, h]

theorem State.writeAnswers_out (rs : List Reply) (s : State) (h : s.exch.reachable = false) : overEach State.writeAnswer rs s = s := by
  induction rs with
  | nil => rfl
  | cons r rs ih => exact (congrArg (overEach State.writeAnswer rs) (s.writeAnswer_out r h)).trans ih

theorem State.settleOrder_out_mem (i : Nat) (q : State × OrderResult) (h : q.1.exch.reachable = false) :
    (State.settleOrder i q).mem = q.1.mem := by
  unfold State.settleOrder
  split
  · rw [State.writeAnswer_out _ _ h]
  · rfl
  · rfl

theorem State.serveFolio_out_mem (i : Nat) (o : PostedOrder) (s : State) (h : s.exch.reachable = false) :
    (s.serveFolio i o).mem = s.mem := by
  unfold State.serveFolio
  split
  · rw [State.writeAnswer_out _ _ h]
  · rw [State.setTurn_out _ _ _ h, State.settleOrder_out_mem _ _ h]
  · unfold State.lend
    split
    · rw [State.setTurn_out _ _ _ h]; rfl
    · rw [State.writeAnswer_out _ _ h]
  · rename_i o _
    have k := State.runOrder_owner i o s
    rw [State.setTurn_out _ _ _ h, State.settleOrder_out_mem _ _ (by rw [k.exch]; exact h), k.mem]

/-! ## The exchange fault (R163) -/

theorem State.endInProgress_mem (s : State) : s.endInProgress.mem = s.mem := by unfold State.endInProgress; split <;> rfl

theorem State.endInProgress_exch (s : State) : s.endInProgress.exch = s.exch := by unfold State.endInProgress; split <;> rfl

theorem State.loseFolio_mem (s : State) : s.loseFolio.mem = s.mem := by
  unfold State.loseFolio
  split
  · rfl
  · exact State.endInProgress_mem _

theorem State.loseFolio_exch (s : State) : s.loseFolio.exch = s.exch := by
  unfold State.loseFolio
  split
  · rfl
  · exact State.endInProgress_exch _

theorem State.dropStall_mem (s : State) : s.dropStall.mem = s.mem := by
  unfold State.dropStall
  dsimp only [State.setExch]
  split
  · split <;> rfl
  · rfl

/-- Whatever the mode, an exchange fault writes nothing. -/
theorem State.exchangeFault_mem (c : FaultCode) (s : State) : (s.exchangeFault c).mem = s.mem := by
  unfold State.exchangeFault
  split
  · exact (State.dropStall_mem _).trans (State.loseFolio_mem _)
  · split
    · exact (State.endInProgress_mem _).trans (State.loseFolio_mem _)
    · rfl
  all_goals rfl

/-- R163: in RUNNING the fault takes the part to DETACHED. -/
theorem State.exchangeFault_running (c : FaultCode) (s : State) (h : s.net.mode = .running) :
    (s.exchangeFault c).net.mode = .detached := by
  simp [State.exchangeFault, h, State.onNet]

theorem State.memoryFault_mem (before s : State) : (State.memoryFault before s).mem = s.mem := State.exchangeFault_mem _ _

/-! ## A bus error on a taken folio (log 18) -/

/-- R157: the folio a running sweep takes. -/
theorem State.postedNext_eq_some {s : State} {i : Nat} {o : PostedOrder} :
    s.postedNext = some (i, o) ↔ s.exch.nextFolio = some i ∧ s.net.mode = .running ∧ s.turnOf i = turnPosted ∧ o = s.readFolio i := by
  unfold State.postedNext
  constructor
  · intro e
    split at e
    · rename_i j hj
      split at e
      · rename_i k
        obtain ⟨rfl, rfl⟩ := Prod.mk.inj (Option.some.inj e)
        exact ⟨hj, k.1, k.2, rfl⟩
      · exact nomatch e
    · exact nomatch e
  · rintro ⟨a, b, c, rfl⟩
    rw [a]
    exact if_pos ⟨b, c⟩

theorem State.reclaim_mem (i : Nat) (s : State) : (s.reclaim i).mem = s.mem := by
  unfold State.reclaim
  dsimp only [State.onNet]
  split
  · exact State.loseFolio_mem _
  · rfl

theorem State.reclaim_reachable (i : Nat) (s : State) : (s.reclaim i).exch.reachable = s.exch.reachable := by
  unfold State.reclaim
  dsimp only [State.onNet]
  split
  · rw [State.loseFolio_exch]; rfl
  · rfl

/-- A folio served with the exchange cut off writes nothing. -/
theorem State.cutOff_serves_mem (i : Nat) (o : PostedOrder) (s : State) : ((s.cutOff.reclaim i).serveFolio i o).mem = s.mem := by
  rw [State.serveFolio_out_mem, State.reclaim_mem]
  · rfl
  · rw [State.reclaim_reachable]; rfl

/-- A bus error on the turn TAKEN leaves host memory as it is. -/
theorem State.failTaken_mem (s : State) : s.failTaken.mem = s.mem := by
  unfold State.failTaken
  split
  · split
    · rw [State.memoryFault_mem, State.cutOff_serves_mem]
    · exact State.exchangeFault_mem _ _
  · exact State.exchangeFault_mem _ _

/-- One on the answer leaves the turn TAKEN, where the order has one, and nothing else. -/
theorem State.failAnswer_mem (s : State) (i : Nat) (o : PostedOrder) (h : s.postedNext = some (i, o)) (ht : (s.reclaim i).endsTurn i o = true) :
    s.failAnswer.mem = (s.writeTaken i o).mem := by
  unfold State.failAnswer
  rw [h]
  dsimp only
  rw [if_pos ht, State.memoryFault_mem, State.cutOff_serves_mem]

end Sys2Proof.Machine
end

