-- ==== Sys2Proof/Laws/PerInstr.lean ====
section
/-! SUPPORT. For each command as syntax: the order it posts, if any, has one of the fourteen kinds and a body as long as R185 asks. -/

namespace Sys2Proof.Laws.Operands

open Sys2Proof.Machine

/-- The kind code names an order, and the body holds at least the bytes that order needs. -/
def Statement (i : Instr) : Prop :=
  ∀ p o, postedBy i = some (p, o) →
    1 ≤ o.kind.toNat ∧ ∃ k, orderNeeds[o.kind.toNat - 1]? = some k ∧ k ≤ o.bytes.length

/-- A PLAN body has at least its six-byte head. -/
theorem planHead (b : PlanBody) : 6 ≤ (PlanBody.bytes b).length := by
  simp only [PlanBody.bytes, halfBytes, List.length_append, List.length_cons, List.length_nil]
  omega

/-- Every order has its kind and the bytes it needs. -/
theorem orderBytes (o : Order) : 1 ≤ o.kind.toNat ∧ ∃ k, orderNeeds[o.kind.toNat - 1]? = some k ∧ k ≤ o.bytes.length := by
  cases o with
  | plan b => exact ⟨by simp only [Order.kind]; decide, 6, rfl, planHead b⟩
  | _ => exact ⟨by simp only [Order.kind]; decide, _, rfl, Nat.le_refl _⟩

theorem ofOrder (i : Instr) : Statement i := fun _ o _ => orderBytes o

theorem hardwareReset (straps : Quad Bool) : Statement (.hardwareReset straps) := ofOrder _
theorem timeOfDayPowerOn : Statement .timeOfDayPowerOn := ofOrder _
theorem timeOfDayRollover : Statement .timeOfDayRollover := ofOrder _
theorem xbaseWrite (v : Word) : Statement (.xbaseWrite v) := ofOrder _
theorem identWrite (v : Word) : Statement (.identWrite v) := ofOrder _
theorem runCold (v : Word) : Statement (.runCold v) := ofOrder _
theorem runWarm (v : Word) : Statement (.runWarm v) := ofOrder _
theorem halt (v : Word) : Statement (.halt v) := ofOrder _
theorem look (v : Word) (stores : List HostStore) : Statement (.look v stores) := ofOrder _
theorem causeWrite (v : Word) : Statement (.causeWrite v) := ofOrder _
theorem causeenWrite (v : Word) : Statement (.causeenWrite v) := ofOrder _
theorem startingEnd (stores : List HostStore) : Statement (.startingEnd stores) := ofOrder _
theorem warmStartEnd (stores : List HostStore) : Statement (.warmStartEnd stores) := ofOrder _
theorem haltingEnd : Statement .haltingEnd := ofOrder _
theorem sweepTimerExpiry (stores : List HostStore) : Statement (.sweepTimerExpiry stores) := ofOrder _
theorem sweepEnd (stores : List HostStore) : Statement (.sweepEnd stores) := ofOrder _
theorem memoryFault (at_ : BusAccess) (stores : List HostStore) : Statement (.memoryFault at_ stores) := ofOrder _
theorem call (p : Post) (b : CallBody) : Statement (.call p b) := ofOrder _
theorem attend (p : Post) (b : RefBody) : Statement (.attend p b) := ofOrder _
theorem safe (p : Post) (b : RefBody) : Statement (.safe p b) := ofOrder _
theorem close (p : Post) (b : RefBody) : Statement (.close p b) := ofOrder _
theorem reclass (p : Post) (b : RefBody) (cls : Byte) : Statement (.reclass p b cls) := ofOrder _
theorem ack (p : Post) (b : RefBody) : Statement (.ack p b) := ofOrder _
theorem plan (p : Post) (b : PlanBody) : Statement (.plan p b) := ofOrder _
theorem proceed (p : Post) (b : ProceedBody) : Statement (.proceed p b) := ofOrder _
theorem abandon (p : Post) (b : RefBody) : Statement (.abandon p b) := ofOrder _
theorem restore (p : Post) (b : RefBody) : Statement (.restore p b) := ofOrder _
theorem relight (p : Post) (b : RelightBody) : Statement (.relight p b) := ofOrder _
theorem valveNote (p : Post) (b : NoteBody) : Statement (.valveNote p b) := ofOrder _
theorem source (p : Post) (b : SourceBody) : Statement (.source p b) := ofOrder _
theorem hold (p : Post) (line : Byte) : Statement (.hold p line) := ofOrder _
theorem release (p : Post) (line : Byte) : Statement (.release p line) := ofOrder _
theorem configure (p : Post) (line speed window gap : Byte) : Statement (.configure p line speed window gap) := ofOrder _
theorem role (p : Post) (line role : Byte) : Statement (.role p line role) := ofOrder _
theorem limits (p : Post) (b : LimitsBody) : Statement (.limits p b) := ofOrder _
theorem lend (p : Post) : Statement (.lend p) := ofOrder _
theorem query (p : Post) (b : QueryBody) : Statement (.query p b) := ofOrder _
theorem clock (p : Post) (b : ClockBody) : Statement (.clock p b) := ofOrder _
theorem gapExpiry (line : Fin 4) : Statement (.gapExpiry line) := ofOrder _
theorem idleWaitExpiry (line : Fin 4) : Statement (.idleWaitExpiry line) := ofOrder _
theorem settlingExpiry (line : Fin 4) : Statement (.settlingExpiry line) := ofOrder _
theorem replyFrame (line : Fin 4) (bytes : List Byte) : Statement (.replyFrame line bytes) := ofOrder _
theorem responseWindowExpiry (line : Fin 4) : Statement (.responseWindowExpiry line) := ofOrder _
theorem listenFrame (line : Fin 4) (bytes : List Byte) : Statement (.listenFrame line bytes) := ofOrder _
theorem listenLost (station : Nat) : Statement (.listenLost station) := ofOrder _
theorem replyAgeExpiry (station : Nat) : Statement (.replyAgeExpiry station) := ofOrder _
theorem staleExpiry (point : Nat) : Statement (.staleExpiry point) := ofOrder _
theorem travelLimitExpiry (valve : Nat) : Statement (.travelLimitExpiry valve) := ofOrder _
theorem dwellEnd (valve : Nat) : Statement (.dwellEnd valve) := ofOrder _
theorem realSurveyStart : Statement .realSurveyStart := ofOrder _
theorem realSurveyCompletion : Statement .realSurveyCompletion := ofOrder _
theorem trialStart : Statement .trialStart := ofOrder _
theorem trialCompletion (stores : List HostStore) : Statement (.trialCompletion stores) := ofOrder _
theorem deadlineExpiry (slot : Nat) : Statement (.deadlineExpiry slot) := ofOrder _
theorem reportWrite : Statement .reportWrite := ofOrder _
theorem flushTimerExpiry : Statement .flushTimerExpiry := ofOrder _
theorem pollSent (line : Fin 4) : Statement (.pollSent line) := ofOrder _
theorem replyFrameBegun (line : Fin 4) : Statement (.replyFrameBegun line) := ofOrder _
theorem warmCharterRead (stores : List HostStore) : Statement (.warmCharterRead stores) := ofOrder _
theorem folioTaken (stores : List HostStore) : Statement (.folioTaken stores) := ofOrder _

end Sys2Proof.Laws.Operands
end

