-- ==== Sys2Proof/Laws/Reach.lean ====
section
/-! SUPPORT. The reachable set of R66, over any valves: what `reachedZones` returns is the smallest set closed under joining, so that a real
survey and each prefix of a trial need only say which valves and which sources they count. -/

namespace Sys2Proof.Machine

/-- The nodes joined to a start set by edges, where an edge adds only a zone. -/
inductive Reach (zones : Nat) (edges : List (Nat × Nat)) (start : List Nat) : Nat → Prop where
  | start (x : Nat) : x ∈ start → Reach zones edges start x
  | along (e : Nat × Nat) : e ∈ edges → Reach zones edges start e.1 → e.2 < zones → Reach zones edges start e.2
  | against (e : Nat × Nat) : e ∈ edges → Reach zones edges start e.2 → e.1 < zones → Reach zones edges start e.1

/-- No edge adds a zone. -/
def Joined (zones : Nat) (edges : List (Nat × Nat)) (r : List Nat) : Prop := ∀ e ∈ edges, joinEdge zones r e = r

/-- How many zones a set holds. -/
def zonesIn (zones : Nat) (r : List Nat) : Nat := ((List.range zones).filter (fun z => z ∈ r)).length

theorem zonesIn_le (zones : Nat) (r : List Nat) : zonesIn zones r ≤ zones :=
  Nat.le_trans (List.length_filter_le _ _) (Nat.le_of_eq List.length_range)

theorem zonesIn_cons_lt {zones x : Nat} {r : List Nat} (hx : x < zones) (hr : x ∉ r) : zonesIn zones r < zonesIn zones (x :: r) := by
  have sub : (List.range zones).filter (fun z => z ∈ r) =
      ((List.range zones).filter (fun z => z ∈ x :: r)).filter (fun z => z ∈ r) := by
    rw [List.filter_filter]
    refine List.filter_congr (fun z _ => ?_)
    by_cases h : z ∈ r <;> simp [h]
  unfold zonesIn
  rw [sub]
  refine List.length_filter_lt_length_iff_exists.mpr ⟨x, ?_, by simpa using hr⟩
  simp [hx]

/-- What one edge does: nothing, or it adds one zone. -/
theorem joinEdge_cases (zones : Nat) (r : List Nat) (e : Nat × Nat) :
    joinEdge zones r e = r ∨
      ∃ x, joinEdge zones r e = x :: r ∧ x < zones ∧ x ∉ r ∧ ((x = e.2 ∧ e.1 ∈ r) ∨ (x = e.1 ∧ e.2 ∈ r)) := by
  unfold joinEdge
  split
  · next h => exact Or.inr ⟨_, rfl, h.2.1, h.2.2, Or.inl ⟨rfl, h.1⟩⟩
  · split
    · next h => exact Or.inr ⟨_, rfl, h.2.1, h.2.2, Or.inr ⟨rfl, h.1⟩⟩
    · exact Or.inl rfl

/-- What one pass does: nothing, the set being joined already, or it adds a zone. -/
theorem reachPass_cases (zones : Nat) (edges : List (Nat × Nat)) : ∀ r,
    (Joined zones edges r ∧ reachPass zones edges r = r) ∨ zonesIn zones r < zonesIn zones (reachPass zones edges r) := by
  unfold reachPass Joined
  induction edges with
  | nil => exact fun r => Or.inl ⟨fun _ h => (nomatch h), rfl⟩
  | cons e rest ih =>
    intro r
    rw [List.foldl_cons]
    rcases joinEdge_cases zones r e with h | ⟨x, h, hx, hr, _⟩
    · rw [h]
      rcases ih r with ⟨h1, h2⟩ | h1
      · exact Or.inl ⟨fun d hd => (List.mem_cons.mp hd).elim (fun k => k ▸ h) (h1 d), h2⟩
      · exact Or.inr h1
    · rw [h]
      refine Or.inr (Nat.lt_of_lt_of_le (zonesIn_cons_lt hx hr) ?_)
      rcases ih (x :: r) with ⟨_, h2⟩ | h1
      · rw [h2]
      · exact Nat.le_of_lt h1

/-- A pass over some of the edges adds nothing that is not reached. -/
theorem reachPass_sound {zones : Nat} {edges : List (Nat × Nat)} {start : List Nat} : ∀ (es : List (Nat × Nat)) (r : List Nat),
    (∀ e ∈ es, e ∈ edges) → (∀ x ∈ r, Reach zones edges start x) → ∀ x ∈ reachPass zones es r, Reach zones edges start x := by
  intro es
  induction es with
  | nil => exact fun r _ h => h
  | cons e rest ih =>
    intro r he h
    refine ih (joinEdge zones r e) (fun d hd => he d (List.mem_cons_of_mem _ hd)) ?_
    rcases joinEdge_cases zones r e with k | ⟨x, k, hx, _, hj⟩
    · rw [k]
      exact h
    · rw [k]
      intro y hy
      rcases List.mem_cons.mp hy with rfl | hy
      · rcases hj with ⟨rfl, hm⟩ | ⟨rfl, hm⟩
        · exact .along e (he e List.mem_cons_self) (h _ hm) hx
        · exact .against e (he e List.mem_cons_self) (h _ hm) hx
      · exact h y hy

theorem reachIter_sound {zones : Nat} {edges : List (Nat × Nat)} {start : List Nat} : ∀ (k : Nat) (r : List Nat),
    (∀ x ∈ r, Reach zones edges start x) → ∀ x ∈ reachIter zones edges k r, Reach zones edges start x
  | 0, _, h => h
  | k + 1, r, h => reachIter_sound k _ (reachPass_sound edges r (fun _ he => he) h)

theorem joinEdge_mono (zones : Nat) (r : List Nat) (e : Nat × Nat) : ∀ x ∈ r, x ∈ joinEdge zones r e := by
  intro x hx
  rcases joinEdge_cases zones r e with h | ⟨y, h, _⟩ <;> rw [h]
  · exact hx
  · exact List.mem_cons_of_mem _ hx

theorem reachPass_mono (zones : Nat) : ∀ (edges : List (Nat × Nat)) (r : List Nat), ∀ x ∈ r, x ∈ reachPass zones edges r
  | [], _, _, hx => hx
  | e :: rest, r, x, hx => reachPass_mono zones rest _ x (joinEdge_mono zones r e x hx)

theorem reachIter_mono (zones : Nat) (edges : List (Nat × Nat)) : ∀ (k : Nat) (r : List Nat), ∀ x ∈ r, x ∈ reachIter zones edges k r
  | 0, _, _, hx => hx
  | k + 1, r, x, hx => reachIter_mono zones edges k _ x (reachPass_mono zones edges r x hx)

theorem reachIter_joined {zones : Nat} {edges : List (Nat × Nat)} : ∀ (k : Nat) (r : List Nat), Joined zones edges r →
    reachIter zones edges k r = r
  | 0, _, _ => rfl
  | k + 1, r, h => by
    rcases reachPass_cases zones edges r with ⟨_, h2⟩ | h2
    · rw [reachIter, h2]
      exact reachIter_joined k r h
    · have : reachPass zones edges r = r := by
        unfold reachPass
        clear h2
        induction edges with
        | nil => rfl
        | cons e rest ih =>
          rw [List.foldl_cons, h e List.mem_cons_self]
          exact ih (fun d hd => h d (List.mem_cons_of_mem _ hd))
      rw [reachIter, this]
      exact reachIter_joined k r h

/-- After k passes the set is joined, or it has gained k zones. -/
theorem reachIter_cases {zones : Nat} {edges : List (Nat × Nat)} : ∀ (k : Nat) (r : List Nat),
    Joined zones edges (reachIter zones edges k r) ∨ zonesIn zones r + k ≤ zonesIn zones (reachIter zones edges k r)
  | 0, _ => Or.inr (Nat.le_refl _)
  | k + 1, r => by
    rcases reachPass_cases zones edges r with ⟨h1, _⟩ | h
    · rw [reachIter_joined (k + 1) r h1]
      exact Or.inl h1
    · rcases reachIter_cases k (reachPass zones edges r) with h1 | h1
      · exact Or.inl h1
      · right
        rw [reachIter]
        omega

/-- A set that holds every zone is joined. -/
theorem joined_of_full {zones : Nat} {edges : List (Nat × Nat)} {r : List Nat} (h : zones ≤ zonesIn zones r) : Joined zones edges r := by
  have full : ∀ x, x < zones → x ∈ r := by
    intro x hx
    have : ((List.range zones).filter (fun z => z ∈ r)).length = (List.range zones).length := by
      rw [List.length_range]
      exact Nat.le_antisymm (zonesIn_le zones r) h
    simpa using List.length_filter_eq_length_iff.mp this x (List.mem_range.mpr hx)
  intro e _
  rcases joinEdge_cases zones r e with k | ⟨x, _, hx, hr, _⟩
  · exact k
  · exact absurd (full x hx) hr

/-- A joined set that holds the start holds everything reached. -/
theorem reach_mem_of_joined {zones : Nat} {edges : List (Nat × Nat)} {start r : List Nat} (hs : ∀ x ∈ start, x ∈ r)
    (hj : Joined zones edges r) {x : Nat} (hx : Reach zones edges start x) : x ∈ r := by
  have adds : ∀ e ∈ edges, ∀ y, joinEdge zones r e = y :: r → False := fun e he y h => List.cons_ne_self y r (h.symm.trans (hj e he))
  induction hx with
  | start x h => exact hs x h
  | along e he _ hz ih =>
    refine Classical.byContradiction (fun hn => adds e he e.2 ?_)
    rw [joinEdge, if_pos ⟨ih, hz, hn⟩]
  | against e he _ hz ih =>
    refine Classical.byContradiction (fun hn => adds e he e.1 ?_)
    rw [joinEdge, if_neg (fun h => hn h.1), if_pos ⟨ih, hz, hn⟩]

/-- The reachable set of R66 is the smallest one: a node is in it exactly when edges join it to a LIVE source's node. -/
theorem mem_reachSet {zones : Nat} {edges : List (Nat × Nat)} {live : List Nat} {x : Nat} :
    x ∈ reachSet zones edges live ↔ Reach zones edges (live.map sourceNode) x := by
  refine ⟨fun h => reachIter_sound zones _ (fun y hy => .start y hy) x h, fun h => ?_⟩
  refine reach_mem_of_joined (fun y hy => reachIter_mono zones edges zones _ y hy) ?_ h
  rcases reachIter_cases (edges := edges) zones (live.map sourceNode) with k | k
  · exact k
  · exact joined_of_full (Nat.le_trans (Nat.le_add_left _ _) k)

theorem mem_reachedZones {zones : Nat} {edges : List (Nat × Nat)} {live : List Nat} {z : Nat} :
    z ∈ reachedZones zones edges live ↔ z < zones ∧ Reach zones edges (live.map sourceNode) z := by
  rw [reachedZones, List.mem_filter, List.mem_range, decide_eq_true_eq, mem_reachSet]

end Sys2Proof.Machine
end

