-- ==== Sys2Proof/Tests/Slice0.lean ====
section
/-! SUPPORT. Tests: what well-formedness refuses, one step of each family on a small state, and, for every obligation with hypotheses, a
state and operands that meet them, clause by clause. -/

namespace Sys2Proof.Tests

open Sys2Proof Sys2Proof.Machine

/-! ## A small network -/

def zone0 : Zone :=
  { customers := 10, tier := .low, gridX := 5, gridY := 5, points := [0], valves := [0], fed := .fed, supply := .supplied, outage := none
    summary := some .normal }

def source0 : Source := { point := none, initial := .live, valves := [0], state := .live }

/-- REMOTE at station 0, from source 0 to zone 0, open. -/
def valve0 : Valve :=
  { nodeA := 128, nodeB := 0, kind := .remote, station := some 0, travelLimit := 60, initialPosition := none, position := some 100
    posState := .opened, motion := some .still, closedLimit := some false, openLimit := some true, selector := some .remote
    movedUnplanned := false, noted := false, positionTime := some 0, passing := .passing, claim := none, staged := none, inFlight := none
    dwellEnd := none, stopPending := false, settleNext := false }

/-- MANUAL, between zones 0 and 1. -/
def valve1 : Valve := { valve0 with nodeA := 0, nodeB := 1, kind := .manual, station := none, motion := none, selector := none }

def station0 : Station :=
  { line := 0, address := 60, kind := .combined, pollClass := .fast, points := [0], valve := some 0, status := .online, silent := 0, busy := 0
    backoff := 0, resume := .unknown, lastReply := none, replyRef := 0, lastHeard := none }

def point0 : Point :=
  { station := 0, slot := 0, zone := 0, settings := { ll := 15, l := 19, h := 30, hh := 35, deadband := 1, confirm := 30, stale := 120 }
    value := some 25, quality := .good, band := .normal, pendingBand := none, freshSince := 0 }

def line0 : Line := { Line.atReset true with state := .idle }

def net0 : Net :=
  { Net.atReset ⟨true, true, true, true⟩ with
    mode := .running, now := 1000, valid := true, zones := [zone0, { zone0 with points := [], valves := [1] }], sources := [source0]
    valves := [valve0, valve1], stations := [station0], points := [point0], lines := ⟨line0, line0, line0, line0⟩, plans := freeSlots Plan 2
    incidents := freeSlots Incident 2, outages := freeSlots Outage 2 }

/-- A sweep reads folio 0 of 4 next. -/
def withNet (n : Net) : State :=
  { State.reset with
    exch := { Exchange.atReset with base := 0x400, folioCount := 4, sweep := some .atStart, reachable := true }, net := n }

def s0 : State := withNet net0

/-- Notify, link to folio 1, a body of 240 bytes. -/
def p0 : Post := { notify := true, link := 1, bodyLen := 240 }

def held {α : Type} (x : α) : Slot α := { state := .inUse, serial := 1, record := some x }

def incident0 : Incident :=
  { kind := .escape, cls := 2, zone := 0, anchorX := 5, anchorY := 5, opened := 500, lastCall := some 500, deadline := 7200500, state := .opened
    overdue := false, missed := false, late := false, escalated := false
    calls := [{ ref := 7, kind := .smellOutside, gridX := 5, gridY := 5, time := 500 }], further := 0, points := [], plans := []
    reservations := 0, outage := none, armed := true }

/-- The record of slot 0, whose serial is 1. -/
def ref0 : RefBody := { slot := 0, serial := 1 }

def withIncident (x : Incident) : State := withNet { net0 with incidents := [held x, held { incident0 with state := .closed }] }

/-- One entry, one step to 0, no dwell, at a valve. -/
def plan0 (valve : Nat) : Plan :=
  { incident := { slot := 0, serial := 1 }, outageAccepted := true, refeedAccepted := false, state := .active
    entries := [{ valve := valve, steps := [{ target := 0, dwell := 5, hold := false }], state := .running, current := 0 }]
    running := some 0, block := none, expectedLosses := [], folio := none, acceptedTime := some 600, endedTime := none }

def planRef : Ref := { slot := 0, serial := 1 }

/-- A plan in slot 0 that claims the valve of its one entry. -/
def withPlan (q : Plan) (v : Nat) (x : Valve) : State :=
  withNet { net0 with
    plans := [held q], valves := net0.valves.set v { x with claim := some planRef }
    incidents := [held { incident0 with plans := [planRef] }] }

def staged0 : Staged := { entry := 0, step := 0, target := 0, dwell := 5, awaiting := true }

def flight0 : StepInFlight := { entry := 0, step := 0, tag := 0, target := 0, accepted := none, unverified := false }

def stepBody0 : StepBody := { target := 0, hold := 0, dwell := 5 }

def entryBody0 : EntryBody := { valve := 0, stepCount := 1, steps := ⟨stepBody0, stepBody0, stepBody0, stepBody0⟩ }

def planBody0 : PlanBody := { slot := 0, flags := 1, serial := 1, entryCount := 1, entries := [entryBody0] }

def outage0 (st : OutageState) : Outage :=
  { sequence := 0, cause := .unplanned, incident := some { slot := 0, serial := 1 }, state := st, start := 400, restored := none
    held := [{ zone := 0, customers := 10, relit := 0 }], customersOff := 10 }

/-- Zone 0 in a supply state under the outage of slot 0. -/
def withOutage (st : OutageState) (sup : Supply) (f : FedState) : State :=
  withNet { net0 with
    outages := [held (outage0 st)], incidents := [held incident0]
    zones := [{ zone0 with supply := sup, fed := f, outage := some { slot := 0, serial := 1 } }] }

/-- Line 0 awaits the reply of station 0, its poll sent at 800. -/
def awaiting : Line :=
  { line0 with state := .await, exchange := some { station := 0, function := .read, frame := pollFrame 60 .read }, windowSince := some 800 }

/-- The state a command leaves. -/
def after (c : Instr) (s : State) : State :=
  match exec c s with
  | .next t => t
  | _ => s


/-! ## Well-formedness refuses -/

theorem test_wellFormed_stores_past_the_memory_space : wellFormed (.look 0 [{ addr := 2 ^ 64 - 1, bytes := [1, 2] }]) = false := by decide
theorem test_wellFormed_plan_with_fewer_entries_than_counted : wellFormed (.plan p0 { planBody0 with entryCount := 2 }) = false := by decide
theorem test_wellFormed_frame_longer_than_its_length_byte_can_say :
    wellFormed (.replyFrame 0 (List.replicate 261 0)) = false ∧ wellFormed (.listenFrame 0 (List.replicate 261 0)) = false := by
  decide +kernel
theorem test_wellFormed_station_128 : wellFormed (.listenLost 128) = false ∧ wellFormed (.replyAgeExpiry 128) = false := by decide
theorem test_wellFormed_point_512 : wellFormed (.staleExpiry 512) = false := by decide
theorem test_wellFormed_valve_256 : wellFormed (.travelLimitExpiry 256) = false ∧ wellFormed (.dwellEnd 256) = false := by decide
theorem test_wellFormed_incident_slot_64 : wellFormed (.deadlineExpiry 64) = false := by decide
theorem test_wellFormed_mode_value_of_another_command :
    wellFormed (.runCold 2) = false ∧ wellFormed (.runWarm 0x103) = false ∧ wellFormed (.halt 1) = false ∧ wellFormed (.halt 0x4703) = true := by
  decide
theorem test_wellFormed_accepts : wellFormed (.plan p0 planBody0) = true ∧ wellFormed (.staleExpiry 511) = true := by decide

/-! ## No word spells a command -/

theorem test_decodeTableWord_none : decodeTableWord 32 0x12680 = none ∧ State.withFetchWord State.reset 32 0 = State.reset := by decide +kernel

/-! ## One step of each family -/

/-- The model's own numbers: the check of R188, the settling times of R18. -/
theorem test_crc_of_the_nine_digits : crc16 [0x31, 0x32, 0x33, 0x34, 0x35, 0x36, 0x37, 0x38, 0x39] = 0x29B1 := by decide +kernel
theorem test_settling_times : Speed.settling .b1200 = 166 ∧ Speed.settling .b38400 = 5 := by decide

theorem test_mode_value_that_names_no_command : (after (.halt 4) s0).net.mode = .running ∧ (after (.halt 0xFF03) s0).net.mode = .halting := by
  decide +kernel
theorem test_xbaseWrite : (after (.xbaseWrite 0x12345678) State.reset).exch.xbase = 0x12345400 := by decide +kernel
theorem test_causeWrite_relatches_starved :
    (after (.causeWrite 0x3F) (withNet { net0 with marks := ⟨[], [.zone 0]⟩ })).exch.cause = 8 := by decide +kernel
theorem test_clock :
    (after (.clock p0 { year := 2000, month := 2, day := 29, hour := 0, minute := 0, second := 1, ms := 0 }) s0).tod =
      59 * 86400000 + 1000 := by decide +kernel
theorem test_call_new :
    (after (.call p0 { ref := 9, zone := 0, kind := 1, gridX := 5, gridY := 6 }) s0).net.marks = ⟨[.incident 0], []⟩ := by decide +kernel
theorem test_attend :
    (slotRecord (after (.attend p0 ref0) (withIncident incident0)).net.incidents 0).map (·.state) = some .attending := by decide +kernel
theorem test_plan_queued :
    (after (.plan p0 planBody0) (withIncident incident0)).net.survey.queue = [.plan { slot := 0, serial := 1 }] := by decide +kernel
theorem test_hold : ((after (.hold p0 0) s0).net.line 0).state = .held := by decide +kernel
theorem test_lend : (after (.lend p0) s0).exch.lent = [0] := by decide +kernel
theorem test_survey_result_unfeeds_zone_1 :
    (after .realSurveyCompletion (withNet { net0 with survey := { Survey.atReset with inFlight := some (.real 0 [0]) } })).net.zones.map
      Zone.fed = [.fed, .unfed] := by decide +kernel
theorem test_gap_expiry_reads_the_station :
    ((after (.gapExpiry 0) (withNet { net0 with lines := ⟨{ line0 with state := .gap }, line0, line0, line0⟩ })).net.line 0).exchange.map
      (·.station) = some 0 := by decide +kernel
theorem test_empty_queue_ticks : step State.reset = .next { State.reset with net := { State.reset.net with now := 1 }, tod := 1 } := rfl

/-! ## Hypotheses met: the queue, the registers, sweeps -/

theorem test_hyp_StepRunsFrontCommand : { s0 with pending := [.halt 3] }.pending = Instr.halt 3 :: [] := rfl

theorem test_hyp_ClocksTickAndRestart :
    s0.pending = [] ∧ { s0 with tod := 36525 * 86400000 - 1 }.tod = 36525 * 86400000 - 1 ∧ s0.tod ≠ 36525 * 86400000 - 1 := by decide +kernel

theorem test_hyp_RegisterWrites : State.reset.net.mode = .halted ∧ s0.net.mode ≠ .halted := by decide +kernel

/-- No sweep runs. -/
def idle : State := { s0 with exch := { s0.exch with sweep := none } }

/-- The cursor at folio 1, ANSWERED, which links to `link`. -/
def atCursor (turn link : Byte) : State :=
  { idle with
    exch := { idle.exch with cursor := some 1, sweepTimer := some 1000 }
    mem := [(0x900, turn), (0x904, link), (0x905, if link = 255 then 255 else 1)] }

theorem readable_atCursor (link : Byte) (h : link = 255) : (State.store [] (atCursor 3 link)).chainReadable := by
  subst h
  intro c hc
  obtain rfl : 1 = c := Option.some.inj hc
  decide +kernel

theorem test_hyp_LookAndTimerAskForASweep :
    (State.reset.net.mode ≠ .running ∨ State.reset.exch.stall ≠ none) ∧
    (s0.net.mode = .running ∧ s0.exch.stall = none ∧ s0.exch.sweep ≠ none) ∧
    (idle.net.mode = .running ∧ idle.exch.stall = none ∧ idle.exch.sweep = none ∧ (State.store [] idle).chainReadable) ∧
    (atCursor 3 255).exch.sweepTimer = some 1000 ∧ (atCursor 3 255).net.now = 1000 ∧ (atCursor 3 255).exch.sweep = none ∧
    (State.store [] (atCursor 3 255)).chainReadable ∧ { s0 with exch := { s0.exch with sweepTimer := some 1001 } }.net.now < 1001 :=
  ⟨by decide +kernel, by decide +kernel, ⟨by decide +kernel, by decide +kernel, by decide +kernel, fun c h => nomatch h⟩, rfl, rfl, rfl,
    readable_atCursor 255 rfl, by decide +kernel⟩

theorem test_hyp_SweepEndStartsTimerOrOwedSweep :
    (s0.exch.sweep = some .atStart ∧ s0.exch.nextFolio = some 0 ∧ (State.store [] s0).turnOf 0 ≠ 1 ∧ s0.exch.sweepOwed = false) ∧
    ({ s0 with exch := { s0.exch with sweep := some .ending, sweepOwed := true } }.exch.sweep = some .ending ∧
      (State.store [] { s0 with exch := { s0.exch with sweep := some .ending, sweepOwed := true } }).chainReadable) ∧
    (State.store [{ addr := 0x800, bytes := [1] }] s0).turnOf 0 = 1 :=
  ⟨by decide +kernel, ⟨rfl, fun c h => nomatch h⟩, by decide +kernel⟩

theorem test_hyp_ExchangeFaultsDetachThePart :
    ((atCursor 1 0).net.mode = .running ∧ (atCursor 1 0).exch.stall = none ∧ (atCursor 1 0).exch.sweep = none ∧
      (atCursor 1 0).exch.cursor = some 1 ∧ (State.store [] (atCursor 1 0)).turnOf 1 = 1) ∧
    (2 = (State.store [] (atCursor 2 4)).turnOf 1 ∧ (State.store [] (atCursor 2 4)).linkOf 1 = 260 ∧
      (atCursor 2 4).exch.folioCount ≤ (State.store [] (atCursor 2 4)).linkOf 1) ∧
    s0.exch.startOp = none ∧ (withNet { net0 with mode := .halting }).exch.reachable = true ∧
    (after (.runCold 1) State.reset).exch.startOp = some .cold := by decide +kernel

/-! ## Hypotheses met: start, halt and resume -/

theorem test_hyp_RunColdDiscardsTheRun :
    State.reset.net.mode = .halted ∧ s0.net.mode ≠ .halted ∧ (0xAB01 : Word).toNat % 256 = 1 ∧ (0x100 : Word).toNat % 256 = 0 ∧
      3 < (4 : Word).toNat % 256 ∧ (0xFF02 : Word).toNat % 256 = 2 ∧ (3 : Word).toNat % 256 = 3 := by decide +kernel

/-- A charter of one zone and one source at address 0, signature `g`, version `v`, `f` folios, chain start `c`, counts `z`, `o`, `w`, `x`,
`y`. -/
def charterBytes (g v c z o : Byte) (f w x y : Half) : List Byte :=
  [g, 0x47, 0x32, 0x36, v, 0] ++ halfBytes f ++ [c, 0] ++ halfBytes 10 ++ halfBytes 200 ++ [0, 0] ++
    [0, 8, 0, 0, 0, 0, 0, 0, z, 0, 0, 0, 0, 0, 0, 0] ++ [0, 9, 0, 0, 0, 0, 0, 0, o, 0, 0, 0, 0, 0, 0, 0] ++
    (leBytes 8 0xA00 ++ halfBytes w ++ leBytes 6 0) ++ (leBytes 8 0xB00 ++ halfBytes x ++ leBytes 6 0) ++
    (leBytes 8 0xC00 ++ halfBytes y ++ leBytes 6 0) ++
    (List.replicate 4 ([3, 20, 10, 1] ++ halfBytes 60 ++ [0, 0])).flatten ++ halfBytes 45 ++ halfBytes 120 ++ halfBytes 480 ++
    halfBytes 20 ++ [1, 4]

def memoryOf (bs : List Byte) : Memory := Memory.store [] [{ addr := 0, bytes := bs }]

/-- The charter, and the images of a zone and a source. -/
def goodMemory : Memory :=
  Memory.store (memoryOf (charterBytes 0x53 1 0 1 1 64 0 0 0))
    [{ addr := 0x800, bytes := [10, 0, 0, 0, 5, 0, 5, 0] }, { addr := 0x900, bytes := [255, 255, 0, 0] }]

/-- A cold start that reads from address 0. -/
def starting (m : Memory) : State := { after (.runCold 1) State.reset with mem := m }

theorem test_hyp_StartChecksTheCharterInOrder :
    (memoryOf (charterBytes 0x54 1 0 1 1 64 0 0 0)).bytes 0 4 ≠ [0x53, 0x47, 0x32, 0x36] ∧
    (goodMemory.bytes 0 4 = [0x53, 0x47, 0x32, 0x36] ∧ goodMemory.number 4 2 = 1 ∧ goodMemory.number 6 2 = 64 ∧
      goodMemory.number 8 2 < goodMemory.number 6 2 ∧ goodMemory.number 24 2 = 1 ∧ goodMemory.number 40 2 = 1) ∧
    (memoryOf (charterBytes 0x53 2 0 1 1 64 0 0 0)).number 4 2 = 2 ∧ (memoryOf (charterBytes 0x53 1 0 1 1 4097 0 0 0)).number 6 2 = 4097 ∧
    (memoryOf (charterBytes 0x53 1 64 1 1 64 0 0 0)).number 8 2 = 64 ∧ (memoryOf (charterBytes 0x53 1 0 129 1 64 0 0 0)).number 24 2 = 129 ∧
    (memoryOf (charterBytes 0x53 1 0 1 17 64 0 0 0)).number 40 2 = 17 ∧ (memoryOf (charterBytes 0x53 1 0 1 1 64 257 0 0)).number 56 2 = 257 ∧
    (memoryOf (charterBytes 0x53 1 0 1 1 64 0 129 0)).number 72 2 = 129 ∧
    (memoryOf (charterBytes 0x53 1 0 1 1 64 0 0 513)).number 88 2 = 513 := by decide +kernel

/-- One entry in each image: station kind `k`, point zone `z`, zone tier `t`, source initial state `i`, MANUAL valve at position `p`. -/
def imageMemory (k z t i p : Byte) : Memory :=
  Memory.store (memoryOf (charterBytes 0x53 1 0 1 1 64 1 1 1))
    [{ addr := 0x800, bytes := [10, 0, t, 0, 255, 15, 255, 15] }, { addr := 0x900, bytes := [0, 0, i, 0] },
      { addr := 0xA00, bytes := [128, 0, 1, p, 255, 255, 0, 0] }, { addr := 0xB00, bytes := [3, 250, k, 1, 0, 0, 0, 0] },
      { addr := 0xC00, bytes := [0, 0, 7, z, 15, 0, 19, 0, 30, 0, 255, 255, 5, 0, 60, 0, 16, 14, 0, 0] }]

def images (k z t i p : Byte) : Images := readImages (imageMemory k z t i p) (readCharter (imageMemory k z t i p) 0)

/-- What the images hold. -/
def imagesAre (k z t i p : Byte) : Images where
  zones := [{ customers := 10, tier := t.toNat, gridX := 4095, gridY := 4095 }]
  sources := [{ point := 0, initial := i.toNat }]
  valves := [{ nodeA := 128, nodeB := 0, kind := 1, initial := p.toNat, station := 65535, travel := 0 }]
  stations := [{ line := 3, address := 250, kind := k.toNat, poll := 1 }]
  points := [{ station := 0, slot := 7, zone := z.toNat
               settings := { ll := 15, l := 19, h := 30, hh := 65535, deadband := 5, confirm := 60, stale := 3600 } }]

theorem images_good : images 2 0 2 1 100 = imagesAre 2 0 2 1 100 := by decide +kernel
theorem images_station : images 3 0 2 1 100 = imagesAre 3 0 2 1 100 := by decide +kernel
theorem images_point : images 2 1 2 1 100 = imagesAre 2 1 2 1 100 := by decide +kernel
theorem images_zone : images 2 0 3 1 100 = imagesAre 2 0 3 1 100 := by decide +kernel
theorem images_source : images 2 0 2 2 100 = imagesAre 2 0 2 2 100 := by decide +kernel
theorem images_valve : images 2 0 2 1 101 = imagesAre 2 0 2 1 101 := by decide +kernel

theorem allGood_one {α : Type} {good : List α → α → Prop} {x : α} (h : good [] x) : AllGood good [x] := by
  intro j y hy
  rcases j with _ | j
  · exact Option.some.inj hy ▸ h
  · exact nomatch hy

theorem firstFault_one {α : Type} {good : List α → α → Prop} {x : α} (h : ¬ good [] x) : FirstFault good [x] 0 :=
  ⟨⟨x, rfl, h⟩, fun j _ hj => absurd hj (Nat.not_lt_zero j)⟩

theorem stations_good (z t i p : Byte) : AllGood stationGood (imagesAre 2 z t i p).stations :=
  allGood_one ⟨by decide, by decide, by decide, by decide, by decide, (fun _ h => nomatch h), by decide⟩

theorem points_good (t i p : Byte) : AllGood (pointGood (imagesAre 2 0 t i p)) (imagesAre 2 0 t i p).points :=
  allGood_one ⟨⟨_, rfl, show (2 : Nat) ≠ 1 by decide⟩, show (7 : Nat) ≤ 7 by decide, (fun _ h => nomatch h), Nat.zero_lt_one,
    ⟨by decide, by decide, by decide, by decide, by decide, by decide, by decide, by decide⟩⟩

theorem zones_good (i p : Byte) : AllGood zoneGood (imagesAre 2 0 2 i p).zones :=
  allGood_one ⟨show (2 : Nat) ≤ 2 by decide, show (4095 : Nat) ≤ 4095 by decide, show (4095 : Nat) ≤ 4095 by decide⟩

theorem sources_good (p : Byte) : AllGood (sourceGood (imagesAre 2 0 2 1 p)) (imagesAre 2 0 2 1 p).sources :=
  allGood_one ⟨show (1 : Nat) ≤ 1 by decide, Or.inr Nat.zero_lt_one⟩

theorem test_hyp_StartChecksTheImages :
    FirstFault stationGood (images 3 0 2 1 100).stations 0 ∧
    (AllGood stationGood (images 2 1 2 1 100).stations ∧ FirstFault (pointGood (images 2 1 2 1 100)) (images 2 1 2 1 100).points 0) ∧
    (AllGood (pointGood (images 2 0 3 1 100)) (images 2 0 3 1 100).points ∧ FirstFault zoneGood (images 2 0 3 1 100).zones 0) ∧
    (AllGood zoneGood (images 2 0 2 2 100).zones ∧ FirstFault (sourceGood (images 2 0 2 2 100)) (images 2 0 2 2 100).sources 0) ∧
    (AllGood (sourceGood (images 2 0 2 1 101)) (images 2 0 2 1 101).sources ∧
      FirstFault (valveGood (images 2 0 2 1 101)) (images 2 0 2 1 101).valves 0) ∧
    AllGood (valveGood (images 2 0 2 1 100)) (images 2 0 2 1 100).valves ∧
    ((imageMemory 2 0 2 1 100).number 56 2 = 1 ∧ (imageMemory 2 0 2 1 100).number 72 2 = 1 ∧ (imageMemory 2 0 2 1 100).number 88 2 = 1) := by
  rw [images_good, images_station, images_point, images_zone, images_source, images_valve]
  refine ⟨firstFault_one (fun h => absurd h.2.2.2.1 (by decide)),
    ⟨stations_good _ _ _ _, firstFault_one (fun h => absurd h.2.2.2.1 (by decide))⟩,
    ⟨points_good _ _ _, firstFault_one (fun h => absurd h.1 (by decide))⟩, ⟨zones_good _ _, firstFault_one (fun h => absurd h.1 (by decide))⟩,
    ⟨sources_good _, firstFault_one (fun h => ?_)⟩, allGood_one ?_, by decide +kernel⟩
  · rcases h.2.2.2 with k | k
    · exact absurd k.1 (by decide)
    · exact absurd k.2.2 (by decide)
  · exact ⟨Or.inr ⟨by decide, by decide⟩, Or.inl ⟨by decide, by decide⟩, by decide, Or.inr ⟨rfl, rfl, by decide⟩⟩

theorem test_hyp_StartingEndsInHaltedOrRunning :
    (starting goodMemory).exch.startOp = some .cold ∧ (starting goodMemory).exch.cursor = none ∧
    (startCheck ((starting goodMemory).mem.store []) (starting goodMemory).exch.base).toOption.isSome = true ∧
    startCheck ((starting []).mem.store []) (starting []).exch.base = .error { code := .signature, table := .charter, entry := 0 } := by
  decide +kernel

theorem test_hyp_RunWarmKeepsEveryRecord :
    (0xAB02 : Word).toNat % 256 = 2 ∧
    { net0 with mode := .halted }.valid = true ∧ (withNet { net0 with mode := .detached }).net.mode = .detached ∧
    ¬ ((s0.net.mode = .halted ∧ s0.net.valid = true) ∨ s0.net.mode = .detached) := by decide +kernel

/-- A warm start from HALTED that reads its charter from address 0. -/
def warming (m : Memory) (l : Line) : State :=
  { after (.runWarm 2) (withNet { net0 with mode := .halted, lines := ⟨l, line0, line0, line0⟩ }) with mem := m }

theorem test_hyp_WarmCharterIsCheckedAndTaken :
    (warming [] line0).exch.startOp = some (.warmReading .halted none 0x400) ∧
    (readCharter ((warming [] line0).mem.store []) (warming [] line0).exch.base).fault = some .signature ∧
    (readCharter ((warming goodMemory line0).mem.store []) (warming goodMemory line0).exch.base).fault = none ∧
    ((readCharter goodMemory 0).lines.get 0).params = { speed := .b9600, window := 20, gap := 10 } ∧ line0.params.gap = 10 ∧
    { line0 with state := .await, params := { line0.params with gap := 2 } }.params ≠ ((readCharter goodMemory 0).lines.get 0).params ∧
    { line0 with state := .held, params := { line0.params with gap := 2 } }.state ≠ .await := by decide +kernel

/-- A warm start with no line to wait for: a HELD line, one of them held by order, a dwell that ends later. -/
def warmEnding : State :=
  { withNet { net0 with
      mode := .starting, lines := ⟨{ line0 with state := .held }, { line0 with state := .held, orderHold := true }, line0, line0⟩
      valves := [{ valve0 with dwellEnd := some 1001 }, valve1] } with
    exch := { s0.exch with startOp := some (.warmWaiting .detached), sweep := none } }

theorem test_hyp_WarmStartEndsInRunning :
    (after (.warmCharterRead []) (warming goodMemory line0)).exch.startOp = some (.warmWaiting .halted) ∧
    ((after (.warmCharterRead []) (warming goodMemory { line0 with state := .await, params := { line0.params with gap := 2 } })).net.line
      0).pendingParams ≠ none ∧
    (warmEnding.exch.startOp = some (.warmWaiting .detached) ∧ (∀ l, (warmEnding.net.line l).pendingParams = none) ∧
      warmEnding.net.resumesOk = true ∧ (∀ v ∈ warmEnding.net.valves, ∀ d, v.dwellEnd = some d → warmEnding.net.now < d) ∧
      warmEnding.net.points[0]? = some point0 ∧ point0.quality ≠ .lost ∧ (warmEnding.net.line 0).state = .held ∧
      (warmEnding.net.line 0).orderHold = false ∧ (warmEnding.net.line 1).state = .held ∧ (warmEnding.net.line 1).orderHold = true) := by
  refine ⟨by decide +kernel, by decide +kernel, rfl, by decide +kernel, by decide +kernel, ?_, by decide +kernel⟩
  intro v hv d hd
  rcases List.mem_cons.mp hv with rfl | hv
  · exact Option.some.inj hd ▸ (by decide)
  · obtain rfl := List.mem_singleton.mp hv
    exact nomatch hd

theorem test_hyp_HaltHoldsDrainsAndEnds :
    (3 : Word).toNat % 256 = 3 ∧ s0.net.mode = .running ∧ (State.reset.net.mode ≠ .running ∧ State.reset.net.mode ≠ .detached) ∧
    (after (.halt 3) s0).net.mode = .halting ∧
    (∀ l, ((after (.halt 3) s0).net.line l).role = .listen ∨ ((after (.halt 3) s0).net.line l).state = .held) ∧
    (after (.halt 3) s0).report.drained = true ∧
    (withNet { net0 with mode := .halting }).report.drained = false := by decide +kernel

/-- A CHECKING plan stalled on folio 1, a SOURCE trial of folio 2 queued. -/
def trialsWaiting : State :=
  { withNet { net0 with
      plans := [held { plan0 0 with state := .checking, folio := some 1, running := none }]
      incidents := [held { incident0 with reservations := 1 }]
      survey := { Survey.atReset with queue := [.source 0 .out true false (some 2)] } } with
    exch := { s0.exch with stall := some (.plan 1) } }

theorem test_hyp_HaltEndsTheTrials :
    trialsWaiting.haltedPlans = [planRef] ∧ (findRecord trialsWaiting.net.plans planRef).bind (·.folio) = some 1 ∧
    trialsWaiting.exch.reachable = true ∧ trialsWaiting.report.filling = none ∧ trialsWaiting.exch.lent = [] ∧
    (after (.halt 3) trialsWaiting).net.plans = [{ state := .free, serial := 1, record := none }] ∧
    (after (.halt 3) trialsWaiting).mem.read (trialsWaiting.folioAddr 2) = 3 := by decide +kernel

theorem test_hyp_HaltAnswersTheSourceOrders :
    trialsWaiting.HaltAnswers 2 ∧
      { trialsWaiting with exch := { s0.exch with stall := some (.source 3 0 .live true false) } }.HaltAnswers 3 :=
  ⟨Or.inr (Or.inl ⟨0, .out, true, false, List.Mem.head _⟩), Or.inr (Or.inr ⟨0, .live, true, false, rfl⟩)⟩

/-! ## Hypotheses met: calls and incidents -/

def callOf (kind zone : Byte) : CallBody := { ref := 9, zone := zone, kind := kind, gridX := 4095, gridY := 4095 }

/-- A call at the incident's place. -/
def callHere (kind : Byte) : CallBody := { ref := 9, zone := 0, kind := kind, gridX := 6, gridY := 4 }

theorem test_hyp_CallsAndActsAreChecked :
    (s0.ready 0 p0 (.call (callOf 7 0)) = true ∧ CallKind.ofCode 7 = none ∧ 4095 < { callOf 1 0 with gridX := 4096 }.gridX.toNat) ∧
    (CallKind.ofCode (callOf 6 2).kind.toNat = some .lowPressure ∧ s0.net.zones.length ≤ (callOf 6 2).zone.toNat ∧
      s0.ready 0 p0 (.call (callOf 6 2)) = true) ∧
    (postedBy (.reclass p0 ref0 4) = some (p0, actOrder ref0 4 4) ∧ s0.ready 0 p0 (actOrder ref0 4 4) = true) ∧
    (postedBy (.attend p0 ref0) = some (p0, actOrder ref0 1 0) ∧ findRecord s0.net.incidents (bodyRef ref0) = none) ∧
    (findRecord (withIncident { incident0 with state := .closed }).net.incidents (bodyRef ref0)).map (·.state) = some .closed ∧
    (withIncident { incident0 with state := .closed }).ready 0 p0 (actOrder ref0 5 0) = true := by decide +kernel

/-- The only IN-USE incidents are those of slots 0 and 1. -/
theorem incidentIn_of {x y : Incident} {i : Nat} {z : Incident}
    (h : (withNet { net0 with incidents := [held x, held y] }).net.incidentIn i z) : (i = 0 ∧ z = x) ∨ (i = 1 ∧ z = y) := by
  obtain ⟨sl, h1, _, h3⟩ := h
  rcases i with _ | _ | i
  · obtain rfl : held x = sl := Option.some.inj h1
    exact Or.inl ⟨rfl, (Option.some.inj h3).symm⟩
  · obtain rfl : held y = sl := Option.some.inj h1
    exact Or.inr ⟨rfl, (Option.some.inj h3).symm⟩
  · exact nomatch h1

theorem callGood_here (kind : Byte) (k : CallKind) (h : CallKind.ofCode kind.toNat = some k) (n : Net) (z : Zone) (hz : n.zones[0]? = some z) :
    n.callGood (callHere kind) k z :=
  ⟨h, show (6 : Half).toNat ≤ 4095 by decide, show (4 : Half).toNat ≤ 4095 by decide, hz⟩

theorem latest_here (key : Incident → Time) (p : Nat → Incident → Prop) (x : Incident) (hx : p 0 x)
    (hp : ∀ j y, p j y → j = 0 ∧ y = x) : Latest key p 0 x :=
  ⟨hx, fun j y h => by obtain ⟨rfl, rfl⟩ := hp j y h; exact Or.inr ⟨rfl, Nat.le_refl _⟩⟩

theorem test_hyp_EscapeCallAttachesOrOpens :
    ((withIncident incident0).ready 0 p0 (.call (callHere 1)) = true ∧
      (withIncident incident0).net.callGood (callHere 1) .smellInside zone0 ∧ 2 ≤ net0.params.escalation ∧
      Latest (fun x => x.lastCall.getD 0) ((withIncident incident0).net.CallCandidate (callHere 1)) 0 incident0) ∧
    (s0.net.callGood (callHere 4) .damage zone0 ∧ s0.ready 0 p0 (.call (callHere 4)) = true ∧
      (∀ j x, ¬ s0.net.CallCandidate (callHere 4) j x) ∧ LowestFree s0.net.incidents 0) ∧
    ((∀ j x, ¬ (withIncident { incident0 with state := .closed }).net.CallCandidate (callHere 1) j x) ∧
      ∀ sl ∈ (withIncident { incident0 with state := .closed }).net.incidents, sl.state ≠ .free) := by
  refine ⟨⟨by decide +kernel, callGood_here _ _ rfl _ _ rfl, by decide, latest_here _ _ _ ?_ ?_⟩,
    ⟨callGood_here _ _ rfl _ _ rfl, by decide +kernel, ?_, ⟨⟨_, rfl, rfl⟩, ?_⟩⟩, ?_, by decide +kernel⟩
  · exact ⟨⟨_, rfl, rfl, rfl⟩, by decide, Or.inl rfl, rfl, by decide, 500, rfl, by decide⟩
  · rintro j y ⟨h, h2, _⟩
    rcases incidentIn_of h with ⟨rfl, rfl⟩ | ⟨rfl, rfl⟩
    · exact ⟨rfl, rfl⟩
    · exact absurd rfl h2
  · rintro j x ⟨⟨sl, h1, h2, _⟩, _⟩
    rcases j with _ | _ | j
    · obtain rfl := Option.some.inj h1
      exact nomatch h2
    · obtain rfl := Option.some.inj h1
      exact nomatch h2
    · exact nomatch h1
  · intro j sl h
    exact absurd h (Nat.not_lt_zero j)
  · rintro j x ⟨h, h2, _⟩
    rcases incidentIn_of h with ⟨rfl, rfl⟩ | ⟨rfl, rfl⟩ <;> exact absurd rfl h2

def pressureLow0 : Incident := { incident0 with kind := .pressureLow, lastCall := none, calls := [] }

theorem test_hyp_SupplyCallAttachesOrOpens :
    ((withIncident pressureLow0).ready 0 p0 (.call (callHere 6)) = true ∧
      (withIncident pressureLow0).net.callGood (callHere 6) .lowPressure zone0 ∧ zone0.outage = none ∧
      Latest Incident.opened ((withIncident pressureLow0).net.PressureLowOpen 0) 0 pressureLow0) ∧
    ((∀ j x, ¬ s0.net.PressureLowOpen 0 j x) ∧ s0.net.lowPoints zone0 = [] ∧ s0.net.callGood (callHere 5) .noSupply zone0 ∧
      (withNet { net0 with points := [{ point0 with band := .low }] }).net.lowPoints zone0 = [0]) ∧
    ((withOutage .isolated .unfed .unfed).ready 0 p0 (.call (callHere 5)) = true ∧
      (withOutage .isolated .unfed .unfed).net.zones[0]? =
        some { zone0 with supply := .unfed, fed := .unfed, outage := some { slot := 0, serial := 1 } } ∧
      findRecord (withOutage .isolated .unfed .unfed).net.outages { slot := 0, serial := 1 } = some (outage0 .isolated) ∧
      findRecord (withOutage .isolated .unfed .unfed).net.incidents { slot := 0, serial := 1 } = some incident0) := by
  refine ⟨⟨by decide +kernel, callGood_here _ _ rfl _ _ rfl, rfl, latest_here _ _ _ ?_ ?_⟩,
    ⟨?_, by decide +kernel, callGood_here _ _ rfl _ _ rfl, by decide +kernel⟩, by decide +kernel, rfl, rfl, rfl⟩
  · exact ⟨⟨_, rfl, rfl, rfl⟩, rfl, rfl, by decide⟩
  · rintro j y ⟨h, h2, _, h4⟩
    rcases incidentIn_of h with ⟨rfl, rfl⟩ | ⟨rfl, rfl⟩
    · exact ⟨rfl, rfl⟩
    · exact nomatch h2
  · rintro j x ⟨⟨sl, h1, h2, _⟩, _⟩
    rcases j with _ | _ | j
    · obtain rfl := Option.some.inj h1
      exact nomatch h2
    · obtain rfl := Option.some.inj h1
      exact nomatch h2
    · exact nomatch h1

/-- Zone 0 under an outage that names no incident; `incidents` are the incident slots. -/
def unlinkedOutage (incidents : List (Slot Incident)) : State :=
  let s := withOutage .isolated .unfed .unfed
  { s with net := { s.net with outages := [held { outage0 .isolated with incident := none }], incidents := incidents } }

theorem test_hyp_SupplyCallUnderAnUnlinkedOutage :
    (unlinkedOutage (freeSlots Incident 1)).ready 0 p0 (.call (callHere 5)) = true ∧
    (findRecord (unlinkedOutage (freeSlots Incident 1)).net.outages { slot := 0, serial := 1 }).map (·.incident) = some none ∧
    freeSlot (unlinkedOutage (freeSlots Incident 1)).net.incidents = some 0 ∧
    (∀ sl ∈ (unlinkedOutage [held incident0]).net.incidents, sl.state ≠ .free) ∧
    ∀ sl ∈ (withNet { net0 with incidents := [held incident0] }).net.incidents, sl.state ≠ .free := by decide +kernel

/-- Slot 0 holds an incident of state `st`, and the order of action `a` finds it. -/
def actMet (a : Byte) (st : IncidentState) : Bool :=
  (withIncident { incident0 with state := st }).ready 0 p0 (actOrder ref0 a 0) &&
    decide (findRecord (withIncident { incident0 with state := st }).net.incidents (bodyRef ref0) = some { incident0 with state := st })

theorem test_hyp_AttendAndSafeAnswer :
    actMet 1 .opened = true ∧ actMet 1 .attending = true ∧ actMet 1 .safe = true ∧ actMet 2 .attending = true ∧ actMet 2 .opened = true ∧
      actMet 2 .safe = true := by decide +kernel

theorem test_hyp_CloseNeedsEverythingEnded :
    actMet 3 .safe = true ∧ actMet 3 .attending = true ∧ (∀ r ∈ incident0.plans, False) ∧ incident0.outage = none ∧
      incident0.reservations = 0 := by decide +kernel

theorem test_hyp_ReclassAndAckAnswer :
    (withIncident incident0).ready 0 p0 (actOrder ref0 4 1) = true ∧ (withIncident incident0).ready 0 p0 (actOrder ref0 4 3) = true ∧
      actMet 5 .opened = true ∧ findRecord (withIncident incident0).net.incidents (bodyRef ref0) = some incident0 := by decide +kernel

/-! ## Hypotheses met: plans -/

/-- The entries of the body pass every check of R110 in a net. -/
def entriesPass (n : Net) : Bool :=
  planBody0.entries.all (fun e => decide (1 ≤ e.stepCount.toNat ∧ e.stepCount.toNat ≤ 4) &&
    (orderedEntry e).steps.all (fun st => decide (st.target ≤ 100 ∧ st.dwell ≤ 3600)) && decide (e.valve.toNat < n.valves.length) &&
    (n.valves[e.valve.toNat]?).all (fun x => decide (x.claim = none)) &&
    (n.valveLine e.valve.toNat).all (fun q => decide ((n.line q.1).role = .master)))

theorem entry0_formGood : EntryBody.formGood entryBody0 := by unfold EntryBody.formGood; decide

theorem entry0_good (n : Net) (h : entriesPass n = true) : ∀ e ∈ planBody0.entries,
    EntryBody.formGood e ∧ n.valvePresent e ∧ n.valveUnclaimed e ∧ n.valveMaster e := by
  intro e he
  obtain rfl : e = entryBody0 := List.mem_singleton.mp he
  have k := List.all_eq_true.mp h entryBody0 he
  simp only [Bool.and_eq_true, decide_eq_true_eq] at k
  refine ⟨entry0_formGood, k.1.1.2, fun x hx => ?_, fun l st hl => ?_⟩
  · have := k.1.2
    rw [hx] at this
    simpa using this
  · have := k.2
    rw [hl] at this
    simpa using this

theorem test_hyp_PlanIntakeQueuesATrial :
    (withIncident incident0).ready 0 p0 (.plan planBody0) = true ∧ planBodyOk planBody0 = true ∧
    (∀ e ∈ planBody0.entries, EntryBody.formGood e ∧ (withIncident incident0).net.valvePresent e ∧
      (withIncident incident0).net.valveUnclaimed e ∧ (withIncident incident0).net.valveMaster e) ∧
    LowestFree (withIncident incident0).net.plans 0 ∧
    (withIncident { incident0 with reservations := 3 }).net.mayPlan planBody0 { incident0 with reservations := 3 } ∧
    (withIncident incident0).net.survey.queue.length < 4 :=
  ⟨by decide +kernel, by decide, entry0_good _ (by decide +kernel), ⟨⟨_, rfl, rfl⟩, fun j _ h => absurd h (Nat.not_lt_zero j)⟩,
    ⟨rfl, by decide, by decide⟩, by decide⟩

theorem firstBad_head (ok : EntryBody → Prop) (e : EntryBody) (h : ¬ ok e) : FirstBad ok [e] 0 :=
  ⟨⟨e, rfl, h⟩, fun j _ hj => absurd hj (Nat.not_lt_zero j)⟩

def fiveSteps : EntryBody := { entryBody0 with stepCount := 5 }
def absentValve : EntryBody := { entryBody0 with valve := 2 }
def claimedNet : Net := { net0 with valves := [{ valve0 with claim := some planRef }] }
def listenNet : Net := { net0 with lines := ⟨{ line0 with role := .listen }, line0, line0, line0⟩ }

theorem test_hyp_PlanRefusedAtFirstFault :
    (s0.ready 0 p0 (.plan planBody0) = true ∧ planBodyOk { planBody0 with entryCount := 9, entries := [] } = true) ∧
    FirstBad EntryBody.formGood [fiveSteps] 0 ∧ FirstBad s0.net.valvePresent [absentValve] 0 ∧
    FirstBad claimedNet.valveUnclaimed [entryBody0] 0 ∧ FirstBad listenNet.valveMaster [entryBody0] 0 ∧
    (∀ sl ∈ { net0 with plans := [held (plan0 0)] }.plans, sl.state ≠ .free) ∧ (∃ sl ∈ net0.plans, sl.state = .free) ∧
    findRecord s0.net.incidents { slot := 0, serial := 1 } = none ∧
    findRecord (withIncident { incident0 with state := .closed }).net.incidents { slot := 0, serial := 1 } =
      some { incident0 with state := .closed } ∧
    4 ≤ ({ incident0 with reservations := 4 }.plans.length + { incident0 with reservations := 4 }.reservations) := by
  refine ⟨by decide +kernel, firstBad_head _ _ ?_, firstBad_head _ _ ?_, firstBad_head _ _ ?_, firstBad_head _ _ ?_, by decide +kernel,
    ⟨_, List.mem_cons_self, rfl⟩, rfl, rfl, by decide⟩
  · exact fun h => absurd h.2.1 (by decide)
  · exact fun h => absurd h (by unfold Net.valvePresent; decide +kernel)
  · exact fun h => absurd (h { valve0 with claim := some planRef } rfl) (by decide)
  · exact fun h => absurd (h 0 0 rfl) (by decide +kernel)

theorem runningAt_withPlan0 (q : Plan) (x : Valve) (hr : q.running = some 0) (he : q.entries = (plan0 0).entries) :
    (withPlan q 0 x).net.RunningAt planRef q 0 { valve := 0, steps := [{ target := 0, dwell := 5, hold := false }], state := .running, current := 0 }
      { x with claim := some planRef } := ⟨rfl, hr, by rw [he]; rfl, rfl, rfl⟩

def position255 : ProceedBody := { slot := 0, position := 255, serial := 1 }

/-- A plan of one REMOTE entry in a state, its step staged. -/
def remote (st : PlanState) (awaiting : Bool) : State :=
  withPlan { plan0 0 with state := st } 0 { valve0 with staged := some { staged0 with awaiting := awaiting } }

theorem test_hyp_ProceedEntersTheStagedStep :
    ((remote .holding true).ready 0 p0 (.proceed position255) = true ∧ (remote .blocked false).ready 0 p0 (.proceed position255) = true ∧
      (∀ st aw, ∃ q e ent x, (remote st aw).net.RunningAt planRef q e ent x ∧ q.state = st)) ∧
    (remote .holding true).net.MayEnter 0 { valve0 with staged := some staged0, claim := some planRef } 0 0 ∧
    listedCommand ((remote .holding true).net.line 0).commands 0 ≠ some .stop ∧ (remote .blocked false).net.statusOf 0 = .online ∧
    (remote .blocked true).net.valveLine 0 = some (0, 0) ∧
    ¬ (∀ x ∈ (withPlan { plan0 0 with state := .blocked } 0 { valve0 with stopPending := true }).net.valves, x.stopPending = false) := by
  refine ⟨⟨by decide +kernel, by decide +kernel, fun st aw => ⟨{ plan0 0 with state := st }, 0, _, _, runningAt_withPlan0 _ _ rfl rfl, rfl⟩⟩,
    ⟨rfl, rfl, rfl, by decide +kernel, by decide⟩, by decide +kernel, by decide +kernel, rfl, by decide +kernel⟩

theorem test_hyp_ProceedTakesTheCrewPosition :
    let s := withPlan { plan0 1 with state := .holding } 1 { valve1 with staged := some staged0 }
    s.ready 0 p0 (.proceed position255) = true ∧ s.ready 0 p0 (.proceed { position255 with position := 100 }) = true ∧
    (∃ q e ent x, s.net.RunningAt planRef q e ent x ∧ x.kind = .manual ∧ x.staged = some staged0 ∧ q.state = .holding) ∧
    staged0.dwell ≠ 0 ∧ 100 < (101 : Byte).toNat :=
  ⟨by decide +kernel, by decide +kernel, ⟨_, 0, _, _, ⟨rfl, rfl, rfl, rfl, rfl⟩, rfl, rfl, rfl⟩, by decide, by decide⟩

/-- The refusals, at the ends of the positions refused, for an absent slot, a serial that has gone and a plan in CHECKING. -/
theorem test_hyp_ProceedIsRefused :
    let body (slot position : Byte) (serial : Half) : ProceedBody := { slot := slot, position := position, serial := serial }
    s0.ready 0 p0 (.proceed (body 0 101 1)) = true ∧ s0.ready 0 p0 (.proceed (body 0 254 1)) = true ∧ (254 : Byte).toNat < 255 ∧
    (remote .active false).ready 0 p0 (.proceed (body 0 100 2)) = true ∧
    findRecord (remote .active false).net.plans { slot := 64, serial := 1 } = none ∧
    findRecord (remote .active false).net.plans { slot := 0, serial := 2 } = none ∧
    (findRecord (remote .checking false).net.plans planRef).map (·.state) = some .checking := by decide +kernel

theorem test_hyp_AbandonStopsOrEndsThePlan :
    ((remote .active false).ready 0 p0 (.abandon ref0) = true ∧ findRecord (remote .active false).net.plans (bodyRef ref0) = some (plan0 0) ∧
      ∀ x ∈ (remote .active false).net.valves, x.claim = some (bodyRef ref0) → x.inFlight = none ∧ x.stopPending = false) ∧
    findRecord s0.net.plans (bodyRef ref0) = none ∧ findRecord (remote .complete false).net.plans (bodyRef ref0) ≠ none ∧
    (let s := withPlan (plan0 0) 0 { valve0 with inFlight := some flight0 }
     s.net.valves[0]? = some { valve0 with inFlight := some flight0, claim := some planRef } ∧ s.net.valveLine 0 = some (0, 0) ∧
      (s.net.line 0).role = .master ∧ s.net.statusOf 0 = .online ∧
      ∀ w y, s.net.valves[w]? = some y → y.claim = some (bodyRef ref0) → w = 0) := by
  refine ⟨by decide +kernel, rfl, by decide +kernel, rfl, rfl, rfl, by decide +kernel, ?_⟩
  intro w y h1 h2
  rcases w with _ | _ | w
  · rfl
  · obtain rfl := Option.some.inj h1
    exact nomatch h2
  · exact nomatch h1

theorem test_hyp_ValveNoteSetsThePosition :
    s0.ready 0 p0 (.valveNote { valve := 2, position := 101 }) = true ∧ s0.net.valves.length ≤ (2 : Byte).toNat ∧
    claimedNet.valves[0]? = some { valve0 with claim := some planRef } ∧ s0.net.valveLine 0 = some (0, 0) ∧ s0.net.statusOf 0 ≠ .lost ∧
    s0.net.valves[1]? = some valve1 ∧ s0.net.valveLine 1 = none ∧
    (withNet { net0 with stations := [{ station0 with status := .siteOut }] }).net.statusOf 0 = .siteOut := by decide +kernel

/-- A TRAVELLING valve of 60 s accepted at 0. -/
def travelling : State :=
  let s := withPlan (plan0 0) 0 { valve0 with inFlight := some { flight0 with accepted := some 0 } }
  { s with net := { s.net with now := 60000 } }

theorem test_hyp_TravelLimitBlocksAndStops :
    (∃ q e ent x, travelling.net.RunningAt planRef q e ent x ∧ q.state = .active ∧ x.staged = none ∧
      x.inFlight = some { flight0 with accepted := some 0 }) ∧
    travelling.net.valveLine 0 = some (0, 0) ∧ (travelling.net.line 0).role = .master ∧ 0 + 1000 * valve0.travelLimit ≤ travelling.net.now ∧
    { net0 with now := 59999 }.now < 0 + 1000 * valve0.travelLimit :=
  ⟨⟨_, 0, _, _, ⟨rfl, rfl, rfl, rfl, rfl⟩, rfl, rfl, rfl⟩, by decide +kernel⟩

theorem test_hyp_DwellEndStagesOrCompletes :
    (let s := withPlan (plan0 0) 0 { valve0 with dwellEnd := some 1000 }
     (∃ q e ent x, s.net.RunningAt planRef q e ent x ∧ ent.state = .running ∧ x.dwellEnd = some 1000 ∧ ent.steps.length ≤ ent.current + 1 ∧
       q.entries.length = e + 1) ∧ 1000 ≤ s.net.now ∧ s.net.now < 1001) ∧
    (let q : Plan := { plan0 1 with
       entries := [{
         valve := 1, steps := [{ target := 0, dwell := 5, hold := false }, { target := 9, dwell := 0, hold := false }]
         state := .running, current := 0 }] }
     let s := withPlan q 1 { valve1 with dwellEnd := some 1000 }
     (∃ e ent x nx, s.net.RunningAt planRef q e ent x ∧ ent.steps[ent.current + 1]? = some nx ∧ x.kind = .manual) ∧
       s.net.valveLine 1 = none) ∧
    (withPlan (plan0 0) 0 valve0).net.MayEnter 0 { valve0 with claim := some planRef } 0 0 :=
  ⟨⟨⟨_, 0, _, _, ⟨rfl, rfl, rfl, rfl, rfl⟩, rfl, rfl, by decide, rfl⟩, by decide +kernel⟩,
    ⟨⟨0, _, _, _, ⟨rfl, rfl, rfl, rfl, rfl⟩, rfl, rfl⟩, rfl⟩, ⟨rfl, rfl, rfl, by decide +kernel, by decide⟩⟩

/-- Valve 0 of a plan is what PROCEED sees at a station with status `z` on a line of role `r`. -/
def remoteAt (st : PlanState) (awaiting : Bool) (z : Status) (r : Role) (sel : Selector) : State :=
  let s := withPlan { plan0 0 with state := st } 0 { valve0 with staged := some { staged0 with awaiting := awaiting }, selector := some sel }
  { s with net := { s.net with
      stations := [{ station0 with status := z }], lines := ⟨{ line0 with role := r }, line0, line0, line0⟩ } }

/-- A BLOCKED plan in whose valve no step is staged, its dwell not over. -/
def dwelling : State := withPlan { plan0 0 with state := .blocked } 0 { valve0 with dwellEnd := some 1001 }

/-- What `Cleared` asks of a REMOTE valve 0 at station 0. -/
theorem cleared_of {n : Net} {x : Valve} (hx : n.valves[0]? = some x) (hs : x.selector ≠ some .atSite) (hp : x.stopPending = false)
    (hl : n.valveLine 0 = some (0, 0)) (ho : n.statusOf 0 = .online) (hm : (n.line 0).role = .master) : n.Cleared 0 := by
  intro y hy
  obtain rfl := Option.some.inj (hx.symm.trans hy)
  refine Or.inr ⟨hs, hp, fun l st h => ?_⟩
  obtain ⟨rfl, rfl⟩ := Prod.mk.inj (Option.some.inj (hl.symm.trans h))
  exact ⟨ho, hm⟩

theorem test_hyp_ProceedOnABlockedPlan :
    ((remoteAt .holding true .online .listen .remote).net.EntryFails { valve0 with staged := some staged0 } 0 0 .lineUnavailable ∧
      (remoteAt .holding true .siteOut .master .remote).net.EntryFails { valve0 with staged := some staged0 } 0 0 .stationLost ∧
      (remoteAt .holding true .online .master .atSite).net.EntryFails { valve0 with staged := some staged0, selector := some .atSite } 0 0
        .atSite) ∧
    (∀ z r sel, ∃ q e ent x, (remoteAt .holding true z r sel).net.RunningAt planRef q e ent x ∧ q.state = .holding ∧
      x.staged = some staged0 ∧ x.inFlight = none) ∧
    ¬ (remoteAt .blocked true .lost .master .remote).net.Cleared 0 ∧ (remoteAt .blocked true .online .master .remote).net.Cleared 0 ∧
    (∃ q e ent x, (remoteAt .blocked true .online .master .remote).net.RunningAt planRef q e ent x ∧ q.state = .blocked ∧ q.block = none ∧
      x.staged = some staged0 ∧ staged0.awaiting = true) ∧
    dwelling.net.Cleared 0 ∧ (∃ q e ent x, dwelling.net.RunningAt planRef q e ent x ∧ q.state = .blocked ∧ x.staged = none ∧
      x.dwellEnd = some 1001) ∧ dwelling.net.now < 1001 ∧
    dwelling.ready 0 p0 (.proceed position255) = true ∧
    (remoteAt .holding true .siteOut .master .remote).ready 0 p0 (.proceed position255) = true := by
  refine ⟨⟨Or.inl ⟨rfl, rfl⟩, Or.inr (Or.inl ⟨rfl, Or.inr rfl, rfl⟩), Or.inr (Or.inr ⟨rfl, by decide +kernel, rfl, rfl⟩)⟩,
    fun z r sel => ⟨_, 0, _, _, ⟨rfl, rfl, rfl, rfl, rfl⟩, rfl, rfl, rfl⟩, ?_, cleared_of rfl (by decide) rfl rfl rfl rfl,
    ⟨_, 0, _, _, ⟨rfl, rfl, rfl, rfl, rfl⟩, rfl, rfl, rfl, rfl⟩, cleared_of rfl (by decide) rfl rfl rfl rfl,
    ⟨_, 0, _, _, ⟨rfl, rfl, rfl, rfl, rfl⟩, rfl, rfl, rfl⟩, by decide, by decide +kernel, by decide +kernel⟩
  intro h
  rcases h _ rfl with k | ⟨_, _, k⟩
  · exact nomatch k
  · exact absurd (k 0 0 rfl).1 (by decide +kernel)

/-- An ABANDON of a plan whose one valve has a STOP pending. -/
theorem test_hyp_AbandonWithAStopPending :
    let s := withPlan { plan0 0 with state := .blocked } 0 { valve0 with stopPending := true }
    s.ready 0 p0 (.abandon ref0) = true ∧ s.net.valves[0]? = some { valve0 with stopPending := true, claim := some planRef } ∧
    ∀ w y, s.net.valves[w]? = some y → y.claim = some (bodyRef ref0) → w = 0 := by
  refine ⟨by decide +kernel, rfl, ?_⟩
  intro w y h1 h2
  rcases w with _ | _ | w
  · rfl
  · obtain rfl := Option.some.inj h1
    exact nomatch h2
  · exact nomatch h1

/-- A REMOTE plan's valve 0 read by line 0. -/
def readingPlan (x : Valve) : State :=
  let s := withPlan (plan0 0) 0 x
  { s with net := { s.net with lines := ⟨awaiting, line0, line0, line0⟩ } }

theorem test_hyp_ReadingsOfAClaimedValve :
    (∀ x : Valve, ∃ q i ent, (readingPlan x).net.RunningAt planRef q i ent { x with claim := some planRef } ∧ q.state = .active ∧
      ent.state = .running ∧ ent.valve = 0 ∧ ((q.stepAt 0 0).map (·.dwell)).getD 0 = 5) ∧
    (∀ x : Valve, ((readingPlan x).net.line 0).role = .master ∧ ((readingPlan x).net.line 0).state = .await ∧
      ((readingPlan x).net.line 0).windowSince ≠ none ∧ (readingPlan x).net.stations[0]? = some station0 ∧
      ((readingPlan x).net.line 0).exchange.map (fun e => (e.station, e.function)) = some (0, .read) ∧
      0 < (readingPlan x).net.replyAgeLimit station0) ∧
    (station0.kind ≠ .pressure ∧ station0.valve = some 0) ∧
    ((100 : Byte).toNat ≤ 100 ∧ (0x0C : Byte).toNat % 4 ≠ 3 ∧ (0x0C : Byte).getLsbD 4 = false ∧ (0x14 : Byte).getLsbD 4 = true) ∧
    ((0x14 : Byte).toNat % 4 = 0 ∧ (valve0.afterReading 1000 (0, 0x14)).posState = .closed ∧
      (valve0.afterReading 1000 (0, 0x10)).posState ≠ .closed ∧ 7 ≤ 5 + 2 ∧ (0x11 : Byte).toNat % 4 ≠ 0) ∧
    valve0.Moved (97, 0x18) ∧ ¬ valve0.Moved (98, 0x18) ∧ ¬ { valve0 with settleNext := true }.Moved (0, 0x14) ∧
    ¬ { valve0 with position := none }.Moved (0, 0x14) ∧ ¬ { valve0 with noted := true }.Moved (0, 0x14) := by
  refine ⟨fun x => ⟨_, 0, _, ⟨rfl, rfl, rfl, rfl, rfl⟩, rfl, rfl, rfl, rfl⟩, fun x => ⟨rfl, rfl, (fun h => nomatch h), rfl, rfl,
    show 0 < 120 by decide⟩, by decide, by decide, by decide, ⟨rfl, rfl, 100, rfl, by decide⟩, ?_, ?_, ?_, ?_⟩
  · rintro ⟨_, _, p, hp, h⟩
    obtain rfl := Option.some.inj hp
    revert h
    decide
  · rintro ⟨h, _⟩
    exact nomatch h
  · rintro ⟨_, _, p, hp, _⟩
    exact nomatch hp
  · rintro ⟨_, h, _⟩
    exact nomatch h

/-- A plan whose running entry at valve `v` has steps `steps`, its dwell over, followed by `rest`. -/
def dwellOver (v : Nat) (x : Valve) (steps : List PlanStep) (rest : List PlanEntry) : State :=
  withPlan { plan0 v with entries := { valve := v, steps := steps, state := .running, current := 0 } :: rest } v
    { x with dwellEnd := some 1000 }

def stepTo (target : Nat) (hold : Bool) : PlanStep := { target := target, dwell := 5, hold := hold }

def waitingAt (v : Nat) (hold : Bool) : PlanEntry := { valve := v, steps := [stepTo 9 hold], state := .waiting, current := 0 }

theorem test_hyp_DwellEndEntersTheNextStep :
    (let s := dwellOver 0 valve0 [stepTo 5 false, stepTo 7 false] []
     (∃ q e ent x, s.net.RunningAt planRef q e ent x ∧ q.state = .active ∧ ent.state = .running ∧ x.dwellEnd = some 1000 ∧
       ent.steps[ent.current + 1]? = some (stepTo 7 false) ∧ x.stopPending = false ∧ s.net.MayEnter ent.valve x 0 0) ∧
     listedCommand (s.net.line 0).commands 0 ≠ some .stop ∧ s.net.now = 1000) ∧
    (let s := dwellOver 0 valve0 [stepTo 5 false] [waitingAt 1 false]
     (∃ q e ent next x y, s.net.RunningAt planRef q e ent x ∧ q.entries[e + 1]? = some next ∧ ent.steps.length ≤ ent.current + 1 ∧
       next.steps[next.current]? = some (stepTo 9 false) ∧ (s.net.valves.set ent.valve { x with dwellEnd := none })[next.valve]? = some y ∧
       y.kind = .manual) ∧ s.net.valveLine 1 = none) ∧
    (∀ hold, let s := dwellOver 1 valve1 [stepTo 5 false] [waitingAt 0 hold]
     (∃ q e ent next x y, s.net.RunningAt planRef q e ent x ∧ q.state = .active ∧ q.entries[e + 1]? = some next ∧
       ent.steps.length ≤ ent.current + 1 ∧ next.steps[next.current]? = some (stepTo 9 hold) ∧
       (s.net.valves.set ent.valve { x with dwellEnd := none })[next.valve]? = some y ∧ y.stopPending = false ∧
       s.net.MayEnter next.valve y 0 0) ∧ listedCommand (s.net.line 0).commands 0 ≠ some .stop) := by
  refine ⟨⟨⟨_, 0, _, _, ⟨rfl, rfl, rfl, rfl, rfl⟩, rfl, rfl, rfl, rfl, rfl, ⟨rfl, rfl, rfl, by decide +kernel, by decide⟩⟩, by decide +kernel, rfl⟩,
    ⟨⟨_, 0, _, _, _, _, ⟨rfl, rfl, rfl, rfl, rfl⟩, rfl, Nat.le_refl _, rfl, rfl, rfl⟩, rfl⟩, fun hold => ⟨⟨_, 0, _, _, _, _,
      ⟨rfl, rfl, rfl, rfl, rfl⟩, rfl, rfl, Nat.le_refl _, rfl, rfl, rfl, ⟨rfl, rfl, rfl, ?_, by decide⟩⟩, ?_⟩⟩
  · cases hold <;> decide +kernel
  · cases hold <;> decide +kernel

/-! ## Hypotheses met: outages, surveys, deadlines -/

theorem test_hyp_RestoreDeclaresRestoration :
    ((withOutage .isolated .refedUncontrolled .fed).ready 0 p0 (.restore ref0) = true ∧
      findRecord (withOutage .isolated .refedUncontrolled .fed).net.outages (bodyRef ref0) = some (outage0 .isolated) ∧
      ∀ x ∈ (withOutage .isolated .refedUncontrolled .fed).net.zones, x.customers ≠ 0) ∧
    s0.ready 0 p0 (.restore ref0) = true ∧ findRecord s0.net.outages (bodyRef ref0) = none ∧
    findRecord (withOutage .restoring .unfed .unfed).net.outages (bodyRef ref0) = some (outage0 .restoring) := by decide +kernel

/-- Zone 0 REPRESSURISED, its points as given. -/
def relighting (q : Point) : State :=
  let s := withOutage .restoring .repressurised .fed
  { s with net := { s.net with points := [q] } }

def relightZone : Zone := { zone0 with supply := .repressurised, fed := .fed, outage := some { slot := 0, serial := 1 } }

theorem test_hyp_RelightChecksAndCounts :
    (relighting point0).ready 0 p0 (.relight { zone := 0, count := 10 }) = true ∧ (relighting point0).net.zones[0]? = some relightZone ∧
    (relighting point0).net.PointsNormal relightZone ∧ ¬ (relighting { point0 with band := .low }).net.PointsNormal relightZone ∧
    (relighting point0).net.zoneOutage 0 = some (0, outage0 .restoring) ∧
    (outage0 .restoring).entry 0 = some { zone := 0, customers := 10, relit := 0 } ∧ 0 + (9 : Half).toNat < 10 ∧ 0 + (10 : Half).toNat = 10 ∧
    s0.net.zones.length ≤ (2 : Byte).toNat ∧ (relighting point0).net.relitOf 0 = 0 ∧ relightZone.customers < 0 + (11 : Half).toNat := by
  refine ⟨by decide +kernel, rfl, ?_, ?_, rfl, rfl, by decide +kernel⟩
  · intro i hi
    obtain rfl : i = 0 := List.mem_singleton.mp hi
    exact ⟨_, rfl, rfl, rfl⟩
  · intro h
    obtain ⟨q, h1, _, h3⟩ := h 0 (List.mem_singleton.mpr rfl)
    obtain rfl := Option.some.inj h1
    exact nomatch h3

theorem test_hyp_SourceOrderQueuesATrial :
    s0.ready 0 p0 (.source { source := 0, target := 2, flags := 0 }) = true ∧ 1 < (2 : Byte).toNat ∧
    s0.ready 0 p0 (.source { source := 1, target := 1, flags := 3 }) = true ∧ s0.net.sources.length ≤ (1 : Byte).toNat ∧
    s0.net.sources[0]? = some source0 ∧ source0.state = .live ∧ source0.state ≠ .out ∧ s0.net.survey.queue.length < 4 ∧
    (let s := withNet { net0 with survey := { net0.survey with queue := List.replicate 4 (.plan planRef) } }
     s.ready 0 p0 (.source { source := 0, target := 1, flags := 0 }) = true ∧ 4 ≤ s.net.survey.queue.length) := by decide +kernel

theorem test_hyp_SurveyReachesTheReachableSet :
    net0.zones.length ≤ 128 ∧ { net0 with zones := List.replicate 128 zone0 }.zones.length ≤ 128 := by
  decide +kernel

def surveying (f : Survey → Survey) : State := withNet { net0 with survey := f Survey.atReset }

theorem test_hyp_SurveysStartInOrder :
    ((surveying (fun x => { x with pendingReal := true })).net.mode = .running ∧
      (surveying (fun x => { x with pendingReal := true })).net.survey.inFlight = none ∧
      (surveying (fun x => { x with pendingReal := true })).net.survey.held = none) ∧
    (surveying (fun x => { x with queue := [.plan planRef] })).net.survey.pendingReal = false ∧
    (surveying (fun x => { x with queue := [.plan planRef] })).net.survey.queue = .plan planRef :: [] ∧
    State.reset.net.mode ≠ .running ∧ State.reset.net.mode ≠ .detached := by decide +kernel

theorem test_hyp_RealSurveyCompletes :
    (surveying (fun x => { x with inFlight := some (.real 0 [0]) })).net.survey.inFlight = some (.real 0 [0]) ∧
    (∃ z x, net0.zones[z]? = some x ∧ x.supply = .supplied ∧ z ∉ [0]) ∧
    (¬ ∃ z x, net0.zones[z]? = some x ∧ x.supply = .supplied ∧ z ∉ [0, 1]) := by
  refine ⟨rfl, ⟨1, _, rfl, rfl, by decide⟩, ?_⟩
  rintro ⟨z, x, h1, _, h3⟩
  rcases z with _ | _ | z
  · exact h3 (by decide)
  · exact h3 (by decide)
  · exact nomatch h1

/-- A zone REPRESSURISED, or UNFED, held by an outage in each state, and one of 0 customers. -/
theorem test_hyp_HeldZonesAreTaken :
    (let n := (withOutage .restoring .repressurised .fed).net
     n.zoneOutage 0 = some (0, outage0 .restoring) ∧ (outage0 .restoring).entry 0 = some { zone := 0, customers := 10, relit := 0 }) ∧
    (withOutage .isolated .unfed .unfed).net.zoneOutage 0 = some (0, outage0 .isolated) ∧
    (withOutage .restoring .unfed .unfed).net.zoneOutage 0 = some (0, outage0 .restoring) ∧
    (let n := (withOutage .restoring .unfed .unfed).net
     let m := { n with
       zones := n.zones.map (fun z => { z with customers := 0 }), points := [{ point0 with band := .lowlow }]
       survey := { n.survey with inFlight := some (.real 0 [0]) } }
     m.zoneOutage 0 = some (0, outage0 .restoring) ∧
       (after .realSurveyCompletion (withNet m)).net.marks.urgent.head? = some (.point 0)) := by decide +kernel

/-- A real survey that loses zone 1, in which the plan of slot 0 counts as the cause when `claim` is its claim. -/
def losing (claim : Option Ref) (incidents : List (Slot Incident)) (outages : List (Slot Outage)) : State :=
  withNet { net0 with
    plans := [held (plan0 0)], incidents := incidents, outages := outages
    survey := { Survey.atReset with changeValves := [{ valve := 0, claim := claim }], inFlight := some (.real 0 [0]) } }

theorem onlyLosses_losing (claim : Option Ref) (is : List (Slot Incident)) (os : List (Slot Outage)) :
    (losing claim is os).net.OnlyLosses [0] ∧ (losing claim is os).net.lossesOf [0] = [1] := by
  refine ⟨?_, rfl⟩
  intro z x h
  rcases z with _ | _ | z
  · obtain rfl := Option.some.inj h
    exact ⟨(fun k => nomatch k), fun k => absurd k (by decide)⟩
  · obtain rfl := Option.some.inj h
    exact ⟨(fun k => nomatch k), fun k => absurd k (by decide)⟩
  · exact nomatch h

theorem firstClaim_losing (is : List (Slot Incident)) (os : List (Slot Outage)) :
    FirstClaim (losing (some planRef) is os).net.survey.changeValves planRef ∧
      ∀ r, FirstClaim (losing (some planRef) is os).net.survey.changeValves r → r = planRef := by
  refine ⟨⟨0, by decide, rfl, fun w hw => absurd hw (Nat.not_lt_zero w)⟩, ?_⟩
  rintro r ⟨v, _, h, _⟩
  rcases v with _ | v
  · exact (Option.some.inj h).symm
  · exact nomatch h

theorem planned_losing (is : List (Slot Incident)) (os : List (Slot Outage)) :
    (losing (some planRef) is os).net.Planned planRef ∧ ∀ q, (losing (some planRef) is os).net.Planned q → q = planRef := by
  refine ⟨⟨planRef, _, (firstClaim_losing is os).1, rfl, rfl⟩, ?_⟩
  rintro q ⟨r, p, h1, h2, h3⟩
  obtain rfl := (firstClaim_losing is os).2 r h1
  obtain rfl := Option.some.inj h2
  exact h3.symm

theorem notPlanned_losing (is : List (Slot Incident)) (os : List (Slot Outage)) : ∀ q, ¬ (losing none is os).net.Planned q := by
  rintro q ⟨r, p, ⟨v, _, h, _⟩, _⟩
  rcases v with _ | v <;> exact nomatch h

theorem notPlannedOutage_losing (is : List (Slot Incident)) (os : List (Slot Outage)) :
    ∀ r o, ¬ (losing none is os).net.PlannedOutage r o := fun _ _ h => let ⟨q, _, h1, _⟩ := h; notPlanned_losing is os q h1

/-- Slot 0 FREE. -/
def freeFirst {α : Type} (sl : Slot α) : List (Slot α) := [{ state := .free, serial := 1, record := none }, sl]

theorem lowestFree_first {α : Type} (sl : Slot α) : LowestFree (freeFirst sl) 0 :=
  ⟨⟨_, rfl, rfl⟩, fun j _ h => absurd h (Nat.not_lt_zero j)⟩

def linked (x : Incident) : Incident := { x with outage := some { slot := 0, serial := 1 } }

theorem outageIn_of {n : Net} {a b : Outage} {st : OutageState} {i : Nat} {w : Outage} (ho : n.outages = [held a, held b])
    (h : n.outageIn st i w) : (i = 0 ∧ w = a) ∨ (i = 1 ∧ w = b) := by
  obtain ⟨sl, h1, _, h3, _⟩ := h
  rw [ho] at h1
  rcases i with _ | _ | i
  · obtain rfl := Option.some.inj h1
    exact Or.inl ⟨rfl, (Option.some.inj h3).symm⟩
  · obtain rfl := Option.some.inj h1
    exact Or.inr ⟨rfl, (Option.some.inj h3).symm⟩
  · exact nomatch h1

theorem test_hyp_LossesArePlaced :
    ((∃ z x, (losing none [] []).net.zones[z]? = some x ∧ x.supply = .supplied ∧ z ∉ [0]) ∧ (losing none [] []).net.survey.generation = 0) ∧
    (losing (some planRef) [held (linked incident0)] [held (outage0 .restoring)]).net.PlannedOutage { slot := 0, serial := 1 }
      (outage0 .restoring) ∧
    ((∀ r o, ¬ (losing (some planRef) [held incident0] (freeFirst (held (outage0 .isolated)))).net.PlannedOutage r o) ∧
      LowestFree (freeFirst (held (outage0 .isolated))) 0 ∧
      findRecord [held incident0] planRef = some incident0 ∧ incident0.state ≠ .closed) ∧
    ((∀ q x, (losing (some planRef) [held { incident0 with state := .closed }] (freeFirst (held (outage0 .isolated)))).net.Planned q →
        findRecord [held { incident0 with state := .closed }] q = some x → x.state = .closed) ∧
      (losing (some planRef) [held { incident0 with state := .closed }] (freeFirst (held (outage0 .isolated)))).net.causeOfLosses = .planned) ∧
    ((losing none (freeFirst (held incident0)) (freeFirst (held (outage0 .isolated)))).net.causeOfLosses ≠ .planned ∧
      LowestFree (freeFirst (held incident0)) 0 ∧ (∀ sl ∈ [held incident0], sl.state ≠ .free)) ∧
    (let n := (losing none [] [held { outage0 .isolated with sequence := 3 }, held (outage0 .isolated)]).net
     (∀ sl ∈ n.outages, sl.state ≠ .free) ∧ n.Newest .isolated 0 { outage0 .isolated with sequence := 3 }) ∧
    (let n := (losing none [] [held { outage0 .restored with sequence := 3 }, held (outage0 .restoring)]).net
     (∀ j o, ¬ n.outageIn .isolated j o) ∧ n.Newest .restoring 1 (outage0 .restoring)) := by
  refine ⟨⟨⟨1, _, rfl, rfl, by decide⟩, rfl⟩, ⟨planRef, _, (planned_losing _ _).1, rfl, rfl, rfl, by decide⟩,
    ⟨?_, lowestFree_first _, rfl, by decide⟩, ⟨?_, by decide +kernel⟩, ⟨by decide +kernel, lowestFree_first _, by decide⟩,
    ⟨by decide, ⟨⟨_, rfl, rfl, rfl, rfl⟩, ?_⟩⟩, ?_, ⟨_, rfl, rfl, rfl, rfl⟩, ?_⟩
  · rintro r o ⟨q, x, h1, h2, h3, _⟩
    obtain rfl := (planned_losing _ _).2 q h1
    obtain rfl := Option.some.inj h2
    exact nomatch h3
  · intro q x h1 h2
    obtain rfl := (planned_losing _ _).2 q h1
    exact Option.some.inj h2 ▸ rfl
  · intro j w h hj
    rcases outageIn_of rfl h with ⟨rfl, _⟩ | ⟨_, rfl⟩
    · exact absurd rfl hj
    · decide
  · intro j o h
    rcases outageIn_of rfl h with ⟨_, rfl⟩ | ⟨_, rfl⟩ <;> exact nomatch h.choose_spec.2.2.2
  · intro j w h hj
    rcases outageIn_of rfl h with ⟨_, rfl⟩ | ⟨rfl, _⟩
    · exact nomatch h.choose_spec.2.2.2
    · exact absurd rfl hj

/-- The notPlannedOutage clause of the same statement. -/
theorem test_hyp_LossesWithoutAPlan :
    ∀ r o, ¬ (losing none (freeFirst (held incident0)) (freeFirst (held (outage0 .isolated)))).net.PlannedOutage r o :=
  notPlannedOutage_losing _ _

/-- Losses without a place: two RESTORED records; with one: a slot FREE, or a record ISOLATED or RESTORING. -/
theorem test_hyp_LossesWithAndWithoutAPlace :
    (losing none [] [held (outage0 .restored), held (outage0 .restored)]).net.NoPlace ∧ ¬ net0.NoPlace ∧
    ¬ (losing none [] [held (outage0 .restored), held (outage0 .isolated)]).net.NoPlace ∧
    ¬ (losing none [] [held (outage0 .restoring)]).net.NoPlace ∧
    ¬ (losing (some planRef) [held (linked incident0)] [held (outage0 .isolated)]).net.NoPlace := by
  refine ⟨⟨notPlannedOutage_losing _ _, by decide, ?_, ?_⟩, fun h => h.full _ (List.Mem.head _) rfl,
    fun h => h.isolated 1 _ ⟨_, rfl, rfl, rfl, rfl⟩, fun h => h.restoring 0 _ ⟨_, rfl, rfl, rfl, rfl⟩,
    fun h => h.planned _ _ ⟨planRef, _, (planned_losing _ _).1, rfl, rfl, rfl, by decide⟩⟩ <;>
  · intro j o h
    rcases outageIn_of rfl h with ⟨_, rfl⟩ | ⟨_, rfl⟩ <;> exact nomatch h.choose_spec.2.2.2

theorem test_hyp_TrialJudgesPrefixesInOrder :
    (∀ r ∈ [[0, 1]], ¬ net0.Offends (false, false) r) ∧ net0.Offends (false, false) [0] ∧ ¬ net0.Offends (true, false) [0] ∧
    [[0, 1], [0], []] = [[0, 1]] ++ [0] :: [[]] := by
  unfold Net.Offends
  decide +kernel

/-- A SOURCE trial in flight, its folio 1. -/
def sourceTrial (o : Bool) : State :=
  surveying (fun x => { x with queue := [.source 0 .out o false (some 1)], inFlight := some (.trial 0 [[0]]) })

/-- A SOURCE trial that is refused, while an order of the same kind waits at a stall. -/
def stalledTrial : State :=
  let s := sourceTrial false
  { s with exch := { s.exch with stall := some (.source 2 0 .live true false), cursor := some 2, sweep := none } }

theorem test_hyp_SourceTrialCompletes :
    (sourceTrial true).net.survey.inFlight = some (.trial 0 [[0]]) ∧ (sourceTrial true).net.survey.queue = [.source 0 .out true false (some 1)] ∧
    (sourceTrial true).net.sources[0]? = some source0 ∧ (sourceTrial true).exch.reachable = true ∧ (sourceTrial true).exch.stall = none ∧
    (sourceTrial true).net.zonesFit = true ∧ (sourceTrial true).net.survey.generation = 0 ∧ source0.state ≠ .out ∧
    (surveying (fun x => { x with generation := 1, inFlight := some (.trial 0 [[0]]) })).net.survey.generation ≠ 0 ∧
    (sourceTrial false).net.judge (false, false) [] [[0]] = .wouldIsolate [1] ∧
    (sourceTrial true).net.judge (true, false) [] [[0]] = .accepted [1] ∧
    (withOutage .isolated .unfed .unfed).net.judge (false, false) [] [[0]] = .wouldRefeed [0] ∧
    (stalledTrial.exch.stall = some (.source 2 0 .live true false) ∧ stalledTrial.exch.reachable = true ∧
      (Net.arbitrateAll { stalledTrial.net with survey := { stalledTrial.net.survey with inFlight := none, queue := [] } }).survey.queue.length < 4)
    := by decide +kernel

/-- A SOURCE trial that is refused, while the PLAN of folio 2, which links to nothing, waits at a stall. -/
def stalledPlanTrial : State :=
  let s := sourceTrial false
  { s with
    net := { s.net with plans := [held { plan0 0 with state := .checking, running := none, folio := some 2 }] }
    exch := { s.exch with stall := some (.plan 2), cursor := some 2, sweep := none }
    mem := [(0xA00, 2), (0xA04, 255), (0xA05, 255)] }

theorem test_hyp_AStalledOrderIsOfferedAgain :
    stalledTrial.net.OffersAgain (.source 2 0 .live true false) (.source 0 .live true false (some 2)) ∧
    stalledPlanTrial.net.OffersAgain (.plan 2) (.plan planRef) ∧ stalledPlanTrial.exch.stall = some (.plan 2) ∧
    stalledPlanTrial.net.mode = .running ∧ (State.store [] stalledPlanTrial).chainReadable ∧
    stalledPlanTrial.net.judge (false, false) [] [[0]] = .wouldIsolate [1] ∧
    ({ stalledPlanTrial with net := { stalledPlanTrial.net with mode := .halting } }.net.mode ≠ .running) ∧
    { sourceTrial true with exch := { s0.exch with reachable := false } }.exch.reachable = false := by
  refine ⟨rfl, ⟨0, _, _, rfl, rfl, rfl, rfl, rfl, ?_⟩, rfl, rfl, ?_, by decide +kernel, by decide, rfl⟩
  · intro i w h _ _
    rcases i with _ | i
    · rfl
    · exact nomatch h
  · intro c hc
    obtain rfl : 2 = c := Option.some.inj hc
    decide +kernel

/-- A PLAN trial in flight for a plan of valve 0 in CHECKING, its folio 1. -/
def planTrial (o : Bool) : State :=
  withNet { net0 with
    plans := [held { plan0 0 with state := .checking, running := none, folio := some 1, outageAccepted := o }]
    incidents := [held { incident0 with reservations := 1 }]
    survey := { Survey.atReset with queue := [.plan planRef], inFlight := some (.trial 0 [[0]]) } }

theorem test_hyp_PlanTrialFreesOrClaims :
    (planTrial false).net.survey.inFlight = some (.trial 0 [[0]]) ∧ (planTrial false).net.survey.queue = [.plan planRef] ∧
    (findRecord (planTrial true).net.plans planRef).map (fun q => (q.state, q.folio)) = some (.checking, some 1) ∧
    findRecord (planTrial false).net.incidents { slot := 0, serial := 1 } = some { incident0 with reservations := 1 } ∧
    (planTrial false).net.judge (false, false) [] [[0]] = .wouldIsolate [1] ∧ (planTrial true).net.zonesFit = true ∧
    (planTrial true).net.judge (true, false) [] [[0]] = .accepted [1] ∧ (planTrial true).exch.reachable = true ∧
    { (planTrial true).net with zones := [{ zone0 with fed := .unfed }] }.judge (true, false) [] [[0]] = .wouldRefeed [0] ∧
    (∀ x ∈ (planTrial true).net.valves, x.claim = none) ∧
    { (planTrial true).net with valves := [{ valve0 with claim := some { slot := 1, serial := 3 } }] }.valves[0]?.map (·.claim) ≠ some none ∧
    (findRecord (planTrial true).net.plans planRef).map (fun q => q.entries.map (·.valve)) = some [0] := by decide +kernel

/-- The first entry of an accepted plan: REMOTE and free to enter, held by a STOP pending or listed, unable for each reason, and MANUAL. -/
theorem test_hyp_AnAcceptedPlanStartsItsFirstEntry :
    let n := (planTrial true).net
    let stopped (x : Valve) (cs : List Listed) : Net := { n with valves := [x, valve1], lines := ⟨{ line0 with commands := cs }, line0, line0, line0⟩ }
    let out : Net := { n with stations := [{ station0 with status := .siteOut }] }
    let atSite : Valve := { valve0 with selector := some .atSite }
    valve0.inFlight = none ∧ n.MayEnter 0 valve0 0 0 ∧ valve0.stopPending = false ∧
    listedCommand (n.line 0).commands 0 ≠ some .stop ∧
    (stopped { valve0 with stopPending := true } []).MayEnter 0 { valve0 with stopPending := true } 0 0 ∧
    (listedCommand ((stopped valve0 [{ station := 0, command := .stop }]).line 0).commands 0 = some .stop ∧
      n.stationValve 0 = some 0 ∧ (stopped valve0 [{ station := 0, command := .stop }]).MayEnter 0 valve0 0 0) ∧
    listenNet.EntryFails valve0 0 0 .lineUnavailable ∧ out.EntryFails valve0 0 0 .stationLost ∧ n.EntryFails atSite 0 0 .atSite ∧
    n.valveLine 0 = some (0, 0) ∧ valve1.kind = .manual ∧ n.valveLine 1 = none ∧ valve1.inFlight = none :=
  ⟨rfl, ⟨rfl, rfl, rfl, by decide, by decide⟩, rfl, by decide, ⟨rfl, rfl, rfl, by decide, by decide⟩,
    ⟨by decide, rfl, ⟨rfl, rfl, rfl, by decide, by decide⟩⟩, Or.inl ⟨rfl, rfl⟩, Or.inr (Or.inl ⟨rfl, Or.inr rfl, rfl⟩),
    Or.inr (Or.inr ⟨rfl, by decide, rfl, rfl⟩), rfl, rfl, rfl, rfl⟩

theorem test_hyp_TrialsCountValves :
    net0.zones.length ≤ 128 ∧ (net0.trialResult (.source 0 .out true true none))[0]? = some [] ∧
    ((planTrial true).net.trialResult (.plan planRef))[0]? = some [] ∧ (planTrial true).net.prefixes (.plan planRef) = 1 := by decide +kernel

theorem test_hyp_DeadlineExpiryMarksOverdue :
    (slotRecord (withIncident { incident0 with deadline := 1000 }).net.incidents 0).map (fun x => (x.armed, x.deadline, x.state)) =
      some (true, 1000, .opened) ∧ s0.net.now = 1000 ∧ s0.net.mode = .running ∧
    (slotRecord (withIncident { incident0 with state := .attending }).net.incidents 0).map (·.state) ≠ some .opened := by decide +kernel

/-! ## Hypotheses met: lines -/

def withLine (x : Line) : State := withNet { net0 with lines := ⟨x, line0, line0, line0⟩ }

/-- The LINE order of a command. -/
def orderAt (c : Instr) : Order := ((postedBy c).map (·.2)).getD .lend

theorem test_hyp_HoldAndReleaseALine :
    postedBy (.hold p0 3) = some (p0, orderAt (.hold p0 3)) ∧ postedBy (.release p0 4) = some (p0, orderAt (.release p0 4)) ∧
    s0.ready 0 p0 (orderAt (.hold p0 3)) = true ∧ s0.ready 0 p0 (orderAt (.release p0 4)) = true ∧ 4 ≤ (4 : Byte).toNat ∧
    (3 : Byte).toNat = (3 : Fin 4).val ∧ ((withLine { line0 with state := .held, reconfigured := true }).net.line 0).state = .held ∧
    ((withLine { line0 with state := .held }).net.line 0).reconfigured = false ∧ (s0.net.line 3).state ≠ .held := by decide +kernel

theorem test_hyp_ConfigureNeedsAHeldLine :
    postedBy (.configure p0 0 0 2 250) = some (p0, orderAt (.configure p0 0 0 2 250)) ∧
    (withLine { line0 with state := .held }).ready 0 p0 (orderAt (.configure p0 0 0 2 250)) = true ∧ Speed.ofCode 5 = some .b38400 ∧
    2 ≤ (2 : Byte).toNat ∧ (250 : Byte).toNat ≤ 250 ∧ (s0.net.line 0).state ≠ .held ∧
    (∀ c ∈ [Instr.configure p0 3 6 2 2, .configure p0 3 5 1 2, .configure p0 3 5 2 251, .configure p0 4 5 2 2, .configure p0 4 5 2 1],
      postedBy c = some (p0, orderAt c) ∧ s0.ready 0 p0 (orderAt c) = true) ∧
    ¬ (6 : Byte).toNat < 6 ∧ ¬ 2 ≤ (1 : Byte).toNat ∧ ¬ (251 : Byte).toNat ≤ 250 ∧ 4 ≤ (4 : Byte).toNat := by decide +kernel

theorem test_hyp_RoleChangesAHeldLine :
    postedBy (.role p0 0 2) = some (p0, orderAt (.role p0 0 2)) ∧ s0.ready 0 p0 (orderAt (.role p0 0 2)) = true ∧
    ((withLine { line0 with state := .held, role := .listen, permit := true }).net.line 0).permit = true ∧
    ¬ (({ line0 with role := .listen } : Line).state = .held ∧ line0.permit = true) ∧ (s0.net.line 0).role = .master ∧
    (s0.net.line 0).state ≠ .held ∧ ((withLine { line0 with state := .held }).net.line 0).state = .held ∧
    (∀ c ∈ [Instr.role p0 4 1, .role p0 4 2], postedBy c = some (p0, orderAt c) ∧ s0.ready 0 p0 (orderAt c) = true) := by decide +kernel

def stop0 : Listed := { station := 0, command := .stop }
def step0 : Listed := { station := 0, command := .step 3 5 }

theorem test_hyp_LineChoosesByPriority :
    (¬ ((withLine { line0 with state := .gap }).net.line 0).state = .idle) ∧ net0.stations[0]? = some station0 ∧
    Oldest [step0, stop0] net0.stopMay stop0 ∧ (∀ c ∈ [step0], ¬ net0.stopMay c) ∧ Oldest [step0] net0.stepMay step0 ∧
    (∀ c ∈ net0.lines.q0.commands, ¬ net0.stepMay c) ∧ net0.readMay 0 0 station0 ∧ (∀ j y, net0.readMay 0 j y → 0 ≤ j) ∧
    (∀ z ∈ net0.stations, z.line ≠ 1) ∧ { line0 with idleWait := some 1 }.idleWait ≠ none := by
  refine ⟨by decide, rfl, ⟨⟨rfl, by decide⟩, [step0], [], rfl, ?_⟩, ?_, ⟨⟨by decide, by decide, ?_⟩, [], [], rfl, (fun _ h => nomatch h)⟩,
    (fun _ h => nomatch h), ⟨rfl, rfl, by decide, Or.inl rfl, (fun _ h => nomatch h)⟩, fun _ _ _ => Nat.zero_le _, by decide, by decide⟩
  · intro d hd
    obtain rfl := List.mem_singleton.mp hd
    exact fun h => nomatch h.1
  · intro d hd
    obtain rfl := List.mem_singleton.mp hd
    exact fun h => nomatch h.1
  · intro v x h1 h2
    obtain rfl : 0 = v := Option.some.inj h1
    obtain rfl : valve0 = x := Option.some.inj h2
    decide

theorem test_hyp_LineTimersLetTheLineChoose :
    ((withLine { line0 with state := .gap, since := 990 }).net.line 0).since + line0.params.gap = net0.now ∧
    ((withLine { line0 with idleWait := some 1000 }).net.line 0).idleWait = some net0.now ∧
    980 + 20 * 10 * 1000 / line0.params.speed.rate = net0.now ∧ net0.now < 981 + 20 * 10 * 1000 / line0.params.speed.rate ∧
    (s0.net.line 0).state ≠ .gap ∧ (s0.net.line 0).idleWait = none := by decide

theorem test_hyp_ExchangeRunsToItsEnding :
    (((withLine awaiting).net.line 0).role = .master ∧ ((withLine awaiting).net.line 0).state = .await ∧
      ((withLine awaiting).net.line 0).exchange ≠ none ∧ ((withLine awaiting).net.line 0).windowSince = some 800 ∧
      (withLine awaiting).net.stations[0]? = some station0 ∧ 0 < net0.replyAgeLimit station0 ∧
      net0.now < station0.replyRef + 1000 * net0.replyAgeLimit station0) ∧
    ((withLine { awaiting with windowSince := none }).net.line 0).windowSince = none ∧ 800 + 10 * awaiting.params.window = net0.now ∧
    ReplyKind.ok (.data { echo := none, readings := [{ slot := 7, fault := false, value := 65535 }], valve := some (100, 0) }) = true ∧
    parseReply [2, 60] = none ∧ (s0.net.line 0).exchange = none ∧ (s0.net.line 0).role = .master ∧ ReplyKind.ok .busy = true ∧
    net0.pointAt 0 0 = some 0 := by decide +kernel

/-- A reading that takes point 0 to LOWLOW, in a SUPPLIED zone, with no incident of the zone open, a slot FREE and a LIVE source at it. -/
theorem test_hyp_AReadingIsHandedOn :
    (let q := { point0 with settings := { point0.settings with confirm := 0 } }
     moveBand 1000 q.settings (candidateBand q.settings q.band 3) q.band q.pendingBand = (.lowlow, none) ∧ q.band ≠ .lowlow) ∧
    zone0.supply = .supplied ∧ net0.zones[point0.zone]? = some zone0 ∧ freeSlot net0.incidents = some 0 ∧
    ({ source0 with point := some 0 }.point = some 0 ∧ source0.state = .live) ∧
    (∀ sl ∈ [held incident0], sl.state ≠ .free) := by decide +kernel

/-- The excursion joins an open incident of its zone and kind. -/
theorem test_hyp_AnExcursionJoins :
    Latest Incident.opened ((withIncident pressureLow0).net.PressureOpen .pressureLow 0) 0 pressureLow0 ∧
      ∀ j x, ¬ net0.PressureOpen .pressureHigh 0 j x := by
  refine ⟨latest_here _ _ _ ⟨⟨_, rfl, rfl, rfl⟩, rfl, rfl, by decide⟩ ?_, ?_⟩
  · rintro j y ⟨h, h2, _, h4⟩
    rcases incidentIn_of h with ⟨rfl, rfl⟩ | ⟨rfl, rfl⟩
    · exact ⟨rfl, rfl⟩
    · exact nomatch h2
  · rintro j x ⟨⟨sl, h1, h2, _⟩, _⟩
    rcases j with _ | _ | j
    · obtain rfl := Option.some.inj h1
      exact nomatch h2
    · obtain rfl := Option.some.inj h1
      exact nomatch h2
    · exact nomatch h1

/-- The station of a running entry is silent for the third time, or refuses a READ, its continuation owed and its STEP listed. -/
theorem test_hyp_AStationGoesOutOfReach :
    ({ station0 with silent := 2 }.afterEnding 1000 .read none).status = .lost ∧
    (station0.afterEnding 1000 .read (some .refuse)).status = .siteOut ∧
    (let s := withPlan (plan0 0) 0 { valve0 with inFlight := some flight0 }
     s.net.RunningAt planRef (plan0 0) 0 { valve := 0, steps := [{ target := 0, dwell := 5, hold := false }], state := .running, current := 0 }
         { valve0 with inFlight := some flight0, claim := some planRef } ∧
       station0.valve = some 0 ∧ s.net.valveLine 0 = some (0, 0) ∧ s.net.claimPlan 0 = some (0, plan0 0) ∧ (plan0 0).runs 0 = true) :=
  ⟨by decide +kernel, by decide +kernel, ⟨by decide +kernel, rfl, rfl, by decide +kernel, rfl⟩, rfl, by decide +kernel, by decide +kernel,
    by decide +kernel⟩

/-- Line 0 listens, its station last heard at 0, the timeout 1 s. -/
def listening : State :=
  withNet { net0 with
    lines := ⟨{ line0 with role := .listen, listenTimeout := 1 }, line0, line0, line0⟩, stations := [{ station0 with lastHeard := some 0 }] }

theorem test_hyp_HeardLostAndStale :
    ((listening.net.line 0).role = .listen ∧ (listening.net.line 0).state = .idle ∧ listening.net.stationAt 0 60 = some 0 ∧
      listening.net.stations[0]? = some { station0 with lastHeard := some 0 }) ∧ 0 + 1000 * 1 ≤ listening.net.now ∧
    station0.replyRef + 1000 * net0.replyAgeLimit station0 = 120000 ∧ (net0.line 0).state = .idle ∧ station0.status = .online ∧
    point0.freshSince + 1000 * point0.settings.stale = 120000 ∧ point0.quality = .good ∧ parseReply [] = none ∧
    ¬ (net0.line 0).role = .listen := by decide +kernel

theorem test_hyp_ACycleCloses :
    let z : Station := { station0 with status := .backoff, backoff := 1, resume := .online }
    let n := { net0 with stations := [z] }
    (n.line 0).role = .master ∧ (n.line 0).state = .idle ∧ (n.line 0).exchange = none ∧ (n.line 0).idleWait = none ∧
    (∃ z ∈ n.stations, z.line = 0) ∧ (∀ st z, ¬ n.readMay 0 st z) ∧ n.resumesOk = true ∧ z.afterClose.status ≠ z.status := by
  refine ⟨rfl, rfl, rfl, rfl, ⟨_, List.mem_cons_self, rfl⟩, ?_, by decide +kernel, by decide⟩
  rintro st z ⟨h, _, k, _⟩
  rcases st with _ | st
  · obtain rfl := Option.some.inj h
    exact k rfl
  · exact nomatch h

/-- Line 0 awaits the answer of station 0 to a STEP or a STOP of a plan, which it lists. -/
def commanding (q : Plan) (x : Valve) (f : PollFunction) (c : LineCommand) : State :=
  let s := withPlan q 0 x
  { s with net := { s.net with lines :=
    ⟨{ line0 with
        state := .await, exchange := some { station := 0, function := f, frame := pollFrame 60 f }, windowSince := some 800
        commands := [{ station := 0, command := c }] }, line0, line0, line0⟩ } }

def stepped : State := commanding (plan0 0) { valve0 with inFlight := some { flight0 with tag := 3, target := 5 } } (.step 3 5) (.step 3 5)

def stopped : State := commanding { plan0 0 with state := .blocked } { valve0 with stopPending := true } .stop .stop

/-- A payload without readings and valve part. -/
def bare (echo : Option Byte) : Payload := { echo := echo, readings := [], valve := none }

theorem test_hyp_RepliesSettleTheCommand :
    ((station0.silent < 2 ∧ station0.busy < 5) ∧ { station0 with silent := 1, busy := 4 }.silent < 2 ∧
      { station0 with silent := 1, busy := 4 }.busy < 5) ∧
    ((bare (some 3)).readings = [] ∧ (bare (some 3)).valve = none ∧ (bare (some 3)).echo = some 3 ∧ (bare none).echo ≠ some 3) ∧
    (∃ q i ent v, stepped.net.RunningAt planRef q i ent v ∧ q.state = .active ∧ v.inFlight = some { flight0 with tag := 3, target := 5 } ∧
      stepped.net.stationValve 0 = some ent.valve ∧ stepped.net.valveLine ent.valve = some (0, 0)) ∧
    (∀ c ∈ (stepped.net.line 0).commands, c.station = 0 → c = { station := 0, command := .step 3 5 }) ∧
    (∃ q i ent v, stopped.net.RunningAt planRef q i ent v ∧ q.state = .blocked ∧ v.stopPending = true ∧
      stopped.net.stationValve 0 = some ent.valve) ∧
    (stopped.net.line 0).commands.any (fun c => c.station = 0) = true ∧
    (∀ c ∈ (stopped.net.line 0).commands, c.station = 0 → c = { station := 0, command := .stop }) ∧
    (∀ s : State, s = stepped ∨ s = stopped → (s.net.line 0).windowSince = some 800 ∧ s.net.stations[0]? = some station0 ∧
      0 < s.net.replyAgeLimit station0 ∧ s.net.now < station0.replyRef + 1000 * s.net.replyAgeLimit station0) := by
  refine ⟨by decide, by decide, ⟨_, 0, _, _, ⟨rfl, rfl, rfl, rfl, rfl⟩, rfl, rfl, rfl, rfl⟩, by decide +kernel,
    ⟨_, 0, _, _, ⟨rfl, rfl, rfl, rfl, rfl⟩, rfl, rfl, rfl⟩, by decide +kernel, by decide +kernel, ?_⟩
  rintro s (rfl | rfl) <;> decide +kernel

theorem test_hyp_ListeningReadsTheValve :
    station0.kind ≠ .pressure ∧ station0.valve = some 0 ∧ listening.net.valves[0]? = some valve0 ∧ valve0.claim = none ∧
    100 < (101 : Byte).toNat ∧ (0x03 : Byte).toNat % 4 = 3 ∧ (100 : Byte).toNat ≤ 100 ∧ (0x12 : Byte).toNat % 4 ≠ 3 ∧
    valve0.Moved (100, 0x12) ∧ ¬ valve0.Moved (98, 0x18) ∧
    ReplyKind.ok (.part { echo := none, readings := [], valve := some (101, 0x13) }) = true := by
  refine ⟨by decide, rfl, rfl, rfl, by decide, by decide, by decide, by decide, ⟨rfl, rfl, 100, rfl, by decide⟩, ?_, by decide⟩
  rintro ⟨_, _, p, hp, h⟩
  obtain rfl := Option.some.inj hp
  revert h
  decide

/-! ## Hypotheses met: LIMITS, LEND, QUERY, CLOCK, folios, reports -/

def limits0 : LimitsBody := { point := 0, ll := 10, l := 20, h := 31, hh := 32, deadband := 5, confirm := 60, stale := 10 }

theorem test_hyp_LimitsGiveAPointNewValues :
    s0.ready 0 p0 (.limits limits0) = true ∧ s0.net.points[0]? = some point0 ∧ s0.net.points.length ≤ (1 : Half).toNat ∧
    2 * limits0.deadband.toNat < limits0.h.toNat - limits0.l.toNat ∧ ¬ 2 * (6 : Half).toNat < limits0.h.toNat - limits0.l.toNat ∧
    ¬ point0.freshSince + 1000 * limits0.stale.toNat ≤ net0.now ∧ point0.freshSince + 1000 * limits0.stale.toNat ≤ 10000 := by decide +kernel

def lent32 : State := { s0 with exch := { s0.exch with lent := (List.range 32).map (· + 1) } }

theorem test_hyp_LendJoinsTheLentList :
    s0.ready 0 p0 .lend = true ∧ (lent32.exch.lent.filter (fun j => j ≠ 0)).length = 32 ∧ lent32.ready 0 p0 .lend = true ∧
    (lent32.exch.lent.tail.filter (fun j => j ≠ 0)).length < 32 := by decide +kernel

def queryOf (kind portion : Byte) (ident : Half) : QueryBody := { kind := kind, portion := portion, ident := ident, serial := 0 }

theorem test_hyp_QueryAnswersAPortion :
    s0.ready 0 p0 (.query (queryOf 16 0 0)) = true ∧ 15 < (queryOf 16 0 0).kind.toNat ∧ s0.net.zones.length ≤ (queryOf 1 0 2).ident.toNat ∧
    (s0.queryContent (queryOf 15 0 0)).toOption.isSome = true ∧
    (match s0.queryContent (queryOf 15 0 0) with
     | .ok q => decide (240 * 0 < (contentBytes 15 1000 q).length ∧ (contentBytes 15 1000 q).length ≤ 240 * 1)
     | .error _ => false) = true := by decide +kernel

def clock0 : ClockBody := { year := 2099, month := 12, day := 31, hour := 23, minute := 59, second := 59, ms := 999 }

theorem test_hyp_ClockOrderSetsTheTimeOfDay :
    s0.ready 0 p0 (.clock clock0) = true ∧ ClockBody.good clock0 ∧ ¬ ClockBody.good { clock0 with month := 2, day := 29 } ∧
    ClockBody.good { clock0 with year := 2000, month := 2, day := 29 } ∧ s0.ready 0 p0 (.query (queryOf 15 0 0)) = true := by
  unfold ClockBody.good
  decide +kernel

/-- The bytes the host posts, as one store. -/
def posted (p : Post) (o : Order) : List HostStore :=
  (s0.hostPosts 0 p o).mem.map (fun (a, b) => { addr := a, bytes := [b] })

theorem test_hyp_FolioTakenRunsThePostedOrder :
    (postedBy (.attend p0 ref0) = some (p0, actOrder ref0 1 0) ∧ wellFormed (.attend p0 ref0) = true ∧
      s0.ready 0 p0 (actOrder ref0 1 0) = true ∧ s0.store (posted p0 (actOrder ref0 1 0)) = s0.hostPosts 0 p0 (actOrder ref0 1 0)) ∧
    ((State.store [] s0).turnOf 0 ≠ 1 ∧ s0.folioFree 0 = true) ∧
    ((s0.store [{ addr := 0x800, bytes := [1, 15, 1, 0, 3, 0, 5] }]).turnOf 0 = 1 ∧ headerBad 15 5 ∧ headerBad 12 241 ∧ bodyShort 1 9 0 ∧
      bodyShort 3 5 1 ∧ bodyShort 3 149 8 ∧
      (s0.store [{ addr := 0x800, bytes := [1, 15, 1, 0, 3, 0, 5] }]).linkOf 0 < s0.exch.folioCount) :=
  ⟨by decide +kernel, by decide +kernel, by decide +kernel, Or.inr (Or.inl (by decide)), Or.inr (Or.inr (by decide)),
    Or.inl ⟨10, rfl, by decide⟩, Or.inl ⟨6, rfl, by decide⟩, Or.inr (by decide), by decide +kernel⟩

/-- Folio 0 posted with a header of a kind and a body length; its body is zeros. -/
def posting (kind len : Byte) : List HostStore := [{ addr := 0x800, bytes := [1, kind, 1, 0, 3, 0, len] }]

/-- Bus errors of a taken folio: an order answered at once, bodies too short by a byte (of a SOURCE too), a LEND, a bad header; and of a HALT
with HALTED answers. -/
theorem test_hyp_ABusErrorLeavesWhatWasWritten :
    (s0.exch.startOp = none ∧ s0.net.mode = .running ∧ s0.exch.reachable = true ∧ s0.exch.nextFolio = some 0) ∧
    (let turn (a : BusAccess) (kind len : Byte) := (after (.memoryFault a (posting kind len)) s0).turnOf 0
     (s0.store (posting 13 6)).turnOf 0 = 1 ∧ (s0.store (posting 13 6)).mem.read 0x801 = 13 ∧
       (turn .folioAnswer 13 6, turn .folioAnswer 13 5, turn .folioAnswer 9 2, turn .folioAnswer 12 0, turn .folioAnswer 15 9) =
         (2, 2, 2, 1, 1) ∧
       (turn .takenTurn 13 6, turn .takenTurn 13 5, turn .takenTurn 9 3, turn .takenTurn 12 0, turn .takenTurn 15 9) = (1, 1, 1, 1, 1)) ∧
    ¬ headerBad 13 240 ∧ ¬ headerBad 9 2 ∧ bodyShort 9 2 0 ∧ headerBad 15 9 ∧
    (let s := surveying (fun x => { x with queue := [.source 0 .out true false (some 1), .source 0 .out false false (some 3), .plan planRef] })
     s.exch.stall = none ∧ s.exch.reachable = true ∧ s.net.mode = .running ∧
       (after (.memoryFault (.haltAnswer 1) []) s).mem.read (s.folioAddr 1) = 3 ∧
       (after (.memoryFault (.haltAnswer 1) []) s).mem.read (s.folioAddr 3) = 0) :=
  ⟨by decide +kernel, by decide +kernel, by unfold headerBad; decide, by unfold headerBad; decide, Or.inl ⟨3, rfl, by decide⟩,
    Or.inr (Or.inl (by decide)), by decide +kernel⟩

/-- Marks, a report unit and a lent list. -/
def reporting (m : Marks) (r : ReportUnit) (lent : List Nat) : State :=
  { withNet { net0 with marks := m } with report := r, exch := { s0.exch with lent := lent } }

def filling (count : Nat) (owed : Bool) : ReportUnit :=
  { ReportUnit.atReset with filling := some 2, count := count, flush := some 1000, urgentOwed := owed }

theorem test_hyp_ReportsFillTheFolio :
    (State.Fills (reporting ⟨[], [.zone 0]⟩ ReportUnit.atReset [3]) 3 0 ∧ Marks.next ⟨[], [.zone 0]⟩ (.zone 0) .ordinary) ∧
    (State.Fills (reporting ⟨[.point 0], []⟩ (filling 12 false) []) 2 12 ∧ Marks.next ⟨[.point 0], []⟩ (.point 0) .urgent ∧
      12 + (net0.content (.point 0)).length + 1 = 15) ∧
    15 < 13 + (net0.content (.point 0)).length + 1 ∧ 0 + (net0.content (.zone 0)).length + 1 = 2 ∧
    (reporting ⟨[], []⟩ (filling 1 false) []).net.marks = ⟨[], []⟩ :=
  ⟨⟨Or.inr ⟨rfl, ⟨[], rfl⟩, rfl⟩, Or.inr ⟨rfl, rfl, [], rfl⟩⟩, ⟨Or.inl ⟨rfl, rfl⟩, Or.inl ⟨rfl, [], rfl⟩, by decide +kernel⟩,
    by decide +kernel, by decide +kernel, rfl⟩

/-- An outage of 70 held zones, which no folio holds whole. -/
def wideOutage : Outage := { outage0 .isolated with held := List.replicate 70 { zone := 0, customers := 10, relit := 0 } }

/-- A report in progress of which two parts remain. -/
def goesOn (rest : Nat) : ReportInProgress :=
  { record := .outage 0, list := .urgent, closing := false, serial := 1, time := 900, rest := List.replicate rest [], part := 1, parts := 3 }

theorem test_hyp_ReportsRunOnAreLostAndDrain :
    (let s := { reporting ⟨[], []⟩ ReportUnit.atReset [3] with
       net := { net0 with marks := ⟨[.outage 0], []⟩, outages := [held wideOutage] } }
     State.Fills s 3 0 ∧ s.net.marks.next (.outage 0) .urgent ∧ 15 < (s.net.content (.outage 0)).length + 1) ∧
    (let s := reporting ⟨[], []⟩ { ReportUnit.atReset with inProgress := some (goesOn 14) } [3]
     s.report.inProgress = some (goesOn 14) ∧ (goesOn 14).after = none ∧ (goesOn 15).after ≠ none ∧ s.report.filling = none ∧
       s.exch.lent = [3] ∧ s.net.mode = .running ∧ s.exch.reachable = true) ∧
    (let s := reporting ⟨[], [.zone 1]⟩ { filling 2 true with inProgress := some (goesOn 14), retiring := [{ record := .outage 1, folio := 2 }] } []
     s.report.filling = some 2 ∧ s.exch.startOp = none ∧ s.exch.stall = none ∧ s.net.mode = .running ∧
       s.report.retiring.any (fun x => x.folio = 2 && x.record = .outage 1) = true) ∧
    (let s := { reporting ⟨[], []⟩ (filling 2 true) [3, 1] with net := { net0 with mode := .halting } }
     s.net.marks = ⟨[], []⟩ ∧ s.report.inProgress = none ∧ s.report.drained = false ∧ s.report.filling = some 2 ∧ 2 ∉ s.exch.lent) ∧
    (let s := { reporting ⟨[], []⟩ { ReportUnit.atReset with inProgress := some (goesOn 14) } [] with net := { net0 with mode := .halting } }
     s.report.filling = none ∧ s.exch.lent = [] ∧ s.report.drained = false ∧ s.report.inProgress ≠ none) := by
  refine ⟨⟨Or.inr ⟨rfl, ⟨[], rfl⟩, rfl⟩, Or.inl ⟨rfl, [], rfl⟩, by decide +kernel⟩, by decide +kernel, by decide +kernel, by decide +kernel,
    by decide +kernel⟩

/-- A CLOSED incident and a RESTORED outage whose closing reports are written, the outage with a completion held for a FREE slot. -/
def closingRecords (held? : Option HeldCompletion) : State :=
  { reporting ⟨[], [.incident 0]⟩ { filling 1 false with retiring := [{ record := .outage 0, folio := 2 }] } [] with
    net := { net0 with
      marks := ⟨[], [.incident 0]⟩, incidents := [held { incident0 with state := .closed }]
      outages := [{ held (outage0 .restored) with state := .retiring }], survey := { net0.survey with held := held? } } }

theorem test_hyp_ClosingReportsFreeTheirSlots :
    (closingRecords none).net.closing (.incident 0) = true ∧
    ((after .reportWrite (closingRecords none)).net.incidents.map (·.state)) = [.retiring] ∧
    ((after .flushTimerExpiry (closingRecords none)).net.outages.map (·.state)) = [.free] ∧
    (let s := closingRecords (some { start := 0, reached := [0] })
     s.net.survey.generation = 0 ∧ s.net.survey.inFlight = none ∧ (after .flushTimerExpiry s).net.survey.held = none) ∧
    (let s := closingRecords (some { start := 7, reached := [0] })
     s.net.survey.generation ≠ 7 ∧ (after .flushTimerExpiry s).net.survey.pendingReal = true) := by decide +kernel

/-- A continuation due to return its folio, full or not, and one that is not due; the drain's two ends after a flush. -/
theorem test_hyp_ContinuationsAndDrains :
    (14 ≤ (goesOn 14).rest.length ∧ ¬ 14 ≤ (goesOn 13).rest.length ∧ (goesOn 13).list = .urgent) ∧
    (let s := { reporting ⟨[], []⟩ { filling 1 true with inProgress := some (goesOn 14) } [] with net := { net0 with mode := .halting } }
     s.exch.startOp = none ∧ s.exch.reachable = true ∧ s.report.filling = some 2) ∧
    (let s (lent : List Nat) :=
       { reporting ⟨[], [.zone 0]⟩ (filling 1 true) lent with net := { net0 with mode := .halting, marks := ⟨[], [.zone 0]⟩ } }
     (after .flushTimerExpiry (s [3])).report.drained = false ∧ (after .flushTimerExpiry (s [])).report.drained = true ∧
       2 ∉ (s [3]).exch.lent ∧ (s [3]).report.inProgress = none) := by decide +kernel

theorem test_hyp_FlushReturnsTheFolio :
    (reporting ⟨[], []⟩ (filling 1 true) []).report.flush = some 1000 ∧ (reporting ⟨[], []⟩ (filling 1 true) []).net.now = 1000 ∧
    (reporting ⟨[], []⟩ (filling 1 true) []).report.filling = some 2 ∧ net0.now < 1001 := by decide +kernel

/-! ## Hypotheses met: over all commands -/

theorem test_hyp_BandsFollowTheReading :
    (∀ p : PendingBand, some { band := .low, since := 0 } = some p → p.band = .low) ∧
    ∀ p : PendingBand, (some { band := Band.high, since := 0 } : Option PendingBand) = some p → p.band ≠ .low :=
  ⟨fun _ h => Option.some.inj h ▸ rfl, fun _ h => Option.some.inj h ▸ (by decide)⟩

theorem test_hyp_MarksFollowTheTable :
    Marks.ok ⟨[.zone 0], [.zone 1]⟩ = true ∧ RecordName.zone 2 ∉ [RecordName.zone 0] ∧ RecordName.zone 1 ∈ [RecordName.zone 1] := by decide

theorem test_hyp_EveryCommandAnswersNext :
    (∀ straps, Instr.runWarm 2 ≠ .hardwareReset straps) ∧
    (∀ v : Word, Instr.runWarm 2 = .runCold v ∨ Instr.runWarm 2 = .runWarm v ∨ Instr.runWarm 2 = .halt v → v.toNat % 256 ≠ 1) ∧
    (∀ stores, Instr.runWarm 2 ≠ .startingEnd stores) ∧ Instr.runWarm 2 ≠ .realSurveyCompletion ∧ Instr.runWarm 2 ≠ .reportWrite ∧
    Instr.runWarm 2 ≠ .flushTimerExpiry ∧ ∀ event done stores, Instr.runWarm 2 ≠ .memoryFault (.folioReturn event done) stores := by
  refine ⟨(fun _ h => nomatch h), ?_, (fun _ h => nomatch h), (fun h => nomatch h), (fun h => nomatch h), (fun h => nomatch h),
    (fun _ _ _ h => nomatch h)⟩
  rintro v (h | h | h)
  · exact nomatch h
  · obtain rfl := Instr.runWarm.inj h
    decide
  · exact nomatch h

theorem test_hyp_EveryStepKeepsTheRegistersAndLists : s0.Inv ∧ (reporting ⟨[.zone 0], [.zone 1]⟩ (filling 1 true) [3, 1]).Inv :=
  ⟨⟨by decide +kernel, by decide +kernel, by decide +kernel, by decide +kernel, by decide +kernel, by decide +kernel⟩,
    ⟨by decide +kernel, by decide +kernel, by decide +kernel, by decide +kernel, by decide +kernel, by decide +kernel⟩⟩

theorem test_hyp_EveryStepKeepsRecordsInAgreement : s0.Agrees ∧ (withOutage .isolated .unfed .unfed).Agrees :=
  ⟨⟨by decide +kernel, by decide +kernel, by decide +kernel, by decide +kernel, by decide +kernel⟩,
    ⟨by decide +kernel, by decide +kernel, by decide +kernel, by decide +kernel, by decide +kernel⟩⟩

theorem test_hyp_FramesAndBodiesReadBack :
    ReplyKind.ok .refuse = true ∧
    ReplyKind.ok (.part { echo := some 255, readings := List.replicate 8 { slot := 7, fault := true, value := 65535 }, valve := none }) = true ∧
    postedBy (.plan p0 planBody0) = some (p0, .plan planBody0) ∧ wellFormed (.plan p0 planBody0) = true := by decide +kernel

end Sys2Proof.Tests
end

section
/-! Every step keeps the records in agreement (R1, R42, R130, R132, R133, R155, R156, R160, R163, R179). The invariant falls into two parts:
what the net says of itself, and what the exchange unit says of the run mode. Each operation of the state is settled once: it keeps both
(`State.Keeps`), it runs in RUNNING where the exchange is free (`State.RunKeeps`), or it moves the run mode. -/

namespace Sys2Proof.Machine

/-! ## The two parts of the invariant -/

/-- The part of the invariant that speaks of the net alone. -/
structure Net.Sound (n : Net) : Prop where
  zonesFit : n.zonesFit = true
  resumes : n.resumesOk = true
  zones : n.zonesAgree = true
  outages : n.outagesAgree = true

/-- The part that ties the exchange unit to a run mode. -/
structure Exchange.AgreesIn (x : Exchange) (m : Mode) : Prop where
  quiet : m ≠ .running → x.sweep = none ∧ x.sweepTimer = none ∧ x.sweepOwed = false ∧ x.stall = none
  starting : x.startOp.isSome = true ↔ m = .starting
  origin : ∀ o, x.startOp = some o → o.from = .halted ∨ o.from = .detached
  lent : m = .halted ∨ m = .starting ∨ m = .detached → x.lent = []

theorem State.exchangeAgrees_iff (s : State) : s.exchangeAgrees = true ↔ s.exch.AgreesIn s.net.mode := by
  unfold State.exchangeAgrees
  simp only [Bool.and_eq_true, decide_eq_true_eq, Option.all_eq_true]
  exact ⟨fun ⟨⟨⟨hq, hs⟩, ho⟩, hl⟩ => ⟨hq, hs, ho, hl⟩, fun ⟨hq, hs, ho, hl⟩ => ⟨⟨⟨hq, hs⟩, ho⟩, hl⟩⟩

theorem State.agrees_iff (s : State) : s.Agrees ↔ s.net.Sound ∧ s.exch.AgreesIn s.net.mode := by
  rw [← State.exchangeAgrees_iff]
  exact ⟨fun ⟨hf, hr, hz, ho, hx⟩ => ⟨⟨hf, hr, hz, ho⟩, hx⟩, fun ⟨⟨hf, hr, hz, ho⟩, hx⟩ => ⟨hf, hr, hz, ho, hx⟩⟩

/-- The same, for a net and a mode named apart. -/
theorem State.agrees_of {s : State} {n : Net} {m : Mode} (hn : s.net = n) (hm : n.mode = m) (hs : n.Sound) (hx : s.exch.AgreesIn m) : s.Agrees :=
  (State.agrees_iff s).2 ⟨by rw [hn]; exact hs, by rw [hn, hm]; exact hx⟩

/-- The net's part does not speak of the run mode. -/
theorem Net.Sound.inMode {n : Net} (h : n.Sound) (m : Mode) : Net.Sound { n with mode := m } := ⟨h.zonesFit, h.resumes, h.zones, h.outages⟩

theorem State.Agrees.sound {s : State} (h : s.Agrees) : s.net.Sound := ((State.agrees_iff s).1 h).1

theorem State.Agrees.exch {s : State} (h : s.Agrees) : s.exch.AgreesIn s.net.mode := ((State.agrees_iff s).1 h).2

/-- In RUNNING the exchange unit is free but for the STARTING operation. -/
theorem Exchange.agreesIn_running (x : Exchange) : x.AgreesIn .running ↔ x.startOp = none := by
  constructor
  · intro h
    cases ho : x.startOp with
    | none => rfl
    | some o => exact absurd (h.starting.1 (by rw [ho]; rfl)) (by decide)
  · intro ho
    exact ⟨fun h => absurd rfl h, by simp [ho], by simp [ho], by simp⟩

/-- A running sweep, a sweep timer or a stall shows that the part is in RUNNING. -/
theorem State.Agrees.running_of_sweep {s : State} (h : s.Agrees) (hx : s.exch.sweep ≠ none) : s.net.mode = .running :=
  Decidable.by_contra fun hm => hx (h.exch.quiet hm).1

theorem State.Agrees.running_of_stall {s : State} {st : Stalled} (h : s.Agrees) (hx : s.exch.stall = some st) : s.net.mode = .running :=
  Decidable.by_contra fun hm => absurd (hx.symm.trans (h.exch.quiet hm).2.2.2) nofun

/-- A STARTING operation shows that the part is in STARTING. -/
theorem State.Agrees.mode_of_startOp {s : State} {o : StartOp} (h : s.Agrees) (hx : s.exch.startOp = some o) : s.net.mode = .starting :=
  h.exch.starting.1 (by rw [hx]; rfl)

/-! ## Operations that keep both parts -/

/-- The net keeps its mode and its part of the invariant. -/
structure Net.Keeps (a b : Net) : Prop where
  mode : b.mode = a.mode
  sound : a.Sound → b.Sound

theorem Net.Keeps.rfl {a : Net} : Net.Keeps a a := ⟨Eq.refl _, id⟩

theorem Net.Keeps.trans {a b c : Net} (h : Net.Keeps a b) (k : Net.Keeps b c) : Net.Keeps a c :=
  ⟨k.mode.trans h.mode, fun x => k.sound (h.sound x)⟩

/-- What a frame says of an operation that keeps the zones in agreement. -/
theorem Net.Keeps.of_frame {wz : Bool} {a b : Net} (h : Net.Frame wz a b) (hz : a.zonesAgree = true → b.zonesAgree = true) : Net.Keeps a b where
  mode := h.mode
  sound := fun k => ⟨by have := k.zonesFit; unfold Net.zonesFit at this ⊢; rwa [h.count], h.resumes k.resumes, hz k.zones, h.outages k.outages⟩

/-- A framed operation that leaves the zones' ground fields alone. -/
theorem Net.Frame.keeps {a b : Net} (h : Net.Frame true a b) : Net.Keeps a b := .of_frame h (Net.zonesAgree_of_ground (h.zones (Eq.refl _)))

/-- The exchange unit keeps sweep, timer, stall and STARTING operation, and no folio becomes lent where none was. -/
structure Exchange.Keeps (x y : Exchange) : Prop where
  sweep : y.sweep = x.sweep
  timer : y.sweepTimer = x.sweepTimer
  owed : y.sweepOwed = x.sweepOwed
  stall : y.stall = x.stall
  startOp : y.startOp = x.startOp
  lent : x.lent = [] → y.lent = []

theorem Exchange.Keeps.agreesIn {x y : Exchange} {m : Mode} (k : Exchange.Keeps x y) (h : x.AgreesIn m) : y.AgreesIn m where
  quiet := by rw [k.sweep, k.timer, k.owed, k.stall]; exact h.quiet
  starting := by rw [k.startOp]; exact h.starting
  origin := by rw [k.startOp]; exact h.origin
  lent := fun hm => k.lent (h.lent hm)

/-- An operation of the state that keeps both parts. -/
structure State.Keeps (s t : State) : Prop where
  net : Net.Keeps s.net t.net
  exch : Exchange.Keeps s.exch t.exch

theorem State.Keeps.rfl {s : State} : s.Keeps s := ⟨.rfl, Eq.refl _, Eq.refl _, Eq.refl _, Eq.refl _, Eq.refl _, id⟩

theorem State.Keeps.trans {s t u : State} (h : s.Keeps t) (k : t.Keeps u) : s.Keeps u where
  net := h.net.trans k.net
  exch := ⟨k.exch.sweep.trans h.exch.sweep, k.exch.timer.trans h.exch.timer, k.exch.owed.trans h.exch.owed, k.exch.stall.trans h.exch.stall,
    k.exch.startOp.trans h.exch.startOp, fun x => k.exch.lent (h.exch.lent x)⟩

theorem State.Keeps.agrees {s t : State} (k : s.Keeps t) (h : s.Agrees) : t.Agrees := by
  rw [State.agrees_iff, k.net.mode]
  exact ⟨k.net.sound h.sound, k.exch.agreesIn h.exch⟩

/-- An operation that leaves the exchange unit alone. -/
theorem State.Keeps.of_exch {s t : State} (hn : Net.Keeps s.net t.net) (hx : t.exch = s.exch) : s.Keeps t where
  net := hn
  exch := by rw [hx]; exact State.Keeps.rfl.exch

/-- An operation on the net alone. -/
theorem State.keeps_onNet {f : Net → Net} {s : State} (h : Net.Keeps s.net (f s.net)) : s.Keeps (s.onNet f) := .of_exch h rfl

/-- An operation on the registers of the exchange unit. -/
theorem State.keeps_latch (c : Cause) (s : State) : s.Keeps (s.latch c) := ⟨.rfl, rfl, rfl, rfl, rfl, rfl, id⟩

theorem State.keeps_setExch {f : Exchange → Exchange} {s : State} (h : Exchange.Keeps s.exch (f s.exch)) : s.Keeps (s.setExch f) := ⟨.rfl, h⟩

theorem State.keeps_setReport (f : ReportUnit → ReportUnit) (s : State) : s.Keeps (s.setReport f) := .of_exch .rfl rfl

theorem State.keeps_store (stores : List HostStore) (s : State) : s.Keeps (s.store stores) := .of_exch .rfl rfl

theorem State.keeps_cutOff (s : State) : s.Keeps s.cutOff := State.keeps_setExch ⟨rfl, rfl, rfl, rfl, rfl, id⟩

theorem State.keeps_put (a : Nat) (bs : List OutByte) (s : State) : s.Keeps (s.put a bs) := by
  unfold State.put
  split
  · exact .of_exch .rfl rfl
  · exact .rfl

theorem State.keeps_setTurn (i turn : Nat) (s : State) : s.Keeps (s.setTurn i turn) := State.keeps_put _ _ s

theorem State.keeps_judgeStarved (s : State) : s.Keeps s.judgeStarved := by
  unfold State.judgeStarved
  split
  · exact State.keeps_latch _ s
  · exact .rfl

theorem State.keeps_restartTimeOfDay (s : State) : s.Keeps s.restartTimeOfDay := .of_exch .rfl rfl

theorem State.keeps_tick (s : State) : s.Keeps s.tick := by
  have hnow : Net.Keeps s.net { s.net with now := (s.net.now + 1) % Config.runClockModulus } :=
    ⟨rfl, fun h => ⟨h.zonesFit, h.resumes, h.zones, h.outages⟩⟩
  unfold State.tick
  dsimp only
  split <;> exact .of_exch hnow rfl

theorem State.keeps_takeClock (b : ClockBody) (s : State) : s.Keeps (s.takeClock b).1 := by
  unfold State.takeClock
  split
  · exact .of_exch .rfl rfl
  · exact .rfl

/-- An operation repeated that keeps both parts. -/
theorem overEach_keeps {α : Type} {f : α → State → State} (hf : ∀ (x : α) (s : State), s.Keeps (f x s)) (xs : List α) (s : State) :
    s.Keeps (overEach f xs s) := by
  unfold overEach
  induction xs generalizing s with
  | nil => exact .rfl
  | cons x xs ih => exact (hf x s).trans (ih (f x s))

/-! ### Answers and reports -/

theorem State.keeps_writeAnswer (r : Reply) (s : State) : s.Keeps (s.writeAnswer r) := by
  have written (bs : List OutByte) := (State.keeps_put (s.folioAddr r.folio + 2) bs s).trans (State.keeps_setTurn r.folio turnAnswered _)
  unfold State.writeAnswer
  dsimp only
  split
  · split
    · exact (written _).trans (State.keeps_latch _ _)
    · exact written _
  · exact .rfl

theorem Net.keeps_completeReal (n : Net) : Net.Keeps n n.completeReal := .of_frame (Net.completeReal_frame .rfl) Net.zonesAgree_completeReal

theorem Net.keeps_freeRetired (rs : List Retiring) (n : Net) : Net.Keeps n (n.freeRetired rs) :=
  .of_frame (Net.freeRetired_frame .rfl) Net.zonesAgree_freeRetired

theorem State.keeps_writeReturned (i count : Nat) (s : State) : s.Keeps (s.writeReturned i count) :=
  (State.keeps_put _ _ s).trans (State.keeps_setTurn _ _ _)

theorem State.keeps_returnFolio (s : State) : s.Keeps s.returnFolio := by
  unfold State.returnFolio
  split
  · exact .rfl
  · next f hf =>
    have latched : s.Keeps ((s.writeReturned f s.report.count).latch .return_) :=
      (State.keeps_writeReturned _ _ s).trans (State.keeps_latch _ _)
    dsimp only
    refine .trans (.trans ?_ (State.keeps_setReport _ _)) (State.keeps_onNet (Net.keeps_freeRetired _ _))
    split
    · exact latched.trans (State.keeps_latch _ _)
    · exact latched

theorem State.keeps_endInProgress (s : State) : s.Keeps s.endInProgress := by
  refine .of_exch ?_ (State.endInProgress_exch s)
  unfold State.endInProgress
  split
  · exact (Net.mark_frame .rfl).keeps
  · exact .rfl

theorem State.keeps_loseFolio (s : State) : s.Keeps s.loseFolio := by
  unfold State.loseFolio
  split
  · exact .rfl
  · refine .trans (.trans (.trans (State.keeps_onNet ?_) (State.keeps_endInProgress _)) (State.keeps_onNet ?_)) (State.keeps_setReport _ _)
    · exact (overEach_frame (fun _ _ h => Net.mark_frame h) .rfl).keeps
    · exact (overEach_frame (fun _ _ h => Net.unretire_frame h) .rfl).keeps

theorem State.keeps_takeLent (s : State) : s.Keeps s.takeLent := by
  unfold State.takeLent
  split
  · next hl => exact ⟨.rfl, rfl, rfl, rfl, rfl, rfl, fun h => absurd (hl.symm.trans h) nofun⟩
  · exact .rfl

/-- Taking a record off the mark lists touches no record. -/
theorem Net.keeps_unmark (r : RecordName) (n : Net) : Net.Keeps n { n with marks := n.marks.remove r } :=
  ⟨rfl, fun h => ⟨h.zonesFit, h.resumes, h.zones, h.outages⟩⟩

theorem State.keeps_writeShare (f : Nat) (p : ReportInProgress) (s : State) : s.Keeps (s.writeShare f p) := by
  have unmarked (g : ReportUnit → ReportUnit) (a : Nat) (bs : List OutByte) :
      s.Keeps (if s.report.inProgress.isSome then (s.put a bs).setReport g
        else ((s.put a bs).setReport g).onNet (fun n => { n with marks := n.marks.remove p.record })) := by
    have shared := (State.keeps_put a bs s).trans (State.keeps_setReport g _)
    split
    · exact shared
    · exact shared.trans (State.keeps_onNet (Net.keeps_unmark _ _))
  unfold State.writeShare
  dsimp only
  split
  · exact (unmarked _ _ _).trans (State.keeps_onNet (Net.retire_frame .rfl).keeps)
  · exact unmarked _ _ _

theorem State.keeps_writeNext {s t : State} (e : s.writeNext = some t) : s.Keeps t := by
  unfold State.writeNext at e
  split at e
  · split at e <;> cases e <;> exact State.keeps_writeShare _ _ s
  · cases e
    exact .rfl

theorem State.keeps_writeReport (s : State) : s.Keeps s.writeReport := by
  unfold State.writeReport
  split
  · split
    · next s1 e =>
      have written := s.keeps_takeLent.trans (State.keeps_writeNext e)
      split
      · exact written.trans (State.keeps_returnFolio _)
      · exact written
    · exact s.keeps_takeLent.trans (State.keeps_returnFolio _)
  · exact .rfl

theorem State.keeps_returnLent (is : List Nat) (s : State) : s.Keeps (State.returnLent is s) := by
  induction is generalizing s with
  | nil => exact ⟨.rfl, rfl, rfl, rfl, rfl, rfl, fun _ => rfl⟩
  | cons i rest ih => exact ((State.keeps_writeReturned i 0 s).trans (State.keeps_latch _ _)).trans (ih _)

theorem State.keeps_drain (s : State) : s.Keeps s.drain := by
  unfold State.drain State.finishDrain
  split
  · exact ((s.keeps_returnFolio.trans (State.keeps_endInProgress _)).trans (State.keeps_returnLent _ _)).trans (State.keeps_setReport _ _)
  · exact .rfl

theorem State.keeps_drainedBefore (k : Nat) (s : State) : s.Keeps (s.drainedBefore k) := by
  unfold State.drainedBefore State.finishedBefore
  split
  · split
    · exact .rfl
    · exact (s.keeps_returnFolio.trans (State.keeps_endInProgress _)).trans (State.keeps_returnLent _ _)
    · exact s.keeps_endInProgress.trans (State.keeps_returnLent _ _)
  · exact .rfl

theorem State.keeps_returnedBefore (due : Bool) (k : Nat) (s : State) : s.Keeps (s.returnedBefore due k) := by
  unfold State.returnedBefore
  split
  · exact .rfl
  · exact s.keeps_returnFolio.trans (State.keeps_drainedBefore _ _)
  · exact State.keeps_drainedBefore _ _

theorem State.keeps_writtenBefore (k : Nat) (s : State) : s.Keeps (s.writtenBefore k) := by
  unfold State.writtenBefore
  split
  · next e => exact (s.keeps_takeLent.trans (State.keeps_writeNext e)).trans (State.keeps_returnedBefore _ _ _)
  · exact s.keeps_takeLent.trans (State.keeps_returnedBefore _ _ _)

/-! ### Orders handed to their owners -/

theorem Net.keeps_takeRestore (r : Ref) (n : Net) : Net.Keeps n (n.takeRestore r).1 :=
  .of_frame (Net.takeRestore_frame .rfl) Net.zonesAgree_takeRestore

theorem Net.keeps_takeRelight (b : RelightBody) (n : Net) : Net.Keeps n (n.takeRelight b).1 :=
  .of_frame (Net.takeRelight_frame .rfl) Net.zonesAgree_takeRelight

theorem State.keeps_runOrder (i : Nat) (o : Order) (s : State) : s.Keeps (s.runOrder i o).1 := by
  refine .of_exch ?_ (State.runOrder_owner i o s).exch
  unfold State.runOrder onNetAnswer onNetAnswerLines onNetResult
  cases o with dsimp only
  | call b => exact (Net.takeCall_frame .rfl).keeps
  | act b => exact (Net.takeAct_frame .rfl).keeps
  | plan b => exact (Net.takePlan_frame .rfl).keeps
  | proceed b => exact (Net.arbitrateAll_frame (Net.takeProceed_frame .rfl)).keeps
  | abandon b => exact (Net.arbitrateAll_frame (Net.takeAbandon_frame .rfl)).keeps
  | restore b => exact Net.keeps_takeRestore _ _
  | relight b => exact Net.keeps_takeRelight _ _
  | valveNote b => exact (Net.takeNote_frame .rfl).keeps
  | source b => exact (Net.takeSource_frame .rfl).keeps
  | line b => exact (Net.arbitrateAll_frame (Net.takeLine_frame .rfl)).keeps
  | limits b => exact (Net.takeLimits_frame .rfl).keeps
  | clock b => exact (State.keeps_takeClock b s).net
  | lend | query => exact .rfl

/-- R158: a taken folio leaves the lent list; no folio becomes lent. -/
theorem State.keeps_reclaim (i : Nat) (s : State) : s.Keeps (s.reclaim i) := by
  have cleared : s.Keeps (s.setExch (fun x => { x with lent := x.lent.filter (fun j => j ≠ i), cursor := some i })) :=
    State.keeps_setExch ⟨rfl, rfl, rfl, rfl, rfl, fun h => by rw [h]; rfl⟩
  unfold State.reclaim
  dsimp only
  refine .trans ?_ (State.keeps_onNet (Net.loseOrderFolio_frame .rfl).keeps)
  split
  · exact cleared.trans (State.keeps_loseFolio _)
  · exact cleared

theorem State.keeps_cutOffTrial (s : State) : s.Keeps s.cutOffTrial where
  net := (Net.arbitrateAll_frame (Net.completeTrial_frame .rfl)).keeps
  exch := s.keeps_cutOff.exch

/-! ## Operations of a running exchange -/

/-- An operation that keeps the net's part, and the exchange unit's STARTING operation. -/
structure State.RunKeeps (s t : State) : Prop where
  net : Net.Keeps s.net t.net
  startOp : t.exch.startOp = s.exch.startOp

theorem State.Keeps.run {s t : State} (k : s.Keeps t) : s.RunKeeps t := ⟨k.net, k.exch.startOp⟩

theorem State.RunKeeps.trans {s t u : State} (h : s.RunKeeps t) (k : t.RunKeeps u) : s.RunKeeps u :=
  ⟨h.net.trans k.net, k.startOp.trans h.startOp⟩

theorem State.RunKeeps.running {s t : State} (k : s.RunKeeps t) (hm : s.net.mode = .running) : t.net.mode = .running := k.net.mode.trans hm

theorem State.RunKeeps.agrees {s t : State} (k : s.RunKeeps t) (h : s.Agrees) (hm : s.net.mode = .running) : t.Agrees := by
  have hx := h.exch
  rw [hm, Exchange.agreesIn_running] at hx
  rw [State.agrees_iff, k.running hm, Exchange.agreesIn_running, k.startOp]
  exact ⟨k.net.sound h.sound, hx⟩

theorem State.runKeeps_setExch {f : Exchange → Exchange} {s : State} (h : (f s.exch).startOp = s.exch.startOp) : s.RunKeeps (s.setExch f) :=
  ⟨.rfl, h⟩

/-- R160: a folio joins the lent list, or is answered. -/
theorem State.runKeeps_lend (i : Nat) (s : State) : s.RunKeeps (s.lend i) := by
  unfold State.lend
  split
  · exact (State.keeps_setTurn i turnLent s).run.trans ⟨.rfl, rfl⟩
  · exact (State.keeps_writeAnswer _ s).run

theorem State.runKeeps_settleOrder (i : Nat) (q : State × OrderResult) : q.1.RunKeeps (State.settleOrder i q) := by
  unfold State.settleOrder
  split
  · exact (State.keeps_writeAnswer _ _).run
  · exact State.Keeps.rfl.run
  · exact ⟨.rfl, rfl⟩

theorem State.runKeeps_serveFolio (i : Nat) (o : PostedOrder) (s : State) : s.RunKeeps (s.serveFolio i o) := by
  unfold State.serveFolio
  split
  · exact (State.keeps_writeAnswer _ s).run
  · exact (State.keeps_setTurn i turnTaken s).run.trans (State.runKeeps_settleOrder i (_, _))
  · exact State.runKeeps_lend i s
  · exact ((State.keeps_setTurn i turnTaken s).trans (State.keeps_runOrder i _ _)).run.trans (State.runKeeps_settleOrder i _)

theorem State.keeps_writeTaken (i : Nat) (o : PostedOrder) (s : State) : s.Keeps (s.writeTaken i o) := by
  unfold State.writeTaken
  split
  · exact State.keeps_setTurn _ _ s
  · exact .rfl

/-! ## Exchange faults (R163, R164) -/

theorem State.dropStall_exch (s : State) : s.dropStall.exch = { s.exch with stall := none } := by
  unfold State.dropStall
  dsimp only [State.setExch]
  split
  · split <;> rfl
  · rfl

theorem State.dropStall_net (s : State) : Net.Keeps s.net s.dropStall.net := by
  unfold State.dropStall
  dsimp only [State.setExch]
  split
  · split
    · exact (Net.freePlan_frame .rfl).keeps
    · exact .rfl
  · exact .rfl

theorem State.faultCommon_net (c : FaultCode) (s : State) : Net.Keeps s.net (s.faultCommon c).net := by
  unfold State.faultCommon
  generalize hu : State.latch .fault (State.setExch _ s) = u
  have hn : u.net = s.net := by rw [← hu]; rfl
  rw [← hn]
  exact (State.keeps_loseFolio u).net

/-- R163: an exchange fault leaves no sweep, no timer, nothing owed and nothing lent. -/
theorem State.faultCommon_exch (c : FaultCode) (s : State) :
    (s.faultCommon c).exch =
      { s.exch with
        faultCode := c, sweep := none, sweepTimer := none, sweepOwed := false, lent := [], reachable := false
        cause := s.exch.cause ||| Cause.fault.bit } := State.loseFolio_exch _

theorem State.agrees_exchangeFault (c : FaultCode) {s : State} (h : s.Agrees) : (s.exchangeFault c).Agrees := by
  unfold State.exchangeFault
  split
  · next hm =>
    have ho := h.exch
    rw [hm, Exchange.agreesIn_running] at ho
    have hs := ((s.faultCommon_net c).trans (State.dropStall_net _)).sound h.sound
    refine State.agrees_of rfl rfl (hs.inMode .detached) ?_
    rw [State.onNet_exch, State.dropStall_exch, State.faultCommon_exch]
    exact ⟨fun _ => ⟨rfl, rfl, rfl, rfl⟩, by simp [ho], by simp [ho], fun _ => rfl⟩
  · next hm =>
    split
    · have hx := h.exch
      refine ((State.keeps_endInProgress _).trans (State.keeps_setReport _ _)).agrees ?_
      rw [State.agrees_iff, (s.faultCommon_net c).mode, State.faultCommon_exch]
      exact ⟨(s.faultCommon_net c).sound h.sound,
        fun hr => ⟨rfl, rfl, rfl, (hx.quiet hr).2.2.2⟩, hx.starting, hx.origin, fun _ => rfl⟩
    · exact h
  all_goals exact h

theorem State.agrees_memoryFault {before s : State} (h : s.Agrees) : (State.memoryFault before s).Agrees :=
  State.agrees_exchangeFault _ ((State.keeps_setExch ⟨rfl, rfl, rfl, rfl, rfl, id⟩).agrees h)

/-! ## Sweeps (R156, R157) -/

section
variable {s : State}

theorem State.agrees_walk (i : Nat) (h : s.Agrees) (hm : s.net.mode = .running) : (s.walk i).Agrees := by
  unfold State.walk
  split
  · exact State.agrees_exchangeFault _ h
  · split
    · exact (State.runKeeps_setExch rfl).agrees h hm
    · split
      · exact State.agrees_exchangeFault _ h
      · exact (State.runKeeps_setExch rfl).agrees h hm

theorem State.agrees_beginSweep (h : s.Agrees) (hm : s.net.mode = .running) : s.beginSweep.Agrees := by
  unfold State.beginSweep
  split
  · exact (State.runKeeps_setExch rfl).agrees h hm
  · exact State.agrees_walk _ h hm

theorem State.agrees_askSweep (h : s.Agrees) : s.askSweep.Agrees := by
  unfold State.askSweep
  split
  · next hr =>
    split
    · exact (State.runKeeps_setExch rfl).agrees h hr.1
    · exact State.agrees_beginSweep h hr.1
  · exact h

theorem State.agrees_endSweep (h : s.Agrees) (hm : s.net.mode = .running) : s.endSweep.Agrees := by
  unfold State.endSweep
  dsimp only
  split
  · exact State.agrees_beginSweep ((State.runKeeps_setExch rfl).agrees h hm) hm
  · exact State.RunKeeps.agrees (s := s) ⟨.rfl, rfl⟩ h hm

/-- R156: the expired sweep timer is taken off, in whatever mode. -/
theorem State.agrees_timerTaken (h : s.Agrees) : (s.setExch (fun x => { x with sweepTimer := none })).Agrees := by
  have hx := h.exch
  refine State.agrees_of rfl rfl h.sound ⟨fun hm => ?_, hx.starting, hx.origin, hx.lent⟩
  obtain ⟨hsweep, -, howed, hstall⟩ := hx.quiet hm
  exact ⟨hsweep, rfl, howed, hstall⟩

theorem State.sweep_of_sweepOver (h : s.sweepOver = true) : s.exch.sweep ≠ none := by
  intro hn
  rw [State.sweepOver, hn] at h
  exact nomatch h

theorem State.agrees_takeFolio (i : Nat) (o : PostedOrder) (h : s.Agrees) (hm : s.net.mode = .running) : (s.takeFolio i o).Agrees := by
  have served := (State.keeps_reclaim i s).run.trans (State.runKeeps_serveFolio i o _)
  unfold State.takeFolio
  dsimp only
  split
  · exact served.agrees h hm
  · exact State.agrees_walk i (served.agrees h hm) (served.running hm)

theorem State.agrees_sweepTake (h : s.Agrees) : s.sweepTake.Agrees := by
  unfold State.sweepTake
  split
  · next e => exact State.agrees_takeFolio _ _ h (State.postedNext_eq_some.1 e).2.1
  · exact h

theorem State.agrees_takeOrder (p : Post) (o : Order) (h : s.Agrees) : (s.takeOrder p o).Agrees := by
  unfold State.takeOrder
  split
  · next i _ =>
    split
    · next hm => exact State.agrees_takeFolio i _ (State.Keeps.agrees (.of_exch .rfl rfl : s.Keeps (s.hostPosts i p o)) h) hm
    · exact h
  · exact h

theorem State.agrees_freePlace (h : s.Agrees) : s.freePlace.Agrees := by
  unfold State.freePlace
  split
  · exact h
  · next st hst =>
    have hm := h.running_of_stall hst
    split
    · exact h
    · next n e =>
      have offered : s.RunKeeps (({ s with net := n } : State).setExch (fun x => { x with stall := none })) :=
        ⟨(Net.reoffer_frame .rfl e).keeps, rfl⟩
      dsimp only
      rw [if_pos hm]
      exact State.agrees_beginSweep (offered.agrees h hm) (offered.running hm)

theorem State.agrees_endTrial (h : s.Agrees) : s.endTrial.Agrees := by
  have judged : s.Keeps { s with net := s.net.completeTrial.net.arbitrateAll } :=
    .of_exch (Net.arbitrateAll_frame (Net.completeTrial_frame .rfl)).keeps rfl
  have answered : (match s.net.completeTrial.reply with
      | some r => State.writeAnswer r { s with net := s.net.completeTrial.net.arbitrateAll }
      | none => { s with net := s.net.completeTrial.net.arbitrateAll }).Agrees := by
    split
    · exact (judged.trans (State.keeps_writeAnswer _ _)).agrees h
    · exact judged.agrees h
  unfold State.endTrial
  dsimp only
  split
  · exact State.agrees_freePlace answered
  · exact answered

end

/-! ## Start, halt and resume -/

section
variable {s : State}

/-- Outside STARTING, in a mode the exchange is shut down for. -/
theorem Exchange.agreesIn_of_shut {x : Exchange} {m : Mode} (hm : m ≠ .starting) (hq : x.sweep = none ∧ x.sweepTimer = none ∧
    x.sweepOwed = false ∧ x.stall = none) (ho : x.startOp = none) (hl : x.lent = []) : x.AgreesIn m :=
  ⟨fun _ => hq, by simp [ho, hm], by simp [ho], fun _ => hl⟩

theorem State.agrees_hardReset (straps : Quad Bool) (s : State) : (s.hardReset straps).Agrees :=
  (State.agrees_iff _).2 ⟨⟨rfl, rfl, rfl, rfl⟩, Exchange.agreesIn_of_shut nofun ⟨rfl, rfl, rfl, rfl⟩ rfl rfl⟩

/-- R150: what a RUN-COLD or a RUN-WARM leaves in the exchange unit. -/
theorem Exchange.agreesIn_takeRun (op : StartOp) (x : Exchange) (ho : op.from = .halted ∨ op.from = .detached) :
    (x.takeRun op).AgreesIn .starting where
  quiet := fun _ => ⟨rfl, rfl, rfl, rfl⟩
  starting := ⟨fun _ => rfl, fun _ => rfl⟩
  origin := fun o e => by cases e; exact ho
  lent := fun _ => rfl

theorem State.agrees_runCold (h : s.Agrees) : s.runCold.Agrees := by
  unfold State.runCold
  split
  · exact (State.agrees_iff _).2 ⟨⟨rfl, rfl, rfl, rfl⟩, Exchange.agreesIn_takeRun _ _ (Or.inl rfl)⟩
  · exact h

theorem State.agrees_runWarm (h : s.Agrees) : s.runWarm.Agrees := by
  unfold State.runWarm
  split
  · next hm =>
    have hx := Exchange.agreesIn_takeRun (.warmReading s.net.mode s.exch.cursor s.exch.base) s.exch (hm.imp And.left id)
    exact State.agrees_of rfl rfl (h.sound.inMode .starting) ⟨hx.quiet, hx.starting, hx.origin, hx.lent⟩
  · exact h

/-- A STARTING operation that ends in a fault goes back to a mode in which the exchange is shut down. -/
theorem State.agrees_of_startEnds {t : State} {m : Mode} {o : StartOp} (h : s.Agrees) (ho : s.exch.startOp = some o)
    (hm : m = .halted ∨ m = .detached) (hn : t.net = { s.net with mode := m }) (ht : t.exch.startOp = none)
    (hk : Exchange.Keeps s.exch { t.exch with startOp := s.exch.startOp }) : t.Agrees := by
  have hx := hk.agreesIn h.exch
  rw [h.mode_of_startOp ho] at hx
  refine State.agrees_of hn rfl (h.sound.inMode m) (Exchange.agreesIn_of_shut ?_ (hx.quiet nofun) ht (hx.lent (Or.inr (Or.inl rfl))))
  rcases hm with rfl | rfl <;> exact nofun

theorem State.agrees_startFault (f : StartFault) {o : StartOp} (h : s.Agrees) (ho : s.exch.startOp = some o) : (s.startFault f).Agrees :=
  State.agrees_of_startEnds h ho (Or.inl rfl) rfl rfl ⟨rfl, rfl, rfl, rfl, rfl, id⟩

theorem State.agrees_failWarm (code : FaultCode) (cursor : Option Nat) (base : Nat) {o : StartOp} (h : s.Agrees)
    (ho : s.exch.startOp = some o) : (s.failWarm code o.from cursor base).Agrees :=
  State.agrees_of_startEnds h ho (h.exch.origin o ho) rfl rfl ⟨rfl, rfl, rfl, rfl, rfl, id⟩

/-- R180, check 5: images that pass hold at most 128 zones. -/
theorem startCheck_zones {m : Memory} {base : Nat} {c : Charter} {g : Images} (e : startCheck m base = .ok (c, g)) :
    g.zones.length ≤ Config.zoneMax := by
  unfold startCheck at e
  dsimp only at e
  split at e
  · exact nomatch e
  · split at e
    · exact nomatch e
    · next hc =>
      split at e
      · exact nomatch e
      · cases e
        have hz : ¬ ((readCharter m base).zones.count = 0 ∨ Config.zoneMax < (readCharter m base).zones.count) := by
          intro hz
          rw [Charter.countFault, if_pos hz] at hc
          exact nomatch hc
        simp only [readImages, readEntriesAt, List.length_map, List.length_range]
        omega

/-- R5, R42, R130: the network of a successful STARTING. -/
theorem Net.sound_buildNet (c : Charter) (g : Images) (n : Net) (hg : g.zones.length ≤ Config.zoneMax) : (buildNet c g n).Sound where
  zonesFit := by simpa [Net.zonesFit, buildNet] using hg
  resumes := by
    simp only [Net.resumesOk, buildNet, List.all_eq_true, List.mem_mapIdx, decide_eq_true_eq]
    rintro x ⟨i, hi, rfl⟩
    exact Or.inl rfl
  zones := by
    simp only [Net.zonesAgree, buildNet, List.all_eq_true, List.mem_mapIdx]
    rintro x ⟨i, hi, rfl⟩
    simp [Zone.agrees, Images.buildZone]
  outages := by simp [Net.outagesAgree, buildNet, freeSlots]

theorem State.agrees_endStarting (h : s.Agrees) : s.endStarting.Agrees := by
  unfold State.endStarting
  split
  · next ho =>
    split
    · exact State.agrees_startFault _ h ho
    · next c g e =>
      unfold State.startRun
      refine State.agrees_beginSweep (State.agrees_of rfl rfl (Net.sound_buildNet c g s.net (startCheck_zones e)) ?_) rfl
      exact (Exchange.agreesIn_running _).2 rfl
  · exact h

theorem Net.keeps_warmCharter (v : Quad LineValues) (n : Net) : Net.Keeps n (n.warmCharter v) := (Net.warmCharter_frame .rfl).keeps

/-- R183: a charter that passes moves the STARTING operation on, with the mode it came from. -/
theorem State.agrees_takeWarmCharter (c : Charter) {mode : Mode} {cursor : Option Nat} {base : Nat} (h : s.Agrees)
    (ho : s.exch.startOp = some (.warmReading mode cursor base)) : (s.takeWarmCharter c mode).Agrees := by
  have hx := h.exch
  have hmode := h.mode_of_startOp ho
  have kept := Net.keeps_warmCharter c.lines s.net
  refine State.agrees_of (n := s.net.warmCharter c.lines) rfl (kept.mode.trans hmode) (kept.sound h.sound) ⟨?_, ?_, ?_, ?_⟩
  · exact fun _ => hx.quiet (by rw [hmode]; exact nofun)
  · exact ⟨fun _ => rfl, fun _ => rfl⟩
  · intro o e
    cases e
    exact hx.origin (.warmReading mode cursor base) ho
  · exact fun _ => hx.lent (Or.inr (Or.inl hmode))

theorem State.agrees_readWarmCharter (h : s.Agrees) : s.readWarmCharter.Agrees := by
  unfold State.readWarmCharter
  split
  · next ho =>
    split
    · exact State.agrees_failWarm _ _ _ h ho
    · exact State.agrees_takeWarmCharter _ h ho
  · exact h

/-- R184: resuming touches no zone and no outage. -/
theorem Net.resumeRun_frame (n : Net) : Net.Frame true { n with mode := .running } n.resumeRun := by
  unfold Net.resumeRun
  refine Net.arbitrateAll_frame (Net.releaseHeld_frame (Net.setSurvey_frame (Net.takeDwellEnds_frame ?_)))
  exact overEach_frame (fun _ _ k => Net.takeStale_frame k) (overEach_frame (fun _ _ k => Net.expireIfDue_frame k) (Net.unverifyAll_frame .rfl))

theorem State.agrees_endWarm (h : s.Agrees) : s.endWarm.Agrees := by
  unfold State.endWarm
  split
  · have resumed := (Net.resumeRun_frame s.net).keeps
    have hm : s.net.resumeRun.mode = .running := resumed.mode
    refine State.agrees_beginSweep (State.agrees_of (n := s.net.resumeRun) ?_ hm (resumed.sound (h.sound.inMode .running)) ?_) ?_
    · rw [State.setExch_net, State.onNet_net]
    · exact (Exchange.agreesIn_running _).2 rfl
    · rw [State.setExch_net, State.onNet_net, hm]
  · exact h

/-- R77, R182: the net of a part entering HALTING. -/
theorem Net.keeps_enterHalting (n : Net) : Net.Keeps { n with mode := .halting, survey := n.survey.halt } n.enterHalting :=
  (Net.holdLines_frame .rfl).keeps

theorem Net.sound_enterHalting {n : Net} (h : n.Sound) : n.enterHalting.Sound :=
  n.keeps_enterHalting.sound ⟨h.zonesFit, h.resumes, h.zones, h.outages⟩

theorem Net.keeps_haltOrders (stall : Option Stalled) (n : Net) : Net.Keeps n (n.haltOrders stall).1 := (Net.haltOrders_frame .rfl).keeps

theorem State.agrees_enterHaltWith (written : List Reply) (h : s.Agrees) (hm : s.net.mode ≠ .starting) : (s.enterHaltWith written).Agrees := by
  have ho : s.exch.startOp = none := by
    cases ho : s.exch.startOp with
    | none => rfl
    | some o => exact absurd (h.mode_of_startOp ho) hm
  unfold State.enterHaltWith
  refine ((overEach_keeps State.keeps_writeAnswer _ _).trans (State.keeps_setReport _ _)).agrees ?_
  refine State.agrees_of (n := (s.net.haltOrders s.exch.stall).1.enterHalting) ?_ (Net.keeps_enterHalting _).mode
    (Net.sound_enterHalting ((Net.keeps_haltOrders _ _).sound h.sound)) ?_
  · rw [State.setExch_net]
  · exact ⟨fun _ => ⟨rfl, rfl, rfl, rfl⟩, by simp [ho], by simp [ho], by simp⟩

theorem State.agrees_haltRun (h : s.Agrees) : s.haltRun.Agrees := by
  unfold State.haltRun
  split
  · next hm =>
    refine (State.keeps_drain _).agrees (State.agrees_enterHaltWith _ h ?_)
    rcases hm with hm | hm <;> rw [hm] <;> exact nofun
  · exact h

theorem State.agrees_endHalting (h : s.Agrees) : s.endHalting.Agrees := by
  unfold State.endHalting
  split
  · next hm =>
    have hx := h.exch
    rw [hm.1] at hx
    have hq := hx.quiet nofun
    refine State.agrees_of rfl rfl (h.sound.inMode .halted) ?_
    refine Exchange.agreesIn_of_shut nofun ⟨hq.1, rfl, hq.2.2.1, hq.2.2.2⟩ ?_ rfl
    cases ho : s.exch.startOp with
    | none => exact ho
    | some o => exact absurd (hx.starting.1 (by rw [ho]; rfl)) nofun
  · exact h

theorem State.agrees_writeMode (v : Word) (h : s.Agrees) : (s.writeMode v).Agrees := by
  unfold State.writeMode
  split
  · exact State.agrees_runCold h
  · exact State.agrees_runWarm h
  · exact State.agrees_haltRun h
  · exact h

/-! ## Bus errors (R163, R180, R183) -/

theorem State.agrees_failTaken (h : s.Agrees) : s.failTaken.Agrees := by
  unfold State.failTaken
  split
  · next i o e =>
    split
    · refine State.agrees_memoryFault (State.RunKeeps.agrees ?_ h (State.postedNext_eq_some.1 e).2.1)
      exact (s.keeps_cutOff.trans (State.keeps_reclaim i _)).run.trans (State.runKeeps_serveFolio i o _)
    · exact State.agrees_exchangeFault _ h
  · exact State.agrees_exchangeFault _ h

theorem State.agrees_failAnswer (h : s.Agrees) : s.failAnswer.Agrees := by
  unfold State.failAnswer
  split
  · next i o e =>
    split
    · refine State.agrees_memoryFault (State.RunKeeps.agrees ?_ h (State.postedNext_eq_some.1 e).2.1)
      exact (((State.keeps_writeTaken i o s).trans (State.keeps_cutOff _)).trans (State.keeps_reclaim i _)).run.trans
        (State.runKeeps_serveFolio i o _)
    · exact State.agrees_exchangeFault _ h
  · exact State.agrees_exchangeFault _ h

theorem State.agrees_failHalted (k : Nat) (h : s.Agrees) : (s.failHalted k).Agrees := by
  unfold State.failHalted
  split
  · next hm => exact State.agrees_exchangeFault _ (State.agrees_enterHaltWith _ h (by rw [hm.1]; exact nofun))
  · exact State.agrees_exchangeFault _ h

/-- R169: what a failing write of a report has done in the part. -/
theorem State.keeps_writeNext_getD (s : State) : s.Keeps (s.writeNext.getD s) := by
  cases e : s.writeNext with
  | none => exact .rfl
  | some t => exact State.keeps_writeNext e

theorem State.agrees_exchangeError (a : BusAccess) (h : s.Agrees) : (s.exchangeError a).Agrees := by
  unfold State.exchangeError
  split
  case h_1 => exact State.agrees_failTaken h
  case h_2 => exact State.agrees_failAnswer h
  case h_3 => exact State.agrees_memoryFault (s.keeps_cutOffTrial.agrees h)
  case h_4 =>
    split
    · exact State.agrees_memoryFault (((s.keeps_cutOff.trans (State.keeps_takeLent _)).trans (State.keeps_writeNext_getD _)).agrees h)
    · exact State.agrees_exchangeFault _ h
  case h_5 => exact State.agrees_failHalted _ h
  case h_6 =>
    refine State.agrees_exchangeFault _ ?_
    split
    · exact (State.keeps_writtenBefore _ s).agrees h
    · exact h
  case h_7 =>
    refine State.agrees_exchangeFault _ ?_
    split
    · exact (State.keeps_returnedBefore _ _ s).agrees h
    · exact h
  case h_8 =>
    refine State.agrees_exchangeFault _ ?_
    split
    · next hm => exact (State.keeps_drainedBefore _ _).agrees (State.agrees_enterHaltWith _ h (by rw [hm]; exact nofun))
    · exact h
  all_goals exact State.agrees_exchangeFault _ h

theorem State.agrees_busError (a : BusAccess) (h : s.Agrees) : (s.busError a).Agrees := by
  have trial := s.keeps_cutOffTrial.agrees h
  unfold State.busError
  split
  · next ho => exact State.agrees_startFault _ h ho
  · next ho _ => exact State.agrees_startFault _ h ho
  · next ho => exact State.agrees_failWarm _ _ _ trial ho
  · next ho _ => exact State.agrees_failWarm _ _ _ h ho
  · next ho => exact State.agrees_failWarm _ _ _ trial ho
  · exact h
  · exact State.agrees_exchangeError _ h

end

/-! ## Every command -/

section
variable {s : State}

/-- A command whose event ends with STARVED judged. -/
theorem State.agrees_of_concluded {s t : State} (h : s.Agrees) (e : s.concluded = .next t) : t.Agrees := by
  cases e
  exact s.keeps_judgeStarved.agrees h

/-- An event that changes nothing while its condition does not hold (log 4). -/
theorem State.agrees_ite {u : State} {c : Prop} [Decidable c] (hu : c → u.Agrees) (h : s.Agrees) : (if c then u else s).Agrees := by
  split
  · next hc => exact hu hc
  · exact h

/-- An event of the net alone. -/
theorem State.agrees_of_netEvent {f : Net → Net} {t : State} (e : (s.onNet f).concluded = .next t) (h : s.Agrees)
    (hf : Net.Frame true s.net (f s.net)) : t.Agrees :=
  State.agrees_of_concluded ((State.keeps_onNet hf.keeps).agrees h) e

/-- An event of the net alone that happens under a condition. -/
theorem State.agrees_of_netEvent_ite {f : Net → Net} {t : State} {c : Prop} [Decidable c]
    (e : (if c then s.onNet f else s).concluded = .next t) (h : s.Agrees) (hf : Net.Frame true s.net (f s.net)) : t.Agrees :=
  State.agrees_of_concluded (State.agrees_ite (fun _ => (State.keeps_onNet hf.keeps).agrees h) h) e

theorem exec_agrees (c : Instr) {t : State} (h : s.Agrees) (e : exec c s = .next t) : t.Agrees := by
  have stored (stores : List HostStore) : (s.store stores).Agrees := (s.keeps_store stores).agrees h
  cases c with
  | hardwareReset straps =>
    cases e
    exact State.agrees_hardReset straps s
  | timeOfDayPowerOn =>
    cases e
    exact s.keeps_restartTimeOfDay.agrees h
  | timeOfDayRollover =>
    cases e
    exact State.agrees_ite (fun _ => s.keeps_restartTimeOfDay.agrees h) h
  | xbaseWrite v =>
    cases e
    exact State.agrees_ite (fun _ => (State.keeps_setExch ⟨rfl, rfl, rfl, rfl, rfl, id⟩).agrees h) h
  | identWrite v =>
    cases e
    exact h
  | causeWrite v => exact State.agrees_of_concluded ((State.keeps_setExch ⟨rfl, rfl, rfl, rfl, rfl, id⟩).agrees h) e
  | causeenWrite v =>
    cases e
    exact (State.keeps_setExch ⟨rfl, rfl, rfl, rfl, rfl, id⟩).agrees h
  | runCold v | runWarm v | halt v => exact State.agrees_of_concluded (State.agrees_writeMode v h) e
  | look v stores => exact State.agrees_of_concluded (State.agrees_askSweep (stored stores)) e
  | startingEnd stores => exact State.agrees_of_concluded (State.agrees_endStarting (stored stores)) e
  | warmCharterRead stores => exact State.agrees_of_concluded (State.agrees_readWarmCharter (stored stores)) e
  | warmStartEnd stores => exact State.agrees_of_concluded (State.agrees_endWarm (stored stores)) e
  | haltingEnd => exact State.agrees_of_concluded (State.agrees_endHalting h) e
  | sweepTimerExpiry stores =>
    refine State.agrees_of_concluded (State.agrees_ite (fun hd => ?_) (stored stores)) e
    exact State.agrees_askSweep (State.agrees_timerTaken (stored stores))
  | sweepEnd stores =>
    have ended (hd : (s.store stores).sweepOver = true) : (s.store stores).endSweep.Agrees :=
      State.agrees_endSweep (stored stores) ((stored stores).running_of_sweep (State.sweep_of_sweepOver hd))
    exact State.agrees_of_concluded (State.agrees_ite ended (stored stores)) e
  | folioTaken stores => exact State.agrees_of_concluded (State.agrees_sweepTake (stored stores)) e
  | memoryFault a stores => exact State.agrees_of_concluded (State.agrees_busError a (stored stores)) e
  | call p | attend p | safe p | close p | reclass p | ack p | plan p | proceed p | abandon p | restore p | relight p | valveNote p | source p
  | hold p | release p | configure p | role p | limits p | lend p | query p | clock p =>
    exact State.agrees_of_concluded (State.agrees_takeOrder p _ h) e
  | gapExpiry l =>
    exact State.agrees_of_netEvent_ite e h (Net.arbitrate_frame (Net.setLine_frame .rfl))
  | idleWaitExpiry l =>
    exact State.agrees_of_netEvent_ite e h (Net.arbitrate_frame (Net.setLine_frame .rfl))
  | settlingExpiry l =>
    exact State.agrees_of_netEvent_ite e h (Net.arbitrate_frame (Net.enterIdle_frame .rfl))
  | pollSent l | replyFrameBegun l =>
    exact State.agrees_of_netEvent_ite e h (Net.setLine_frame .rfl)
  | replyFrame l bytes =>
    exact State.agrees_of_netEvent e h (Net.arbitrateAll_frame (Net.takeFrame_frame .rfl))
  | responseWindowExpiry l =>
    exact State.agrees_of_netEvent_ite e h (Net.arbitrateAll_frame (Net.endExchange_frame .rfl))
  | listenFrame l bytes => exact State.agrees_of_netEvent e h (Net.arbitrateAll_frame (Net.hear_frame .rfl))
  | listenLost st => exact State.agrees_of_netEvent e h (Net.arbitrateAll_frame (Net.takeListenLost_frame .rfl))
  | replyAgeExpiry st => exact State.agrees_of_netEvent e h (Net.arbitrateAll_frame (Net.takeReplyAge_frame .rfl))
  | travelLimitExpiry v =>
    exact State.agrees_of_netEvent e h (Net.arbitrateAll_frame (Net.takeTravelLimit_frame .rfl))
  | dwellEnd v => exact State.agrees_of_netEvent e h (Net.arbitrateAll_frame (Net.takeDwellEnd_frame .rfl))
  | staleExpiry i => exact State.agrees_of_netEvent_ite e h (Net.takeStale_frame .rfl)
  | deadlineExpiry i => exact State.agrees_of_netEvent_ite e h (Net.expireIfDue_frame .rfl)
  | realSurveyStart => exact State.agrees_of_netEvent e h (Net.startReal_frame .rfl)
  | realSurveyCompletion => exact State.agrees_of_concluded ((State.keeps_onNet s.net.keeps_completeReal).agrees h) e
  | trialStart => exact State.agrees_of_netEvent e h (Net.startTrial_frame .rfl)
  | trialCompletion stores => exact State.agrees_of_concluded (State.agrees_endTrial (stored stores)) e
  | reportWrite => exact State.agrees_of_concluded ((s.keeps_writeReport.trans (State.keeps_drain _)).agrees h) e
  | flushTimerExpiry =>
    exact State.agrees_of_concluded (State.agrees_ite (fun _ => (s.keeps_returnFolio.trans (State.keeps_drain _)).agrees h) h) e

/-- The clocks, or the front command; the queue is no part of the invariant. -/
theorem step_agrees {t : State} (h : s.Agrees) (e : step s = .next t) : t.Agrees := by
  unfold step at e
  split at e
  · cases e
    exact s.keeps_tick.agrees h
  · next c rest _ =>
    have queued : s.Keeps { s with pending := rest } := .of_exch .rfl rfl
    exact exec_agrees c (queued.agrees h) e

end

/-- Settles O59: every command and every tick keeps the invariant, `step_agrees`. -/
theorem everyStepKeepsRecordsInAgreement : Obligations.EveryStepKeepsRecordsInAgreement := fun _ _ h e => step_agrees h e

end Sys2Proof.Machine
end

section
/-! What is heard on a LISTEN line, stations made LOST and points made STALE (R9 to R11, R14, R38, R39, R48, R49, R51, R55, R59, R61, R63). -/

namespace Sys2Proof.Machine

/-! ## A reply frame reads back as it was sent (R188) -/

theorem parseReadings_bytes (rs : List PointReading) (tail : List Byte) (h : ∀ r ∈ rs, r.slot < 8 ∧ r.value < 65536) :
    parseReadings rs.length ((rs.map PointReading.bytes).flatten ++ tail) = some (rs, tail) := by
  induction rs with
  | nil => rfl
  | cons r rs ih =>
    obtain ⟨hslot, hvalue⟩ := h r List.mem_cons_self
    have hfirst : (BitVec.ofNat 8 (r.slot % 8 + if r.fault then 128 else 0)).toNat % 8 = r.slot := by
      rw [BitVec.toNat_ofNat]
      split <;> omega
    have hfault : (BitVec.ofNat 8 (r.slot % 8 + if r.fault then 128 else 0)).getLsbD 7 = r.fault := by
      rw [BitVec.getLsbD_ofNat, Nat.testBit_eq_decide_div_mod_eq]
      cases r.fault <;> simp <;> omega
    have hword : beHalf (BitVec.ofNat 8 (r.value / 256)) (BitVec.ofNat 8 r.value) = r.value := by
      simp only [beHalf, BitVec.toNat_ofNat]
      omega
    have htail := ih (fun x hx => h x (List.mem_cons_of_mem _ hx))
    simp only [List.length_cons, List.map_cons, List.flatten_cons, PointReading.bytes, List.cons_append, List.nil_append,
      parseReadings, htail, Option.map_some, hfirst, hfault, hword]

/-- The echo of a payload as it is sent. -/
def echoBytes : Option Byte → List Byte
  | some tag => [1, tag]
  | none => [0, 0]

/-- The valve part of a payload as it is sent, behind its flag. -/
def valvePartBytes : Option (Byte × Byte) → List Byte
  | some (a, b) => [1, a, b]
  | none => [0]

theorem Payload.bytes_eq (p : Payload) :
    p.bytes = echoBytes p.echo ++ [BitVec.ofNat 8 p.readings.length] ++ (p.readings.map PointReading.bytes).flatten ++ valvePartBytes p.valve := by
  obtain ⟨_ | tag, readings, _ | ⟨a, b⟩⟩ := p <;> rfl

theorem parseValvePart_bytes (v : Option (Byte × Byte)) : parseValvePart (valvePartBytes v) = some v := by
  rcases v with _ | ⟨a, b⟩ <;> rfl

theorem parsePayload_bytes (p : Payload) (h : p.ok = true) : parsePayload p.bytes = some p := by
  rw [Payload.bytes_eq]
  obtain ⟨echo, readings, valve⟩ := p
  simp only [Payload.ok, Bool.and_eq_true, decide_eq_true_eq, List.all_eq_true] at h
  obtain ⟨hcount, hgood⟩ := h
  have hnat : (BitVec.ofNat 8 readings.length).toNat = readings.length := by
    rw [BitVec.toNat_ofNat]
    omega
  have hread := parseReadings_bytes readings (valvePartBytes valve) hgood
  have hle : ¬ 8 < readings.length := by omega
  cases echo with
  | none => simp [echoBytes, parsePayload, hnat, hread, parseValvePart_bytes, hle]
  | some tag => simp [echoBytes, parsePayload, hnat, hread, parseValvePart_bytes, hle]

theorem parseKind_bytes (k : ReplyKind) (h : k.ok = true) : parseKind k.bytes = some k := by
  cases k with
  | data p => simp [parseKind, ReplyKind.bytes, parsePayload_bytes p h]
  | part p => simp [parseKind, ReplyKind.bytes, parsePayload_bytes p h]
  | busy => rfl
  | refuse => rfl

/-- At most 31 bytes: eight readings and a valve part. -/
theorem Payload.bytes_length (p : Payload) (h : p.ok = true) : p.bytes.length ≤ 30 := by
  have hcount : p.readings.length ≤ 8 := by
    simp only [Payload.ok, Bool.and_eq_true, decide_eq_true_eq] at h
    exact h.1
  have hflat : ((p.readings.map PointReading.bytes).flatten).length = 3 * p.readings.length := by
    induction p.readings with
    | nil => rfl
    | cons r rs ih => simp [PointReading.bytes, List.length_flatten] at ih ⊢; omega
  have hecho : (echoBytes p.echo).length = 2 := by cases p.echo <;> rfl
  have hvalve : (valvePartBytes p.valve).length ≤ 3 := by rcases p.valve with _ | ⟨a, b⟩ <;> simp [valvePartBytes]
  simp only [Payload.bytes_eq, List.length_append, hflat, hecho, List.length_singleton]
  omega

theorem ReplyKind.bytes_length (k : ReplyKind) (h : k.ok = true) : k.bytes.length < 256 := by
  cases k with
  | data p => have := p.bytes_length h; simp [ReplyKind.bytes]; omega
  | part p => have := p.bytes_length h; simp [ReplyKind.bytes]; omega
  | busy | refuse => decide

theorem parseReply_bytes (r : ReplyFrame) (h : r.kind.ok = true) : parseReply r.bytes = some r := by
  have hlen : (BitVec.ofNat 8 r.kind.bytes.length).toNat = r.kind.bytes.length := by
    rw [BitVec.toNat_ofNat]
    exact Nat.mod_eq_of_lt (r.kind.bytes_length h)
  have hcrc (bs : List Byte) : (crcBytes bs).length = 2 := rfl
  simp [ReplyFrame.bytes, withCheck, parseReply, hlen, hcrc, parseKind_bytes r.kind h]

/-! ## Events of the net alone -/

/-- An event of the net alone changes the net, and CAUSE gains at most STARVED. -/
theorem State.onlyNet_onNet (f : Net → Net) (s : State) : s.OnlyNet (s.onNet f).judgeStarved (f s.net) := by
  rw [State.judgeStarved_eq]
  refine ⟨rfl, ?_, rfl, rfl, rfl, rfl, rfl⟩
  simp only [causeAfter, Bool.false_eq_true, if_false]
  rw [show s.exch.cause ||| 0 = s.exch.cause from BitVec.or_zero]
  rfl

/-! ## Marks only join the lists -/

/-- No record leaves the mark lists, and none leaves the URGENT one. -/
structure Marks.Grows (m k : Marks) : Prop where
  urgent : ∀ r ∈ m.urgent, r ∈ k.urgent
  marked : ∀ r, r ∈ m.urgent ∨ r ∈ m.ordinary → r ∈ k.urgent ∨ r ∈ k.ordinary

theorem Marks.Grows.rfl {m : Marks} : Marks.Grows m m := ⟨fun _ => id, fun _ => id⟩

theorem Marks.Grows.trans {m k l : Marks} (h : Marks.Grows m k) (h' : Marks.Grows k l) : Marks.Grows m l :=
  ⟨fun r hr => h'.urgent r (h.urgent r hr), fun r hr => h'.marked r (h.marked r hr)⟩

theorem Marks.mem_add_urgent (m : Marks) (r : RecordName) : r ∈ (m.add .urgent r).urgent := by
  simp only [Marks.add]
  split
  · assumption
  · simp

theorem Marks.mem_add_ordinary (m : Marks) (r : RecordName) : r ∈ (m.add .ordinary r).urgent ∨ r ∈ (m.add .ordinary r).ordinary := by
  simp only [Marks.add]
  split
  · assumption
  · simp

theorem Marks.grows_add (m : Marks) (k : MarkKind) (r : RecordName) : Marks.Grows m (m.add k r) := by
  cases k with
  | urgent =>
    simp only [Marks.add]
    split
    · exact .rfl
    · refine ⟨fun x hx => List.mem_append_left _ hx, fun x hx => ?_⟩
      by_cases hr : x = r
      · exact Or.inl (by simp [hr])
      · exact hx.imp (List.mem_append_left _) (fun h => List.mem_filter.2 ⟨h, by simpa using hr⟩)
  | ordinary =>
    simp only [Marks.add]
    split
    · exact .rfl
    · exact ⟨fun _ => id, fun x hx => hx.imp id (List.mem_append_left _)⟩

theorem Net.grows_mark (k : MarkKind) (r : RecordName) (n : Net) : Marks.Grows n.marks (n.mark k r).marks := Marks.grows_add _ _ _

/-! ## What an owner leaves of a reading handed on -/

/-- What later operations of an event leave of what was handed to the incident unit and to the survey engine. -/
structure Net.KeepsHanded (a b : Net) : Prop where
  incidents : b.incidents = a.incidents
  sources : b.sources = a.sources
  marks : Marks.Grows a.marks b.marks
  pending : a.survey.pendingReal = true → b.survey.pendingReal = true
  changed : ∀ k ∈ a.survey.changeSources, k ∈ b.survey.changeSources

theorem Net.KeepsHanded.rfl {a : Net} : Net.KeepsHanded a a := ⟨Eq.refl _, Eq.refl _, .rfl, id, fun _ => id⟩

theorem Net.KeepsHanded.trans {a b c : Net} (h : Net.KeepsHanded a b) (k : Net.KeepsHanded b c) : Net.KeepsHanded a c :=
  ⟨k.incidents.trans h.incidents, k.sources.trans h.sources, h.marks.trans k.marks, fun x => k.pending (h.pending x),
    fun i x => k.changed i (h.changed i x)⟩

/-! ## The point unit -/

/-- A zone but for its pressure summary. -/
def Zone.bare (z : Zone) : Zone := { z with summary := none }

/-- Where a point stands: its slot and its zone. -/
def Point.place (p : Point) : Nat × Nat := (p.slot, p.zone)

/-- What every operation of the point unit leaves alone. -/
structure Net.PointUnit (a b : Net) : Prop where
  now : b.now = a.now
  params : b.params = a.params
  stations : b.stations = a.stations
  valves : b.valves = a.valves
  plans : b.plans = a.plans
  lines : b.lines = a.lines
  zones : b.zones.map Zone.bare = a.zones.map Zone.bare
  points : b.points.map Point.place = a.points.map Point.place
  marks : Marks.Grows a.marks b.marks

theorem Net.PointUnit.rfl {a : Net} : Net.PointUnit a a :=
  ⟨Eq.refl _, Eq.refl _, Eq.refl _, Eq.refl _, Eq.refl _, Eq.refl _, Eq.refl _, Eq.refl _, .rfl⟩

theorem Net.PointUnit.trans {a b c : Net} (h : Net.PointUnit a b) (k : Net.PointUnit b c) : Net.PointUnit a c :=
  ⟨k.now.trans h.now, k.params.trans h.params, k.stations.trans h.stations, k.valves.trans h.valves, k.plans.trans h.plans,
    k.lines.trans h.lines, k.zones.trans h.zones, k.points.trans h.points, h.marks.trans k.marks⟩

/-- An operation of the point unit that hands nothing on. -/
structure Net.Quiet (a b : Net) : Prop extends Net.PointUnit a b where
  incidents : b.incidents = a.incidents
  sources : b.sources = a.sources
  survey : b.survey = a.survey

theorem Net.Quiet.rfl {a : Net} : Net.Quiet a a := ⟨.rfl, Eq.refl _, Eq.refl _, Eq.refl _⟩

theorem Net.Quiet.trans {a b c : Net} (h : Net.Quiet a b) (k : Net.Quiet b c) : Net.Quiet a c :=
  ⟨h.toPointUnit.trans k.toPointUnit, k.incidents.trans h.incidents, k.sources.trans h.sources, k.survey.trans h.survey⟩

theorem Net.Quiet.keepsHanded {a b : Net} (h : Net.Quiet a b) : Net.KeepsHanded a b :=
  ⟨h.incidents, h.sources, h.marks, by rw [h.survey]; exact id, by rw [h.survey]; exact fun _ => id⟩

theorem overEach_pointUnit {α : Type} {f : α → Net → Net} (hf : ∀ x n, Net.PointUnit n (f x n)) (xs : List α) (n : Net) :
    Net.PointUnit n (overEach f xs n) := by
  unfold overEach
  induction xs generalizing n with
  | nil => exact .rfl
  | cons x xs ih => exact (hf x n).trans (ih (f x n))

theorem overEach_quiet {α : Type} {f : α → Net → Net} (hf : ∀ x n, Net.Quiet n (f x n)) (xs : List α) (n : Net) :
    Net.Quiet n (overEach f xs n) := by
  unfold overEach
  induction xs generalizing n with
  | nil => exact .rfl
  | cons x xs ih => exact (hf x n).trans (ih (f x n))

theorem Net.quiet_mark (k : MarkKind) (r : RecordName) (n : Net) : Net.Quiet n (n.mark k r) :=
  ⟨⟨rfl, rfl, rfl, rfl, rfl, rfl, rfl, rfl, n.grows_mark k r⟩, rfl, rfl, rfl⟩

theorem Net.quiet_markIf (c : Bool) (r : RecordName) (n : Net) : Net.Quiet n (n.markIf c r) := by
  cases c
  · exact .rfl
  · exact Net.quiet_mark _ _ n

/-- A table keeps a view of its records under an update of one that does. -/
theorem List.map_modify_of_view {α β : Type} (g : α → β) (xs : List α) (i : Nat) (f : α → α) (hf : ∀ x, g (f x) = g x) :
    (xs.modify i f).map g = xs.map g := by
  apply List.ext_getElem?
  intro k
  simp only [List.getElem?_map, List.getElem?_modify]
  cases xs[k]? with
  | none => rfl
  | some x =>
    by_cases hk : i = k
    · simp [hk, hf]
    · simp [hk]

theorem Net.quiet_updatePoint {f : Point → Point} (hf : ∀ p, (f p).place = p.place) (i : Nat) (n : Net) : Net.Quiet n (n.updatePoint i f) := by
  have set : Net.Quiet n (n.setPoint i f) :=
    ⟨⟨rfl, rfl, rfl, rfl, rfl, rfl, rfl, List.map_modify_of_view _ _ i f hf, .rfl⟩, rfl, rfl, rfl⟩
  exact set.trans (Net.quiet_markIf _ _ _)

theorem Net.updatePoint_points (i : Nat) (f : Point → Point) (n : Net) : (n.updatePoint i f).points = n.points.modify i f := by
  simp only [Net.updatePoint, Net.markIf_points, Net.setPoint_points]

theorem Net.quiet_recompute (z : Nat) (n : Net) : Net.Quiet n (n.recompute z) := by
  unfold Net.recompute Net.updateZone
  split
  · next x _ =>
    have set : Net.Quiet n (n.setZone z (fun y => { y with summary := worstBand (n.goodBands x) })) :=
      ⟨⟨rfl, rfl, rfl, rfl, rfl, rfl, List.map_modify_of_view _ _ z _ (fun _ => rfl), rfl, .rfl⟩, rfl, rfl, rfl⟩
    exact set.trans (Net.quiet_markIf _ _ _)
  · exact .rfl

theorem Net.recompute_points (z : Nat) (n : Net) : (n.recompute z).points = n.points := by
  unfold Net.recompute Net.updateZone
  split
  · rw [Net.markIf_points, Net.setZone_points]
  · rfl

theorem overEach_recompute_points (zs : List Nat) (n : Net) : (overEach Net.recompute zs n).points = n.points := by
  unfold overEach
  induction zs generalizing n with
  | nil => rfl
  | cons z zs ih => exact (ih (n.recompute z)).trans (n.recompute_points z)

/-! ## Pressure summaries (R59) -/

theorem bandRank_inj {a b : Band} (h : bandRank a = bandRank b) : a = b := by
  cases a <;> cases b <;> simp_all [bandRank]

/-- The worst of some bands is one of them, and none is worse. -/
theorem worstBand_eq_some_iff (bs : List Band) (b : Band) : worstBand bs = some b ↔ b ∈ bs ∧ ∀ c ∈ bs, bandRank c ≤ bandRank b := by
  have fold : ∀ (cs : List Band) (a : Band), cs.foldl worseBand a ∈ a :: cs ∧ ∀ c ∈ a :: cs, bandRank c ≤ bandRank (cs.foldl worseBand a) := by
    intro cs
    induction cs with
    | nil => simp
    | cons c cs ih =>
      intro a
      obtain ⟨hmem, hmax⟩ := ih (worseBand a c)
      have hsel : worseBand a c = a ∨ worseBand a c = c := by unfold worseBand; split <;> simp
      have hge : bandRank a ≤ bandRank (worseBand a c) ∧ bandRank c ≤ bandRank (worseBand a c) := by unfold worseBand; split <;> omega
      have hworst := hmax _ List.mem_cons_self
      refine ⟨?_, ?_⟩
      · rw [List.foldl_cons]
        rcases List.mem_cons.1 hmem with h | h
        · rw [h]; rcases hsel with h | h <;> simp [h]
        · exact List.mem_cons_of_mem _ (List.mem_cons_of_mem _ h)
      · intro d hd
        rw [List.foldl_cons]
        rcases List.mem_cons.1 hd with rfl | hd
        · exact hge.1.trans hworst
        · rcases List.mem_cons.1 hd with rfl | hd
          · exact hge.2.trans hworst
          · exact hmax d (List.mem_cons_of_mem _ hd)
  cases bs with
  | nil => simp [worstBand]
  | cons a cs =>
    obtain ⟨hmem, hmax⟩ := fold cs a
    simp only [worstBand, Option.some.injEq]
    constructor
    · rintro rfl
      exact ⟨hmem, hmax⟩
    · rintro ⟨hb, hall⟩
      exact bandRank_inj (Nat.le_antisymm (hall _ hmem) (hmax _ hb))

theorem Net.mem_goodBands (n : Net) (y : Zone) (b : Band) :
    b ∈ n.goodBands y ↔ ∃ i ∈ y.points, ∃ q, n.points[i]? = some q ∧ q.quality = .good ∧ q.band = b := by
  unfold Net.goodBands
  rw [List.mem_filterMap]
  refine exists_congr fun i => and_congr_right fun _ => ?_
  cases n.points[i]? with
  | none => simp
  | some q => by_cases h : q.quality = .good <;> simp [h]

/-- R59: what a summary must say is what a recomputation writes. -/
theorem Net.summaryIs_iff (n : Net) (y : Zone) : n.SummaryIs y ↔ y.summary = worstBand (n.goodBands y) := by
  have spec (b : Band) : worstBand (n.goodBands y) = some b ↔
      (∃ i ∈ y.points, ∃ q, n.points[i]? = some q ∧ q.quality = .good ∧ q.band = b) ∧
        ∀ i ∈ y.points, ∀ q, n.points[i]? = some q → q.quality = .good → bandRank q.band ≤ bandRank b := by
    rw [worstBand_eq_some_iff, Net.mem_goodBands]
    refine and_congr_right fun _ => ⟨fun h i hi q hq hg => ?_, fun h c hc => ?_⟩
    · exact h _ ((n.mem_goodBands y _).2 ⟨i, hi, q, hq, hg, rfl⟩)
    · obtain ⟨i, hi, q, hq, hg, rfl⟩ := (n.mem_goodBands y c).1 hc
      exact h i hi q hq hg
  constructor
  · intro h
    exact Option.ext fun b => (h b).trans (spec b).symm
  · intro h b
    rw [h]
    exact spec b

/-- The summary of a zone `z`, where it is present, is right. -/
def Net.SummaryAt (n : Net) (z : Nat) : Prop := ∀ y, n.zones[z]? = some y → n.SummaryIs y

theorem Net.SummaryAt.congr {a b : Net} {z : Nat} (h : a.SummaryAt z) (hz : b.zones = a.zones) (hp : b.points = a.points) : b.SummaryAt z := by
  unfold Net.SummaryAt Net.SummaryIs at h ⊢
  rw [hz, hp]
  exact h

theorem Net.recompute_zones (z : Nat) (n : Net) :
    (n.recompute z).zones = n.zones.modify z (fun y => { y with summary := worstBand (n.goodBands y) }) := by
  unfold Net.recompute Net.updateZone
  split
  · next x hx =>
    rw [Net.markIf_zones, Net.setZone_zones]
    apply List.ext_getElem?
    intro k
    rw [List.getElem?_modify, List.getElem?_modify]
    by_cases hk : z = k
    · subst hk
      rw [hx]
      simp
    · simp [hk]
  · next hx =>
    rw [List.modify_eq_self]
    exact List.getElem?_eq_none_iff.1 hx

/-- A recomputation makes a zone's summary right. -/
theorem Net.summaryAt_recompute_self (z : Nat) (n : Net) : (n.recompute z).SummaryAt z := by
  intro y hy
  rw [Net.recompute_zones, List.getElem?_modify] at hy
  simp only [if_true, Option.map_eq_map, Option.map_eq_some_iff] at hy
  obtain ⟨x, hx, rfl⟩ := hy
  rw [Net.summaryIs_iff]
  unfold Net.goodBands
  rw [Net.recompute_points]

/-- A recomputation leaves every other zone's summary right. -/
theorem Net.summaryAt_recompute (z w : Nat) (n : Net) (h : n.SummaryAt z) : (n.recompute w).SummaryAt z := by
  by_cases hw : w = z
  · subst hw
    exact n.summaryAt_recompute_self w
  · intro y hy
    rw [Net.recompute_zones, List.getElem?_modify] at hy
    simp only [hw, if_false, Option.map_eq_map, Option.map_id_fun', id_eq] at hy
    have := h y hy
    unfold Net.SummaryIs at this ⊢
    rw [Net.recompute_points]
    exact this

theorem overEach_recompute_summaryAt (z : Nat) (zs : List Nat) (n : Net) (hz : z ∈ zs ∨ n.SummaryAt z) :
    (overEach Net.recompute zs n).SummaryAt z := by
  unfold overEach
  induction zs generalizing n with
  | nil => exact hz.resolve_left List.not_mem_nil
  | cons w zs ih =>
    refine ih (n.recompute w) ?_
    rcases hz with hz | hz
    · rcases List.mem_cons.1 hz with rfl | hz
      · exact Or.inr (n.summaryAt_recompute_self z)
      · exact Or.inl hz
    · exact Or.inr (n.summaryAt_recompute z w hz)

/-- R59: after the zones of some points are recomputed, the zone of each of them is right. -/
theorem Net.summaryAt_recomputed {n : Net} {points : List Nat} {i : Nat} {q : Point} (hi : i ∈ points) (hq : n.points[i]? = some q) :
    (overEach Net.recompute (n.zonesOf points) n).SummaryAt q.zone := by
  by_cases hz : q.zone < n.zones.length
  · refine overEach_recompute_summaryAt _ _ _ (Or.inl ?_)
    unfold Net.zonesOf
    rw [List.mem_filter, List.mem_range, List.any_eq_true]
    exact ⟨hz, i, hi, by simp [hq]⟩
  · intro y hy
    have hlen := congrArg List.length (overEach_quiet (fun z m => m.quiet_recompute z) (n.zonesOf points) n).zones
    rw [List.length_map, List.length_map] at hlen
    have := (List.getElem?_eq_some_iff.1 hy).1
    omega

/-! ## Slots -/

theorem List.modify_congr_at {α : Type} {xs : List α} {i : Nat} {f g : α → α} (h : ∀ x, xs[i]? = some x → f x = g x) :
    xs.modify i f = xs.modify i g := by
  apply List.ext_getElem?
  intro k
  rw [List.getElem?_modify, List.getElem?_modify]
  by_cases hk : i = k
  · subst hk
    cases hx : xs[i]? with
    | none => rfl
    | some x => simp [h x hx]
  · simp [hk]

/-- An update of a slot's record writes the new record. -/
theorem modify_update_eq_putRecord {α : Type} {slots : List (Slot α)} {i : Nat} {sl : Slot α} {x : α} (f : α → α) (hs : slots[i]? = some sl)
    (hx : sl.record = some x) : slots.modify i (Slot.update f) = putRecord slots i (f x) := by
  refine List.modify_congr_at fun y hy => ?_
  rw [hs] at hy
  cases hy
  unfold Slot.update
  rw [hx]
  rfl

theorem freeSlot_of_lowestFree {α : Type} {slots : List (Slot α)} {i : Nat} (h : LowestFree slots i) : freeSlot slots = some i := by
  obtain ⟨⟨sl, hi, hfree⟩, hlow⟩ := h
  obtain ⟨hlt, rfl⟩ := List.getElem?_eq_some_iff.1 hi
  refine List.findIdx?_eq_some_iff_getElem.2 ⟨hlt, by simpa using hfree, fun j hj => ?_⟩
  simpa using hlow j _ hj (List.getElem?_eq_getElem (hj.trans hlt))

theorem freeSlot_of_none_free {α : Type} {slots : List (Slot α)} (h : ∀ sl ∈ slots, sl.state ≠ .free) : freeSlot slots = none := by
  refine List.findIdx?_eq_none_iff.2 fun sl hsl => ?_
  simpa using h sl hsl

/-! ## The open incident of a zone and kind (R61, R88) -/

/-- The time of a slot's record by a key, as the incident unit compares it. -/
def Net.keyAt (n : Net) (key : Incident → Time) (i : Nat) : Nat := ((slotRecord n.incidents i).map key).getD 0

/-- R61, R88: of some slots in rising order, the one found is the latest, and on a tie the lowest. -/
theorem Net.latestBy_spec (n : Net) (key : Incident → Time) (is : List Nat) (hs : is.Pairwise (· < ·)) (hne : is ≠ []) :
    ∃ j ∈ is, n.latestBy key is = some j ∧ ∀ i ∈ is, n.keyAt key i < n.keyAt key j ∨ (n.keyAt key i = n.keyAt key j ∧ j ≤ i) := by
  induction is with
  | nil => exact absurd rfl hne
  | cons i is ih =>
    obtain ⟨hlt, hs⟩ := List.pairwise_cons.1 hs
    by_cases he : is = []
    · subst he
      exact ⟨i, List.mem_cons_self, rfl, fun k hk => Or.inr (by rw [List.mem_singleton.1 hk]; exact ⟨rfl, Nat.le_refl _⟩)⟩
    · obtain ⟨j, hj, hlatest, hmax⟩ := ih hs he
      rw [Net.latestBy, hlatest]
      dsimp only
      change ∃ j' ∈ i :: is, (if n.keyAt key i < n.keyAt key j then some j else some i) = some j' ∧ _
      split
      · next hk =>
        refine ⟨j, List.mem_cons_of_mem _ hj, rfl, fun k hm => ?_⟩
        rcases List.mem_cons.1 hm with rfl | hm
        · exact Or.inl hk
        · exact hmax k hm
      · next hk =>
        refine ⟨i, List.mem_cons_self, rfl, fun k hm => ?_⟩
        rcases List.mem_cons.1 hm with rfl | hm
        · exact Or.inr ⟨rfl, Nat.le_refl _⟩
        · have := hlt k hm
          rcases hmax k hm with h | ⟨h, -⟩ <;> omega

theorem idsWhere_pairwise {α : Type} (xs : List α) (p : α → Bool) : (idsWhere xs p).Pairwise (· < ·) :=
  List.Pairwise.filter _ List.pairwise_lt_range

/-- The slots among which R61 and R88 choose. -/
theorem Net.mem_incidentsWhere_iff (n : Net) (kind : IncidentKind) (zone i : Nat) :
    i ∈ n.incidentsWhere (fun x => x.kind = kind ∧ x.zone = zone ∧ x.state ≠ .closed) ↔ ∃ x, n.PressureOpen kind zone i x := by
  unfold Net.incidentsWhere Net.PressureOpen Net.incidentIn
  rw [Net.mem_idsWhere]
  constructor
  · rintro ⟨sl, hsl, hp⟩
    simp only [Bool.and_eq_true, decide_eq_true_eq, Option.any_eq_true] at hp
    obtain ⟨huse, x, hx, hp⟩ := hp
    exact ⟨x, ⟨sl, hsl, huse, hx⟩, hp⟩
  · rintro ⟨x, ⟨sl, hsl, huse, hx⟩, hp⟩
    exact ⟨sl, hsl, by simp [huse, hx, hp]⟩

theorem Net.PressureOpen.slotRecord {n : Net} {kind : IncidentKind} {zone i : Nat} {x : Incident} (h : n.PressureOpen kind zone i x) :
    slotRecord n.incidents i = some x := by
  obtain ⟨⟨sl, hsl, -, hx⟩, -⟩ := h
  unfold Machine.slotRecord
  rw [hsl]
  exact hx

theorem Net.openPressure_of_latest {n : Net} {kind : IncidentKind} {zone j : Nat} {x : Incident}
    (h : Latest Incident.opened (n.PressureOpen kind zone) j x) : n.openPressure kind zone = some j := by
  obtain ⟨hopen, hmax⟩ := h
  have hj := (n.mem_incidentsWhere_iff kind zone j).2 ⟨x, hopen⟩
  obtain ⟨k, hk, hlatest, hkmax⟩ := n.latestBy_spec Incident.opened _ (idsWhere_pairwise _ _) (List.ne_nil_of_mem hj)
  obtain ⟨y, hy⟩ := (n.mem_incidentsWhere_iff kind zone k).1 hk
  have hkey {i : Nat} {z : Incident} (hz : n.PressureOpen kind zone i z) : n.keyAt Incident.opened i = z.opened := by
    unfold Net.keyAt
    rw [hz.slotRecord]
    rfl
  have hjk := hkmax j hj
  have hkj := hmax k y hy
  rw [← hkey hopen, ← hkey hy] at hkj
  change n.keyAt _ k < n.keyAt _ j ∨ (n.keyAt _ k = n.keyAt _ j ∧ j ≤ k) at hkj
  have : k = j := by omega
  rw [← this]
  exact hlatest

theorem Net.openPressure_of_none {n : Net} {kind : IncidentKind} {zone : Nat} (h : ∀ j x, ¬ n.PressureOpen kind zone j x) :
    n.openPressure kind zone = none := by
  have hnil : n.incidentsWhere (fun x => x.kind = kind ∧ x.zone = zone ∧ x.state ≠ .closed) = [] := by
    refine List.eq_nil_iff_forall_not_mem.2 fun i hi => ?_
    obtain ⟨x, hx⟩ := (n.mem_incidentsWhere_iff kind zone i).1 hi
    exact h i x hx
  unfold Net.openPressure
  rw [hnil]
  rfl

/-! ## An excursion (R61) -/

theorem Incident.addExcursion_eq (p : IncidentParams) (now : Time) (i : Nat) (x : Incident) :
    x.addExcursion p now i = x.withPoint p now i := by
  unfold Incident.addExcursion Incident.withPoint Incident.setDeadline
  dsimp only
  have hpoints : (if i ∉ x.points ∧ x.points.length < Config.pointRefMax then { x with points := x.points ++ [i] } else x) =
      { x with points := if i ∈ x.points ∨ 8 ≤ x.points.length then x.points else x.points ++ [i] } := by
    have : Config.pointRefMax = 8 := rfl
    by_cases hi : i ∈ x.points ∨ 8 ≤ x.points.length
    · rw [if_neg (fun h => hi.elim h.1 (Nat.not_le_of_lt (this ▸ h.2))), if_pos hi]
    · rw [not_or] at hi
      rw [if_pos ⟨hi.1, by omega⟩, if_neg (by simpa using hi)]
  rw [hpoints]
  dsimp only
  by_cases hd : min x.deadline (now + p.deadline 1) = x.deadline
  · simp [hd]
  · simp [hd]

/-- The mark of an incident changes the mark lists alone. -/
theorem Net.markIncident_shape (before : Net) (i : Nat) (n : Net) :
    ∃ ms, Net.markIncident before i n = { n with marks := ms } ∧ Marks.Grows n.marks ms := by
  have marked (k : MarkKind) (m : Net) : ∃ ms, m.mark k (.incident i) = { m with marks := ms } ∧ Marks.Grows m.marks ms :=
    ⟨_, rfl, Marks.grows_add _ _ _⟩
  unfold Net.markIncident Net.markIf
  split
  · dsimp only
    split <;> split
    · obtain ⟨ms, hshape, hgrows⟩ := marked .urgent (n.mark .ordinary (.incident i))
      exact ⟨ms, hshape, (n.grows_mark _ _).trans hgrows⟩
    · exact marked _ n
    · exact marked _ n
    · exact ⟨_, rfl, .rfl⟩
  · exact marked _ n
  · exact ⟨_, rfl, .rfl⟩

theorem Net.markIncident_incidents (before : Net) (i : Nat) (n : Net) : (Net.markIncident before i n).incidents = n.incidents := by
  obtain ⟨ms, hshape, -⟩ := Net.markIncident_shape before i n
  rw [hshape]

/-- R83, R104: an incident raised to class 1 is marked URGENT. -/
theorem Net.markIncident_raised {before n : Net} {i : Nat} {x y : Incident} (hx : heldRecord before.incidents i = some x)
    (hy : heldRecord n.incidents i = some y) (hc : x.cls ≠ 1) (hr : y.cls = 1) :
    RecordName.incident i ∈ (Net.markIncident before i n).marks.urgent := by
  unfold Net.markIncident
  rw [hx, hy]
  dsimp only
  rw [if_pos ⟨hc, hr⟩]
  exact Marks.mem_add_urgent _ _

/-- R83: a new incident of class 1 is marked URGENT. -/
theorem Net.markIncident_new {before n : Net} {i : Nat} {y : Incident} (hx : heldRecord before.incidents i = none)
    (hy : heldRecord n.incidents i = some y) (hr : y.cls = 1) : RecordName.incident i ∈ (Net.markIncident before i n).marks.urgent := by
  unfold Net.markIncident
  rw [hx, hy]
  dsimp only
  rw [if_pos hr]
  exact Marks.mem_add_urgent _ _

theorem heldRecord_putRecord {α : Type} {slots : List (Slot α)} {i : Nat} {sl : Slot α} (x : α) (hs : slots[i]? = some sl)
    (hf : sl.state ≠ .free) : heldRecord (putRecord slots i x) i = some x := by
  unfold heldRecord putRecord
  rw [List.getElem?_modify, hs]
  simp [hf]

theorem heldRecord_fillSlot {α : Type} {slots : List (Slot α)} {i : Nat} {sl : Slot α} (x : α) (hs : slots[i]? = some sl) :
    heldRecord (fillSlot slots i x) i = some x := by
  unfold heldRecord fillSlot
  rw [List.getElem?_modify, hs]
  simp

section
variable {n : Net} {i zone j : Nat} {band : Band}

/-- R61: an excursion attaches to the open incident of its side with the latest opened time. -/
theorem Net.takeExcursion_attached {x : Incident} (h : Latest Incident.opened (n.PressureOpen (excursionKind band) zone) j x) :
    (n.takeExcursion i zone band).incidents = putRecord n.incidents j (x.withPoint n.params n.now i) ∧
      (x.cls ≠ 1 → RecordName.incident j ∈ (n.takeExcursion i zone band).marks.urgent) := by
  obtain ⟨⟨sl, hsl, huse, hx⟩, -⟩ := h.1
  have placed : n.placeExcursion i zone band =
      some ({ n with incidents := putRecord n.incidents j (x.withPoint n.params n.now i) }, j) := by
    unfold Net.placeExcursion Net.setIncident
    rw [Net.openPressure_of_latest h]
    dsimp only
    rw [modify_update_eq_putRecord _ hsl hx, Incident.addExcursion_eq]
  have hfree : sl.state ≠ .free := by rw [huse]; exact nofun
  unfold Net.takeExcursion
  rw [placed]
  refine ⟨Net.markIncident_incidents _ _ _, fun hc => Net.markIncident_raised ?_ (heldRecord_putRecord _ hsl hfree) hc rfl⟩
  unfold heldRecord
  rw [hsl]
  simp [hfree, hx]

/-- R61, R83: without one, an excursion raises an incident in the lowest FREE slot. -/
theorem Net.takeExcursion_raised {y : Zone} (h : ∀ k x, ¬ n.PressureOpen (excursionKind band) zone k x) (hj : LowestFree n.incidents j)
    (hy : n.zones[zone]? = some y) :
    (n.takeExcursion i zone band).incidents = fillSlot n.incidents j (n.raisedBy (excursionKind band) zone y i) ∧
      RecordName.incident j ∈ (n.takeExcursion i zone band).marks.urgent := by
  obtain ⟨sl, hsl, hfree⟩ := hj.1
  have placed : n.placeExcursion i zone band =
      some ({ n with incidents := fillSlot n.incidents j (n.raisedBy (excursionKind band) zone y i) }, j) := by
    unfold Net.placeExcursion Net.openIncident Net.setIncident
    rw [Net.openPressure_of_none h, freeSlot_of_lowestFree hj, hy]
    simp only [Option.map_some, Option.getD_some, List.modify_modify_eq]
    rfl
  unfold Net.takeExcursion
  rw [placed]
  refine ⟨Net.markIncident_incidents _ _ _, Net.markIncident_new ?_ (heldRecord_fillSlot _ hsl) rfl⟩
  unfold heldRecord
  rw [hsl]
  simp [hfree]

/-- R61: with no slot FREE there is no room. -/
theorem Net.takeExcursion_full (h : ∀ k x, ¬ n.PressureOpen (excursionKind band) zone k x) (hf : ∀ sl ∈ n.incidents, sl.state ≠ .free) :
    n.takeExcursion i zone band = n := by
  unfold Net.takeExcursion Net.placeExcursion Net.openIncident
  rw [Net.openPressure_of_none h, freeSlot_of_none_free hf]
  rfl

/-- An excursion changes incidents and marks alone. -/
theorem Net.takeExcursion_shape : ∃ is ms, n.takeExcursion i zone band = { n with incidents := is, marks := ms } ∧ Marks.Grows n.marks ms := by
  have marked (k : Nat) (is : List (Slot Incident)) : ∃ is' ms,
      Net.markIncident n k { n with incidents := is } = { n with incidents := is', marks := ms } ∧ Marks.Grows n.marks ms :=
    ⟨is, Net.markIncident_shape n k { n with incidents := is }⟩
  unfold Net.takeExcursion Net.placeExcursion Net.openIncident
  split
  · next hp =>
    split at hp
    · cases hp
      exact marked _ _
    · dsimp only at hp
      rw [Option.map_map, Option.map_eq_some_iff] at hp
      obtain ⟨k, -, hp⟩ := hp
      cases hp
      exact marked _ _
  · exact ⟨_, _, rfl, .rfl⟩

end

/-- R61, R62: an excursion of a point in a present zone. -/
theorem Net.excursion_excursion {n : Net} {p : Point} {y : Zone} (i : Nat) (hy : n.zones[p.zone]? = some y) :
    n.Excursion (n.excursion i p) (excursionKind p.band) p.zone y i := by
  obtain ⟨is, ms, hshape, hgrows⟩ := Net.takeExcursion_shape (n := n.mark .urgent (.point i)) (i := i) (zone := p.zone) (band := p.band)
  refine ⟨?_, fun j x h => ?_, fun h => ⟨fun j hj => ?_, fun hf => ?_⟩⟩
  · unfold Net.excursion
    rw [hshape]
    exact hgrows.urgent _ (Marks.mem_add_urgent _ _)
  · exact Net.takeExcursion_attached (n := n.mark .urgent (.point i)) h
  · exact Net.takeExcursion_raised (n := n.mark .urgent (.point i)) h hj hy
  · unfold Net.excursion
    rw [Net.takeExcursion_full (n := n.mark .urgent (.point i)) h hf]
    rfl

/-! ## What a reading hands on (R61, R63) -/

/-- What stands of the survey engine's data when an owner only adds to it. -/
theorem Net.judgeExcursion_shape (i : Nat) (before : Band) (n : Net) :
    ∃ is ms, n.judgeExcursion i before = { n with incidents := is, marks := ms } ∧ Marks.Grows n.marks ms := by
  unfold Net.judgeExcursion
  split
  · next p _ =>
    split
    · obtain ⟨is, ms, hshape, hgrows⟩ := Net.takeExcursion_shape (n := n.mark .urgent (.point i)) (i := i) (zone := p.zone) (band := p.band)
      exact ⟨is, ms, hshape, (n.grows_mark _ _).trans hgrows⟩
    · exact ⟨_, _, rfl, .rfl⟩
  · exact ⟨_, _, rfl, .rfl⟩

/-- R63: the sources that fail, and what is handed to the survey engine. -/
structure Net.SourcesFailed (n m : Net) (is : List Nat) : Prop where
  shape : ∃ ss sv ms, m = { n with sources := ss, survey := sv, marks := ms }
  sources : ∀ k : Nat, m.sources[k]? = (n.sources[k]?).map (fun x => if k ∈ is then { x with state := .failed } else x)
  marks : Marks.Grows n.marks m.marks
  urgent : ∀ k ∈ is, RecordName.source k ∈ m.marks.urgent
  pending : n.survey.pendingReal = true ∨ is ≠ [] → m.survey.pendingReal = true
  changed : ∀ k, k ∈ n.survey.changeSources ∨ k ∈ is → k ∈ m.survey.changeSources

theorem mem_noteSource_foldl (is cs : List Nat) (k : Nat) : k ∈ is.foldl noteSource cs ↔ k ∈ cs ∨ k ∈ is := by
  induction is generalizing cs with
  | nil => simp
  | cons i is ih =>
    have hnote : k ∈ noteSource cs i ↔ k ∈ cs ∨ k = i := by
      unfold noteSource
      split
      · next hi => exact ⟨Or.inl, fun h => h.elim id (fun h => h ▸ hi)⟩
      · simp
    rw [List.foldl_cons, ih, hnote, List.mem_cons, or_assoc]

/-- One source made FAILED and marked (R63). -/
def Net.failSource (i : Nat) (n : Net) : Net := (n.setSource i (fun s => { s with state := .failed })).mark .urgent (.source i)

/-- R63: sources made FAILED one by one. -/
theorem overEach_failSource (is : List Nat) (n : Net) : ∃ ss ms,
    overEach Net.failSource is n = { n with sources := ss, marks := ms } ∧
      (∀ k : Nat, ss[k]? = (n.sources[k]?).map (fun x => if k ∈ is then { x with state := .failed } else x)) ∧ Marks.Grows n.marks ms ∧
      ∀ k ∈ is, RecordName.source k ∈ ms.urgent := by
  unfold overEach
  induction is generalizing n with
  | nil => exact ⟨n.sources, n.marks, rfl, by simp, .rfl, by simp⟩
  | cons i is ih =>
    obtain ⟨ss, ms, hshape, hsources, hgrows, hurgent⟩ := ih (n.failSource i)
    refine ⟨ss, ms, hshape, fun k => ?_, (Net.grows_mark _ _ (n.setSource i _)).trans hgrows, fun k hk => ?_⟩
    · rw [hsources, show (n.failSource i).sources = n.sources.modify i (fun s => { s with state := .failed }) from rfl, List.getElem?_modify]
      cases n.sources[k]? with
      | none => rfl
      | some x =>
        by_cases hi : i = k
        · subst hi; simp
        · by_cases hk : k ∈ is <;> simp [hi, hk, Ne.symm hi]
    · rcases List.mem_cons.1 hk with rfl | hk
      · exact hgrows.urgent _ (Marks.mem_add_urgent _ _)
      · exact hurgent k hk

theorem Net.failSources_failed (is : List Nat) (n : Net) : n.SourcesFailed (n.failSources is) is := by
  obtain ⟨ss, ms, hshape, hsources, hgrows, hurgent⟩ := overEach_failSource is n
  have heq : n.failSources is = Net.sourcesChanged is { n with sources := ss, marks := ms } := by rw [← hshape]; rfl
  rw [heq]
  unfold Net.sourcesChanged
  split
  · next hnil =>
    subst hnil
    exact ⟨⟨_, _, _, rfl⟩, hsources, hgrows, hurgent, by simp, by simp⟩
  · exact ⟨⟨_, _, _, rfl⟩, hsources, hgrows, hurgent, fun _ => rfl, fun k hk => (mem_noteSource_foldl _ _ k).2 hk⟩

/-! ## The plan engine leaves the point unit's records alone -/

/-- What every operation of the plan engine and of the command lists leaves. -/
structure Net.PlanSide (a b : Net) : Prop extends Net.KeepsHanded a b where
  stations : b.stations = a.stations
  zones : b.zones = a.zones
  points : b.points = a.points
  valveStations : b.valves.map Valve.station = a.valves.map Valve.station
  continuation : ∀ l, (b.line l).continuation = (a.line l).continuation

theorem Net.PlanSide.rfl {a : Net} : Net.PlanSide a a := ⟨.rfl, Eq.refl _, Eq.refl _, Eq.refl _, Eq.refl _, fun _ => Eq.refl _⟩

theorem Net.PlanSide.trans {a b c : Net} (h : Net.PlanSide a b) (k : Net.PlanSide b c) : Net.PlanSide a c :=
  ⟨h.toKeepsHanded.trans k.toKeepsHanded, k.stations.trans h.stations, k.zones.trans h.zones, k.points.trans h.points,
    k.valveStations.trans h.valveStations, fun l => (k.continuation l).trans (h.continuation l)⟩

section
variable (n : Net)

theorem Net.planSide_mark (k : MarkKind) (r : RecordName) : Net.PlanSide n (n.mark k r) :=
  ⟨⟨rfl, rfl, n.grows_mark k r, id, fun _ => id⟩, rfl, rfl, rfl, rfl, fun _ => rfl⟩

theorem Net.planSide_markIf (c : Bool) (r : RecordName) : Net.PlanSide n (n.markIf c r) := by
  cases c
  · exact .rfl
  · exact n.planSide_mark _ _

/-- An update of a valve that leaves its station. -/
theorem Net.planSide_setValve (v : Nat) {f : Valve → Valve} (hf : ∀ x, (f x).station = x.station := by intro _; rfl) :
    Net.PlanSide n (n.setValve v f) :=
  ⟨⟨rfl, rfl, .rfl, id, fun _ => id⟩, rfl, rfl, rfl, List.map_modify_of_view _ _ v f hf, fun _ => rfl⟩

theorem Net.planSide_updateValve (v : Nat) {f : Valve → Valve} (hf : ∀ x, (f x).station = x.station := by intro _; rfl) :
    Net.PlanSide n (n.updateValve v f) :=
  (n.planSide_setValve v hf).trans (Net.planSide_markIf _ _ _)

theorem Net.planSide_updateValveMarked (v : Nat) {f : Valve → Valve} (hf : ∀ x, (f x).station = x.station := by intro _; rfl) :
    Net.PlanSide n (n.updateValveMarked v f) :=
  (n.planSide_setValve v hf).trans (Net.planSide_mark _ _ _)

theorem Net.planSide_setPlan (i : Nat) (f : Plan → Plan) : Net.PlanSide n (n.setPlan i f) :=
  ⟨⟨rfl, rfl, .rfl, id, fun _ => id⟩, rfl, rfl, rfl, rfl, fun _ => rfl⟩

theorem Net.planSide_updatePlan (i : Nat) (f : Plan → Plan) : Net.PlanSide n (n.updatePlan i f) :=
  (n.planSide_setPlan i f).trans (Net.planSide_markIf _ _ _)

/-- An update of a line that leaves its continuation. -/
theorem Net.planSide_setLine (l : Fin 4) (f : Line → Line) (hf : ∀ x, (f x).continuation = x.continuation) : Net.PlanSide n (n.setLine l f) := by
  refine ⟨⟨rfl, rfl, .rfl, id, fun _ => id⟩, rfl, rfl, rfl, rfl, fun k => ?_⟩
  simp only [Net.line, Net.setLine_lines]
  by_cases hk : k = l
  · subst hk
    rw [Quad.get_set_self, hf]
  · rw [Quad.get_set_other _ _ _ _ hk]

theorem Net.planSide_claimsChanged : Net.PlanSide n n.claimsChanged := ⟨⟨rfl, rfl, .rfl, id, fun _ => id⟩, rfl, rfl, rfl, rfl, fun _ => rfl⟩

theorem Net.planSide_passingChanged (vs : List Nat) : Net.PlanSide n (n.passingChanged vs) := by
  unfold Net.passingChanged
  split
  · exact .rfl
  · exact ⟨⟨rfl, rfl, .rfl, fun _ => rfl, fun _ => id⟩, rfl, rfl, rfl, rfl, fun _ => rfl⟩

theorem overEach_planSide {α : Type} {f : α → Net → Net} (hf : ∀ x n, Net.PlanSide n (f x n)) (xs : List α) :
    Net.PlanSide n (overEach f xs n) := by
  unfold overEach
  induction xs generalizing n with
  | nil => exact .rfl
  | cons x xs ih => exact (hf x n).trans (ih (f x n))

theorem Net.planSide_enterStep (l : Fin 4) (st target : Nat) : Net.PlanSide n (n.enterStep l st target).1 := by
  have entered := n.planSide_setLine l (Line.enterStep st target) (fun _ => rfl)
  unfold Net.enterStep
  split
  · exact entered
  · split
    · exact entered.trans (Net.planSide_setLine _ l (Line.unlist st) (fun _ => rfl))
    · exact entered

theorem Net.planSide_restage (p : Plan) (v : Nat) : Net.PlanSide n (n.restage p v) := by
  unfold Net.restage
  split
  · exact .rfl
  · dsimp only
    split
    · split
      · exact (n.planSide_updateValve v).trans (Net.planSide_setLine _ _ _ (fun _ => rfl))
      · exact n.planSide_updateValve v
    · exact n.planSide_updateValve v

theorem Net.planSide_blockPlan (slot : Nat) (reason : BlockReason) (moved : Option Nat) : Net.PlanSide n (n.blockPlan slot reason moved) := by
  unfold Net.blockPlan
  split
  · exact .rfl
  · split
    · split
      · exact ((n.planSide_setPlan _ _).trans (Net.planSide_mark _ _ _)).trans (Net.planSide_restage _ _ _)
      · exact .rfl
    · exact .rfl

theorem Net.planSide_blockClaim (v : Nat) (reason : BlockReason) (moved : Option Nat) : Net.PlanSide n (n.blockClaim v reason moved) := by
  unfold Net.blockClaim
  split
  · exact n.planSide_blockPlan _ _ _
  · exact .rfl

theorem Net.planSide_stepOutcome (st : Nat) (tag : Byte) (o : StepOutcome) : Net.PlanSide n (n.stepOutcome st tag o) := by
  unfold Net.stepOutcome
  split
  · exact .rfl
  · split
    · exact .rfl
    · split
      · cases o with dsimp only
        | taken => exact n.planSide_updateValveMarked _
        | notTaken => exact .rfl
        | refused | stationLost | lineUnavailable => exact n.planSide_blockClaim _ _ _
        | notListed =>
          split
          · exact n.planSide_updateValve _
          · exact .rfl
      · exact .rfl

theorem Net.planSide_enterStaged (slot v : Nat) : Net.PlanSide n (n.enterStaged slot v) := by
  unfold Net.enterStaged
  split
  · split
    · exact .rfl
    · split
      · exact n.planSide_blockPlan _ _ _
      · split
        · exact .rfl
        · have entered (l : Fin 4) (st target : Nat) {f : Valve → Valve} (hf : ∀ x, (f x).station = x.station := by intro _; rfl) :=
            (n.planSide_enterStep l st target).trans (Net.planSide_updateValve _ v hf)
          dsimp only
          split
          · exact (entered _ _ _).trans (Net.planSide_stepOutcome _ _ _ _)
          · exact entered _ _ _
  · exact .rfl

theorem Net.planSide_stageStep (slot e : Nat) : Net.PlanSide n (n.stageStep slot e) := by
  unfold Net.stageStep
  split
  · exact .rfl
  · split
    · exact .rfl
    · split
      · dsimp only
        split
        · have held (v : Nat) {f : Valve → Valve} (g : Plan → Plan) (hf : ∀ x, (f x).station = x.station := by intro _; rfl) :=
            (n.planSide_updateValveMarked v hf).trans (Net.planSide_updatePlan _ slot g)
          split
          · exact (held _ _).trans (Net.planSide_blockPlan _ _ _ _)
          · exact held _ _
        · exact (n.planSide_updateValveMarked _).trans (Net.planSide_enterStaged _ _ _)
      · exact .rfl

theorem Net.planSide_startEntry (slot e : Nat) : Net.PlanSide n (n.startEntry slot e) :=
  (n.planSide_updatePlan _ _).trans (Net.planSide_stageStep _ _ _)

theorem Net.planSide_releaseClaims (r : Ref) : Net.PlanSide n (n.releaseClaims r) :=
  (overEach_planSide n (fun v m => m.planSide_updateValve v) (n.claimedBy r)).trans (Net.planSide_claimsChanged _)

theorem Net.planSide_endPlan (slot : Nat) (final : PlanState) : Net.PlanSide n (n.endPlan slot final) :=
  ((n.planSide_setPlan _ _).trans (Net.planSide_mark _ _ _)).trans (Net.planSide_releaseClaims _ _)

theorem Net.planSide_stepDone (slot v : Nat) : Net.PlanSide n (n.stepDone slot v) := by
  unfold Net.stepDone
  split
  · exact .rfl
  · split
    · have done {f : Valve → Valve} (g : Plan → Plan) (hf : ∀ x, (f x).station = x.station := by intro _; rfl) :=
        (n.planSide_updateValveMarked v hf).trans (Net.planSide_updatePlan _ slot g)
      dsimp only
      split
      · exact (done _).trans (Net.planSide_stageStep _ _ _)
      · split
        · exact (done _).trans (Net.planSide_startEntry _ _ _)
        · exact (done _).trans (Net.planSide_endPlan _ _ _)
    · exact .rfl

theorem Net.planSide_takeDwellEnd (v : Nat) : Net.PlanSide n (n.takeDwellEnd v) := by
  unfold Net.takeDwellEnd
  split
  · split
    · exact n.planSide_stepDone _ _
    · exact .rfl
  · exact .rfl

theorem Net.planSide_startDwell (v dwell : Nat) : Net.PlanSide n (n.startDwell v dwell) :=
  (n.planSide_updateValveMarked _).trans (Net.planSide_takeDwellEnd _ _)

theorem Net.planSide_finishAbandon (slot : Nat) : Net.PlanSide n (n.finishAbandon slot) := by
  unfold Net.finishAbandon
  split
  · split
    · exact n.planSide_endPlan _ _
    · exact .rfl
  · exact .rfl

theorem Net.planSide_afterStop (v : Nat) : Net.PlanSide n (n.afterStop v) := by
  unfold Net.afterStop
  split
  · exact .rfl
  · split
    · exact n.planSide_enterStaged _ _
    · exact n.planSide_finishAbandon _

theorem Net.planSide_stopOutcome (st : Nat) (o : StopOutcome) : Net.PlanSide n (n.stopOutcome st o) := by
  unfold Net.stopOutcome
  split
  · exact .rfl
  · split
    · exact (n.planSide_setValve _).trans (Net.planSide_afterStop _ _)
    · exact .rfl

theorem Net.planSide_commandOutcome (st : Nat) (o : CommandOutcome) : Net.PlanSide n (n.commandOutcome st o) := by
  cases o with
  | step tag o => exact n.planSide_stepOutcome st tag o
  | stop o => exact n.planSide_stopOutcome st o

theorem Net.planSide_stationNotice (st : Nat) (status : Status) : Net.PlanSide n (n.stationNotice st status) := by
  unfold Net.stationNotice
  split
  · split
    · exact .rfl
    · split
      · split
        · exact n.planSide_blockPlan _ _ _
        · exact .rfl
      · exact .rfl
  · exact .rfl

/-! ### Valve readings -/

theorem Net.planSide_arrive (v : Nat) (p : Plan) (f : StepInFlight) : Net.PlanSide n (n.arrive v p f) :=
  (n.planSide_updateValveMarked _).trans (Net.planSide_startDwell _ _ _)

theorem Net.planSide_judgeUnverified (slot v : Nat) (p : Plan) (f : StepInFlight) (x : Valve) :
    Net.PlanSide n (n.judgeUnverified slot v p f x) := by
  unfold Net.judgeUnverified
  split
  · exact .rfl
  · split
    · exact n.planSide_arrive _ _ _
    · exact (n.planSide_updateValve _).trans (Net.planSide_enterStaged _ _ _)

theorem Net.planSide_judgeClaimed (slot v : Nat) (p : Plan) (x : Valve) (moved : Bool) : Net.PlanSide n (n.judgeClaimed slot v p x moved) := by
  unfold Net.judgeClaimed
  split
  · exact n.planSide_blockPlan _ _ _
  · split
    · split
      · exact n.planSide_judgeUnverified _ _ _ _ _
      · split
        · exact n.planSide_arrive _ _ _
        · exact .rfl
    · split
      · exact n.planSide_blockPlan _ _ _
      · exact .rfl

theorem Net.planSide_judgeReading (v : Nat) (before : Valve) : Net.PlanSide n (n.judgeReading v before) := by
  unfold Net.judgeReading
  split
  · exact .rfl
  · have settled := n.planSide_setValve v (f := fun x => { x with settleNext := false })
    dsimp only
    split
    · split
      · exact settled.trans (Net.planSide_updateValveMarked _ _)
      · exact settled
    · split
      · split
        · exact settled.trans (Net.planSide_judgeClaimed _ _ _ _ _ _)
        · exact settled
      · exact settled

theorem Net.planSide_handPassing (v : Nat) (before : PosState) : Net.PlanSide n (n.handPassing v before) := by
  unfold Net.handPassing
  split
  · split
    · exact (n.planSide_setValve _).trans (Net.planSide_passingChanged _ _)
    · exact .rfl
  · exact .rfl

theorem Net.planSide_takeReading (v : Nat) (r : ValveReading) : Net.PlanSide n (n.takeReading v r) := by
  unfold Net.takeReading
  split
  · exact .rfl
  · exact ((n.planSide_updateValve _).trans (Net.planSide_handPassing _ _ _)).trans (Net.planSide_judgeReading _ _ _)

theorem Net.planSide_deliverValvePart (st : Nat) (p : Payload) : Net.PlanSide n (n.deliverValvePart st p) := by
  unfold Net.deliverValvePart
  split
  · split
    · exact n.planSide_takeReading _ _
    · exact n.planSide_takeReading _ _
    · exact .rfl
  · exact .rfl

end

/-! ## One reading handed on (R53, R54, R59, R61, R63) -/

/-- An excursion's outcome stands while the incidents do and no mark is lost. -/
theorem Net.Excursion.after {a m m' : Net} {kind : IncidentKind} {z i : Nat} {y : Zone} (h : a.Excursion m kind z y i)
    (hi : m'.incidents = m.incidents) (hg : Marks.Grows m.marks m'.marks) : a.Excursion m' kind z y i := by
  obtain ⟨hpoint, hattach, hraise⟩ := h
  refine ⟨hg.urgent _ hpoint, fun j x hj => ?_, fun hnone => ⟨fun j hj => ?_, fun hf => ?_⟩⟩
  · exact ⟨hi.trans (hattach j x hj).1, fun hc => hg.urgent _ ((hattach j x hj).2 hc)⟩
  · exact ⟨hi.trans ((hraise hnone).1 j hj).1, hg.urgent _ ((hraise hnone).1 j hj).2⟩
  · exact hi.trans ((hraise hnone).2 hf)

/-- Zones that agree but for their summaries agree in supply and place. -/
theorem Zone.of_bare {y y' : Zone} (h : y'.bare = y.bare) : y'.supply = y.supply ∧ y'.gridX = y.gridX ∧ y'.gridY = y.gridY :=
  ⟨(congrArg Zone.supply h :), (congrArg Zone.gridX h :), (congrArg Zone.gridY h :)⟩

/-- An excursion reads its incidents, its parameters, the run clock and its zone's place. -/
theorem Net.Excursion.congr {a b m : Net} {kind : IncidentKind} {z i : Nat} {y y' : Zone} (h : b.Excursion m kind z y' i)
    (hi : b.incidents = a.incidents) (hp : b.params = a.params) (hn : b.now = a.now) (hy : y'.bare = y.bare) : a.Excursion m kind z y i := by
  obtain ⟨-, hx, hz⟩ := Zone.of_bare hy
  unfold Net.Excursion Net.PressureOpen Net.incidentIn Net.raisedBy at h ⊢
  rw [hi, hp, hn, hx, hz] at h
  exact h

theorem Net.HandedOn.after {a m m' : Net} {i : Nat} {q w : Point} (h : a.HandedOn m i q w) (k : Net.KeepsHanded m m') :
    a.HandedOn m' i q w := by
  obtain ⟨hzone, hsources, hfailed⟩ := h
  refine ⟨fun y hy => ?_, k.sources.trans hsources, fun j x hj hx => ?_⟩
  · obtain ⟨hentered, hnot⟩ := hzone y hy
    exact ⟨fun he => (hentered he).after k.incidents k.marks, fun he => k.incidents.trans (hnot he)⟩
  · obtain ⟨hmark, hpending, hchanged⟩ := hfailed j x hj hx
    exact ⟨k.marks.urgent _ hmark, k.pending hpending, k.changed _ hchanged⟩

/-- A view of a table's records gives the record behind an equal view. -/
theorem List.getElem?_of_map_eq {α β : Type} {g : α → β} {xs ys : List α} (h : ys.map g = xs.map g) {i : Nat} {x : α} (hx : xs[i]? = some x) :
    ∃ y, ys[i]? = some y ∧ g y = g x := by
  have hi : (ys[i]?).map g = (xs[i]?).map g := by rw [← List.getElem?_map, ← List.getElem?_map, h]
  rw [hx, Option.map_some, Option.map_eq_some_iff] at hi
  exact hi

/-- What a quiet operation before a reading leaves of the ground it is judged on; it may change the point's quality and fresh time. -/
theorem Net.HandedOn.before {a b m : Net} {i : Nat} {q q' w : Point} (h : b.HandedOn m i q' w) (k : Net.Quiet a b) (hz : q'.zone = q.zone)
    (hb : q'.band = q.band) : a.HandedOn m i q w := by
  obtain ⟨hzone, hsources, hfailed⟩ := h
  rw [hz] at hzone
  rw [hb] at hzone hsources hfailed
  rw [k.sources] at hsources hfailed
  refine ⟨fun y hy => ?_, hsources, hfailed⟩
  obtain ⟨y', hy', hbare⟩ := List.getElem?_of_map_eq k.zones hy
  obtain ⟨hs, -, -⟩ := Zone.of_bare hbare
  obtain ⟨hentered, hnot⟩ := hzone y' hy'
  rw [hs] at hentered hnot
  exact ⟨fun he => (hentered he).congr k.incidents k.params k.now hbare, fun he => (hnot he).trans k.incidents⟩

section
variable {n : Net} {i : Nat} {r : PointReading} {q : Point}

/-- R53: a reading leaves the point's slot and zone. -/
theorem Point.place_applyReading (now : Time) (r : PointReading) (q : Point) : (q.applyReading now r).place = q.place := by
  unfold Point.applyReading
  split <;> rfl

/-- R61: what a band change makes of the incidents. -/
theorem Net.judgeExcursion_incidents {w : Point} (hw : n.points[i]? = some w) (before : Band) {y : Zone} (hy : n.zones[w.zone]? = some y) :
    let entered := (w.band = .lowlow ∨ w.band = .highhigh) ∧ w.band ≠ before ∧ y.supply = .supplied
    (entered → n.Excursion (n.judgeExcursion i before) (excursionKind w.band) w.zone y i) ∧
      (¬ entered → (n.judgeExcursion i before).incidents = n.incidents) := by
  intro entered
  have guard : (w.band.extreme = true ∧ w.band ≠ before ∧ n.suppressed w.zone = false) ↔ entered := by
    simp [entered, Band.extreme, Net.suppressed, hy]
  unfold Net.judgeExcursion
  rw [hw]
  refine ⟨fun he => ?_, fun he => ?_⟩
  · dsimp only
    rw [if_pos (guard.2 he)]
    exact Net.excursion_excursion i hy
  · dsimp only
    rw [if_neg (fun h => he (guard.1 h))]

/-- R63: the sources a reading fails. -/
theorem Net.judgeSources_failed {w : Point} (hw : n.points[i]? = some w) (before : Band) :
    n.SourcesFailed (n.judgeSources i before) (if w.band = .lowlow ∧ before ≠ .lowlow then n.sourcesAt i else []) := by
  unfold Net.judgeSources
  rw [hw]
  dsimp only
  split
  · exact n.failSources_failed _
  · exact ⟨⟨_, _, _, rfl⟩, by simp, .rfl, by simp, by simp, by simp⟩

theorem Net.SourcesFailed.incidents {m : Net} {is : List Nat} (h : n.SourcesFailed m is) : m.incidents = n.incidents := by
  obtain ⟨_, _, _, rfl⟩ := h.shape
  rfl

/-- R54, R61, R63: a reading applied to a point hands on what its band change asks for. -/
theorem Net.handedOn_applyReading (hq : n.points[i]? = some q) : n.HandedOn (n.applyReading i r) i q (q.applyReading n.now r) := by
  have hread : n.applyReading i r = ((n.updatePoint i (Point.applyReading n.now r)).judgeExcursion i q.band).judgeSources i q.band := by
    unfold Net.applyReading
    rw [hq]
  generalize hw : q.applyReading n.now r = w at *
  have hwzone : w.zone = q.zone := by rw [← hw]; exact congrArg Prod.snd (Point.place_applyReading n.now r q)
  have quiet := n.quiet_updatePoint (Point.place_applyReading n.now r) i
  have hpoint : (n.updatePoint i (Point.applyReading n.now r)).points[i]? = some w := by
    rw [Net.updatePoint_points, List.getElem?_modify, hq]
    simp [hw]
  generalize n.updatePoint i (Point.applyReading n.now r) = u at *
  obtain ⟨is, ms, hshape, hgrows⟩ := u.judgeExcursion_shape i q.band
  have hpoint' : (u.judgeExcursion i q.band).points[i]? = some w := by rw [hshape]; exact hpoint
  have failed := Net.judgeSources_failed (n := u.judgeExcursion i q.band) hpoint' q.band
  rw [← hread] at failed
  have hsources : (u.judgeExcursion i q.band).sources = n.sources := by rw [hshape]; exact quiet.sources
  have hmem (k : Nat) : k ∈ (if w.band = .lowlow ∧ q.band ≠ .lowlow then (u.judgeExcursion i q.band).sourcesAt i else []) ↔
      ∃ x, n.sources[k]? = some x ∧ (w.band = .lowlow ∧ q.band ≠ .lowlow ∧ x.point = some i ∧ x.state = .live) := by
    unfold Net.sourcesAt
    rw [hsources]
    split
    · next hc =>
      rw [Net.mem_idsWhere]
      simp only [Bool.and_eq_true, decide_eq_true_eq]
      exact exists_congr fun x => and_congr_right fun _ => ⟨fun h => ⟨hc.1, hc.2, h.2, h.1⟩, fun h => ⟨h.2.2.2, h.2.2.1⟩⟩
    · next hc => exact ⟨fun h => absurd h List.not_mem_nil, fun ⟨_, _, h1, h2, _⟩ => absurd ⟨h1, h2⟩ hc⟩
  refine ⟨fun y hy => ?_, ?_, fun k x hk hx => ?_⟩
  · obtain ⟨y', hy', hbare⟩ := List.getElem?_of_map_eq quiet.zones hy
    obtain ⟨hs, -, -⟩ := Zone.of_bare hbare
    have hexc := Net.judgeExcursion_incidents hpoint q.band (by rw [hwzone]; exact hy')
    rw [hs, hwzone] at hexc
    refine ⟨fun he => ?_, fun he => ?_⟩
    · exact ((hexc.1 he).congr quiet.incidents quiet.params quiet.now hbare).after failed.incidents failed.marks
    · exact failed.incidents.trans ((hexc.2 he).trans quiet.incidents)
  · apply List.ext_getElem?
    intro k
    rw [failed.sources, hsources, List.getElem?_map]
    cases hk : n.sources[k]? with
    | none => rfl
    | some x =>
      simp only [Option.map_some, decide_eq_true_eq]
      by_cases hf : w.band = .lowlow ∧ q.band ≠ .lowlow ∧ x.point = some i ∧ x.state = .live
      · rw [if_pos ((hmem k).2 ⟨x, hk, hf⟩), if_pos hf]
      · rw [if_neg (fun h => hf ?_), if_neg hf]
        obtain ⟨x', hx', hf'⟩ := (hmem k).1 h
        rw [hk] at hx'
        cases hx'
        exact hf'
  · have hin := (hmem k).2 ⟨x, hk, of_decide_eq_true hx⟩
    exact ⟨failed.urgent k hin, failed.pending (Or.inr (List.ne_nil_of_mem hin)), failed.changed k (Or.inr hin)⟩

end

/-! ## A payload applied (R53) -/

section
variable {n : Net} {st i v : Nat} {r : PointReading} {p : Payload} {q : Point}

theorem Net.applyReading_pointUnit (i : Nat) (r : PointReading) (n : Net) : Net.PointUnit n (n.applyReading i r) ∧
    (n.applyReading i r).points = n.points.modify i (Point.applyReading n.now r) := by
  cases hq : n.points[i]? with
  | none =>
    have hread : n.applyReading i r = n := by
      unfold Net.applyReading
      rw [hq]
    rw [hread]
    exact ⟨.rfl, (List.modify_eq_self (List.getElem?_eq_none_iff.1 hq)).symm⟩
  | some q =>
    have hread : n.applyReading i r = ((n.updatePoint i (Point.applyReading n.now r)).judgeExcursion i q.band).judgeSources i q.band := by
      unfold Net.applyReading
      rw [hq]
    have quiet := n.quiet_updatePoint (Point.place_applyReading n.now r) i
    have hpoints := n.updatePoint_points i (Point.applyReading n.now r)
    have hpoint : (n.updatePoint i (Point.applyReading n.now r)).points[i]? = some (q.applyReading n.now r) := by
      rw [hpoints, List.getElem?_modify, hq]
      simp
    rw [hread]
    generalize n.updatePoint i (Point.applyReading n.now r) = u at *
    obtain ⟨is, ms, hshape, hgrows⟩ := u.judgeExcursion_shape i q.band
    have failed := Net.judgeSources_failed (n := u.judgeExcursion i q.band) (by rw [hshape]; exact hpoint) q.band
    have hmarks := failed.marks
    obtain ⟨ss, sv, ms', hshape'⟩ := failed.shape
    rw [hshape'] at hmarks ⊢
    rw [hshape] at hmarks ⊢
    refine ⟨quiet.toPointUnit.trans ⟨rfl, rfl, rfl, rfl, rfl, rfl, rfl, rfl, ?_⟩, hpoints⟩
    exact hgrows.trans hmarks

theorem Net.takePointReading_pointUnit (st : Nat) (r : PointReading) (n : Net) : Net.PointUnit n (n.takePointReading st r) := by
  unfold Net.takePointReading
  split
  · exact (n.applyReading_pointUnit _ r).1
  · exact .rfl

theorem Net.mem_of_pointAt {z : Station} {slot : Nat} (hz : n.stations[st]? = some z) (h : n.pointAt st slot = some i) : i ∈ z.points := by
  unfold Net.pointAt at h
  rw [hz] at h
  exact List.mem_of_find?_eq_some h

/-- R53: a slot names a point by the station's list and the points' slots. -/
theorem Net.pointAt_congr {a b : Net} (hs : (b.stations[st]?).map (·.points) = (a.stations[st]?).map (·.points))
    (hp : b.points.map Point.place = a.points.map Point.place) (slot : Nat) : b.pointAt st slot = a.pointAt st slot := by
  have slotOf (m : Net) (i : Nat) : (m.points[i]?).any (fun q => q.slot = slot) = ((m.points.map Point.place)[i]?).any (fun x => x.1 = slot) := by
    rw [List.getElem?_map, Option.any_map]
    rfl
  unfold Net.pointAt
  rw [hs]
  simp only [slotOf, hp]

/-- The payload's readings applied and the summaries recomputed: all of a payload but its valve part. -/
def Net.applyReadings (st : Nat) (p : Payload) (n : Net) : Net :=
  let n1 := overEach (Net.takePointReading st) p.readings n
  overEach Net.recompute (n1.zonesOf (((n1.stations[st]?).map (·.points)).getD [])) n1

theorem Net.applyPayload_eq (st : Nat) (p : Payload) (n : Net) : n.applyPayload st p = (n.applyReadings st p).deliverValvePart st p := rfl

theorem Net.applyReadings_pointUnit (st : Nat) (p : Payload) (n : Net) : Net.PointUnit n (n.applyReadings st p) :=
  (overEach_pointUnit (fun r m => m.takePointReading_pointUnit st r) p.readings n).trans
    (overEach_quiet (fun z m => m.quiet_recompute z) _ _).toPointUnit

/-- Without readings a payload hands nothing to the survey engine but by its valve part. -/
theorem Net.applyReadings_survey (h : p.readings = []) : (n.applyReadings st p).survey = n.survey := by
  unfold Net.applyReadings
  rw [h]
  exact (overEach_quiet (fun z m => m.quiet_recompute z) _ n).survey

theorem Net.applyPayload_stations (st : Nat) (p : Payload) (n : Net) : (n.applyPayload st p).stations = n.stations := by
  rw [Net.applyPayload_eq, (Net.planSide_deliverValvePart _ st p).stations, (n.applyReadings_pointUnit st p).stations]

/-- R53, R54, R57, R59, R61, R63: a payload's one reading, applied and handed on. -/
theorem Net.readingApplied_applyPayload (n : Net) (st : Nat) (p : Payload) : n.ReadingApplied (n.applyPayload st p) st p := by
  intro r i q hr hat hq
  have hread : n.applyReadings st p = overEach Net.recompute
      ((n.applyReading i r).zonesOf ((((n.applyReading i r).stations[st]?).map (·.points)).getD [])) (n.applyReading i r) := by
    have hone : overEach (Net.takePointReading st) p.readings n = n.applyReading i r := by
      rw [hr, show overEach (Net.takePointReading st) [r] n = n.takePointReading st r from rfl, Net.takePointReading, hat]
    unfold Net.applyReadings
    rw [hone]
  obtain ⟨hunit, hpoints⟩ := n.applyReading_pointUnit i r
  have hw : (n.applyReading i r).points[i]? = some (q.applyReading n.now r) := by
    rw [hpoints, List.getElem?_modify, hq]
    simp
  have quiet := overEach_quiet (fun z m => m.quiet_recompute z)
    ((n.applyReading i r).zonesOf ((((n.applyReading i r).stations[st]?).map (·.points)).getD [])) (n.applyReading i r)
  have same := overEach_recompute_points
    ((n.applyReading i r).zonesOf ((((n.applyReading i r).stations[st]?).map (·.points)).getD [])) (n.applyReading i r)
  have right : (n.applyReadings st p).SummaryAt q.zone := by
    have hzone : (q.applyReading n.now r).zone = q.zone := congrArg Prod.snd (Point.place_applyReading n.now r q)
    rw [hread, ← hzone]
    refine Net.summaryAt_recomputed ?_ hw
    rw [hunit.stations]
    cases hz : n.stations[st]? with
    | none => rw [Net.pointAt, hz] at hat; exact nomatch hat
    | some z => exact Net.mem_of_pointAt hz hat
  rw [← hread] at quiet same
  have side := (n.applyReadings st p).planSide_deliverValvePart st p
  rw [Net.applyPayload_eq]
  refine ⟨q.applyReading n.now r, ?_, ?_, ?_, ?_, ?_, right.congr side.zones side.points⟩
  · rw [side.points, same, hw]
  · unfold Point.applyReading
    split <;> rfl
  · intro hf
    simp [Point.applyReading, hf]
  · intro hf
    simp [Point.applyReading, hf]
  · exact (Net.handedOn_applyReading hq).after (quiet.keepsHanded.trans side.toKeepsHanded)

end

/-! ## A station heard (R43, R51) -/

/-- A point but for what regaining its station changes. -/
def Point.steady (q : Point) : Point := { q with quality := .unknown, freshSince := 0 }

theorem Point.steady_regain (now : Time) (q : Point) : (q.regain now).steady = q.steady := by
  unfold Point.regain
  split <;> rfl

theorem Point.place_regain (now : Time) (q : Point) : (q.regain now).place = q.place := by
  unfold Point.regain
  split <;> rfl

/-- An update of points repeated keeps a view of them that each keeps. -/
theorem overEach_updatePoint_view {α : Type} {g : Point → α} {f : Point → Point} (hf : ∀ q, g (f q) = g q) (is : List Nat) (n : Net) :
    (overEach (fun i m => m.updatePoint i f) is n).points.map g = n.points.map g := by
  unfold overEach
  induction is generalizing n with
  | nil => rfl
  | cons i is ih =>
    refine (ih (n.updatePoint i f)).trans ?_
    rw [Net.updatePoint_points]
    exact List.map_modify_of_view _ _ _ _ hf

/-- R51: a station that is reached again regains its points; nothing is handed on. -/
theorem Net.changePoints_reached (n : Net) (points : List Nat) (old : Status) :
    Net.Quiet n (n.changePoints points old .online) ∧ (n.changePoints points old .online).points.map Point.steady = n.points.map Point.steady := by
  unfold Net.changePoints
  split
  · exact ⟨.rfl, rfl⟩
  · dsimp only [Status.unreachable]
    refine ⟨(overEach_quiet (fun i m => m.quiet_updatePoint (Point.place_regain n.now) i) points n).trans
      (overEach_quiet (fun z m => m.quiet_recompute z) _ _), ?_⟩
    rw [overEach_recompute_points]
    exact overEach_updatePoint_view (Point.steady_regain n.now) points n

/-- R43: what a station's DATA or PART reply does before its payload is applied. -/
theorem Net.updateStation_heard (n : Net) (st : Nat) (now : Time) :
    Net.Quiet (n.setStation st (Station.heardData now)) (n.updateStation st (Station.heardData now)) ∧
      (n.updateStation st (Station.heardData now)).points.map Point.steady = n.points.map Point.steady := by
  unfold Net.updateStation
  split
  · next hz =>
    have hsame : n.setStation st (Station.heardData now) = n := by
      unfold Net.setStation
      rw [List.modify_eq_self (List.getElem?_eq_none_iff.1 hz)]
    rw [hsame]
    exact ⟨.rfl, rfl⟩
  · next z _ =>
    dsimp only
    split
    · exact ⟨.rfl, rfl⟩
    · obtain ⟨quiet, hpoints⟩ := (n.setStation st (Station.heardData now)).changePoints_reached z.points z.status
      exact ⟨quiet.trans (Net.quiet_mark _ _ _), hpoints⟩

/-- R43, R53: a heard station's payload, its one reading applied and handed on. -/
theorem Net.readingApplied_heard (n : Net) (st : Nat) (now : Time) (p : Payload) :
    n.ReadingApplied ((n.updateStation st (Station.heardData now)).applyPayload st p) st p := by
  intro r i q hr hat hq
  obtain ⟨quiet, hsteady⟩ := n.updateStation_heard st now
  generalize n.updateStation st (Station.heardData now) = u at *
  obtain ⟨q', hq', heq⟩ := List.getElem?_of_map_eq hsteady hq
  have hzone : q'.zone = q.zone := (congrArg Point.zone heq :)
  have hband : q'.band = q.band := (congrArg Point.band heq :)
  have hsettings : q'.settings = q.settings := (congrArg Point.settings heq :)
  have hpending : q'.pendingBand = q.pendingBand := (congrArg Point.pendingBand heq :)
  have hat' : u.pointAt st r.slot = some i := by
    rw [← hat]
    refine Net.pointAt_congr (a := n) ?_ quiet.points r.slot
    rw [quiet.stations, Net.setStation_stations, List.getElem?_modify]
    cases n.stations[st]? <;> simp [Station.heardData]
  obtain ⟨w, hw, hvalue, hfault, hgood, hhanded, hsummary⟩ := u.readingApplied_applyPayload st p r i q' hr hat' hq'
  have hnow : u.now = n.now := quiet.now
  rw [hband] at hfault
  rw [hnow, hsettings, hband, hpending] at hgood
  rw [hzone] at hsummary
  exact ⟨w, hw, hvalue, hfault, hgood, (hhanded.before quiet hzone hband : (n.setStation st _).HandedOn _ i q w), hsummary⟩

/-! ## A valve part read into an unclaimed valve (R9 to R11, R14, R124) -/

theorem List.modify_eq_set_of_getElem? {α : Type} {xs : List α} {i : Nat} {x : α} (f : α → α) (h : xs[i]? = some x) :
    xs.modify i f = xs.set i (f x) := by
  have hlt := (List.getElem?_eq_some_iff.1 h).1
  apply List.ext_getElem?
  intro k
  rw [List.getElem?_modify, List.getElem?_set]
  by_cases hk : i = k
  · subst hk
    rw [h]
    simp [hlt]
  · simp [hk]

/-- R10: a valve part without meaning: a position above 100, or the motion code 3. -/
theorem readValvePart_eq_none_iff (b : Byte × Byte) : readValvePart b = none ↔ 100 < b.1.toNat ∨ b.2.toNat % 4 = 3 := by
  have hmax : Config.positionMax = 100 := rfl
  unfold readValvePart
  rw [hmax]
  have hlt : b.2.toNat % 4 < 4 := Nat.mod_lt _ (by decide)
  generalize b.2.toNat % 4 = m at *
  interval_cases m <;> simp [Motion.ofCode]

/-- R10, R11: a reading with a meaning, as the valve's fields take it. -/
theorem Valve.applyReading_eq {b : Byte × Byte} {r : ValveReading} (h : readValvePart b = some r) (now : Time) (y : Valve) :
    y.applyReading now r = y.afterReading now b := by
  have hmax : Config.positionMax = 100 := rfl
  unfold readValvePart at h
  rw [hmax] at h
  unfold Valve.applyReading Valve.afterReading posStateOfReading
  rw [hmax]
  have hlt : b.2.toNat % 4 < 4 := Nat.mod_lt _ (by decide)
  generalize b.2.toNat % 4 = m at *
  interval_cases m <;> simp only [Motion.ofCode] at h
  · split at h
    · cases h
      cases b.2.getLsbD 2 <;> cases b.2.getLsbD 3 <;> by_cases hp : b.1.toNat = 100 <;> simp [hp]
    · exact nomatch h
  · split at h
    · cases h
      simp
    · exact nomatch h
  · split at h
    · cases h
      simp
    · exact nomatch h
  · exact nomatch h

/-- The run clock is no part of what a reading shows of a move. -/
theorem Valve.posState_afterReading (y : Valve) (now now' : Time) (b : Byte × Byte) :
    (y.afterReading now b).posState = (y.afterReading now' b).posState := rfl

/-- R116, R124: what the part finds of a move is what the reading shows. -/
theorem hasMoved_iff {b : Byte × Byte} {r : ValveReading} (h : readValvePart b = some r) (now : Time) (y : Valve) :
    (hasMoved y (y.afterReading now b) && !y.settleNext) = true ↔ y.Moved b := by
  have hmeaning : ¬ (100 < b.1.toNat ∨ b.2.toNat % 4 = 3) := by
    rw [← readValvePart_eq_none_iff, h]
    exact nofun
  have htol : Config.positionTolerance = 2 := rfl
  have hmotion : (y.afterReading now b).motion = some .opening ∨ (y.afterReading now b).motion = some .closing ↔ b.2.toNat % 4 ≠ 0 := by
    unfold Valve.afterReading
    by_cases h0 : b.2.toNat % 4 = 0 <;> by_cases h1 : b.2.toNat % 4 = 1 <;> simp [h0, h1]
  unfold hasMoved Valve.Moved
  rw [show (y.afterReading now b).position = some b.1.toNat from rfl]
  cases y.position with
  | none => simp
  | some p =>
    simp only [Bool.and_eq_true, Bool.or_eq_true, Bool.not_eq_true', decide_eq_true_eq, htol, Option.some.injEq, exists_eq_left',
      ne_eq, eq_iff_iff, Valve.posState_afterReading y now 0 b]
    rw [hmotion]
    tauto

section
variable {n : Net} {v : Nat} {y : Valve}

/-- R11, R14: a valve's fields written and a change of passing state handed on. -/
theorem Net.handPassing_updateValve (hy : n.valves[v]? = some y) (f : Valve → Valve) (hf : (f y).claim = y.claim) :
    ((n.updateValve v f).handPassing v y.posState).valves = (n.afterPosition v y (f y)).valves ∧
      ((n.updateValve v f).handPassing v y.posState).survey = (n.afterPosition v y (f y)).survey := by
  have hvalves : (n.updateValve v f).valves = n.valves.set v (f y) := by
    rw [← List.modify_eq_set_of_getElem? f hy]
    simp only [Net.updateValve, Net.markIf_valves, Net.setValve_valves]
  have hsurvey : (n.updateValve v f).survey = n.survey := by simp only [Net.updateValve, Net.markIf_survey, Net.setValve_survey]
  have hlt : v < n.valves.length := (List.getElem?_eq_some_iff.1 hy).1
  have hat : (n.valves.set v (f y))[v]? = some (f y) := by simp [hlt]
  generalize n.updateValve v f = u at *
  unfold Net.handPassing Net.afterPosition
  rw [hvalves, hat]
  dsimp only
  split
  · have hset : u.valves.modify v (fun x => { x with passing := passingOf x.posState }) =
        n.valves.set v { f y with passing := passingOf (f y).posState } := by
      rw [hvalves, List.modify_eq_set_of_getElem? _ hat, List.set_set]
    simp [Net.passingChanged, Net.setValve_valves, hset, hsurvey, hlt, Survey.afterPassing, hf]
  · exact ⟨hvalves, hsurvey⟩

/-- An update of a valve that touches neither position state nor passing state comes to the same before and after they are written. -/
theorem Net.modify_afterPosition (hy : n.valves[v]? = some y) (x : Valve) (g : Valve → Valve) (hpos : (g x).posState = x.posState)
    (hpass : ∀ ps, g { x with passing := ps } = { g x with passing := ps }) :
    (n.afterPosition v y x).valves.modify v g = (n.afterPosition v y (g x)).valves ∧
      (n.afterPosition v y x).survey = (n.afterPosition v y (g x)).survey := by
  have hlt : v < n.valves.length := (List.getElem?_eq_some_iff.1 hy).1
  have set (z : Valve) : (n.valves.set v z).modify v g = n.valves.set v (g z) := by
    rw [List.modify_eq_set_of_getElem? g (by simp [hlt] : (n.valves.set v z)[v]? = some z), List.set_set]
  unfold Net.afterPosition
  by_cases h : passingOf x.posState ≠ passingOf y.posState
  · rw [if_pos h, if_pos (by rw [hpos]; exact h)]
    refine ⟨(set _).trans ?_, rfl⟩
    rw [hpass, ← hpos]
  · rw [if_neg h, if_neg (by rw [hpos]; exact h)]
    exact ⟨set _, rfl⟩

/-- R14: the valve whose fields have been written, but for its passing state. -/
theorem Net.getElem?_afterPosition (hy : n.valves[v]? = some y) (x : Valve) : ∃ ps, (n.afterPosition v y x).valves[v]? = some { x with passing := ps } := by
  have hlt : v < n.valves.length := (List.getElem?_eq_some_iff.1 hy).1
  unfold Net.afterPosition
  split
  · exact ⟨_, by simp [hlt]; rfl⟩
  · exact ⟨x.passing, by simp [hlt]⟩

/-- R11, R14, R124: a reading of an unclaimed valve. -/
theorem Net.takeReading_unclaimed {b : Byte × Byte} {r : ValveReading} (hy : n.valves[v]? = some y) (hc : y.claim = none)
    (hr : readValvePart b = some r) :
    let w := { y.afterReading n.now b with settleNext := false }
    (y.Moved b → (n.takeReading v r).valves = (n.afterPosition v y { w with movedUnplanned := true }).valves ∧
      (RecordName.valve v ∈ (n.takeReading v r).marks.urgent ∨ RecordName.valve v ∈ (n.takeReading v r).marks.ordinary)) ∧
    (¬ y.Moved b → (n.takeReading v r).valves = (n.afterPosition v y w).valves) ∧
    (n.takeReading v r).survey = (n.afterPosition v y w).survey := by
  intro w
  obtain ⟨hvalves, hsurvey⟩ := Net.handPassing_updateValve hy (Valve.applyReading n.now r) rfl
  have htake : n.takeReading v r = Net.judgeReading v y ((n.updateValve v (Valve.applyReading n.now r)).handPassing v y.posState) := by
    unfold Net.takeReading
    rw [hy]
  rw [Valve.applyReading_eq hr] at hvalves hsurvey
  rw [htake]
  generalize (n.updateValve v (Valve.applyReading n.now r)).handPassing v y.posState = u at *
  obtain ⟨ps, hps⟩ := Net.getElem?_afterPosition hy (y.afterReading n.now b)
  rw [← hvalves] at hps
  obtain ⟨hsettled, hsettled'⟩ :=
    Net.modify_afterPosition hy (y.afterReading n.now b) (fun x => { x with settleNext := false }) rfl (fun _ => rfl)
  obtain ⟨hmoved, -⟩ := Net.modify_afterPosition hy w (fun x => { x with movedUnplanned := true }) rfl (fun _ => rfl)
  rw [← hvalves] at hsettled
  rw [← hsurvey] at hsettled'
  have found := hasMoved_iff hr n.now y
  have hclaim : (y.afterReading n.now b).claim = none := hc
  have hjudge : u.judgeReading v y =
      if (hasMoved y (y.afterReading n.now b) && !y.settleNext) = true then
        (u.setValve v (fun x => { x with settleNext := false })).updateValveMarked v (fun x => { x with movedUnplanned := true })
      else u.setValve v (fun x => { x with settleNext := false }) := by
    unfold Net.judgeReading
    rw [hps]
    dsimp only
    rw [hclaim]
    rfl
  rw [hjudge]
  refine ⟨fun hm => ?_, fun hm => ?_, ?_⟩
  · rw [if_pos (found.2 hm)]
    refine ⟨?_, Marks.mem_add_ordinary _ _⟩
    rw [← hmoved, ← hsettled]
    rfl
  · rw [if_neg (fun h => hm (found.1 h))]
    exact hsettled
  · split <;> exact hsettled'

/-- R9: what a valve part does for a station with a valve. -/
theorem Net.deliverValvePart_eq {st : Nat} {p : Payload} {x : Station} {b : Byte × Byte} (hx : n.stations[st]? = some x) (hk : x.kind ≠ .pressure)
    (hv : x.valve = some v) (hb : p.valve = some b) : n.deliverValvePart st p = (readValvePart b).elim n (fun r => n.takeReading v r) := by
  unfold Net.deliverValvePart
  rw [hx, hb]
  dsimp only
  rw [hv]
  cases hkind : x.kind with
  | pressure => exact absurd hkind hk
  | valve | combined => cases readValvePart b <;> rfl

end

/-! ## A plan blocked at a station out of reach (R32, R115, R121, R122) -/

theorem Quad.set_get_self {α : Type} (q : Quad α) (l : Fin 4) : q.set l (q.get l) = q := by
  fin_cases l <;> rfl

section
variable {n : Net} {v st slot : Nat} {l : Fin 4}

/-- A plan that claims a valve stands in its slot. -/
theorem Net.slotRecord_of_claimPlan {p : Plan} (h : n.claimPlan v = some (slot, p)) : slotRecord n.plans slot = some p := by
  unfold Net.claimPlan at h
  rw [Option.bind_eq_some_iff] at h
  obtain ⟨r, -, h⟩ := h
  rw [Option.map_eq_some_iff] at h
  obtain ⟨q, hq, h⟩ := h
  obtain ⟨rfl, rfl⟩ := Prod.mk.inj h
  unfold findRecord at hq
  unfold slotRecord
  split at hq
  · next sl hsl =>
    split at hq
    · rw [hsl]
      exact hq
    · exact nomatch hq
  · exact nomatch hq

/-- The line and station of a valve stand while the valves' stations and the stations do. -/
theorem Net.PlanSide.valveLine {a b : Net} (h : Net.PlanSide a b) (v : Nat) : b.valveLine v = a.valveLine v := by
  have hv : (b.valves[v]?).map Valve.station = (a.valves[v]?).map Valve.station := by
    rw [← List.getElem?_map, ← List.getElem?_map, h.valveStations]
  have hbind (m : Net) : (m.valves[v]?).bind Valve.station = ((m.valves[v]?).map Valve.station).bind id := by cases m.valves[v]? <;> rfl
  unfold Net.valveLine
  rw [hbind b, hv, ← hbind a, h.stations]

theorem Net.PlanSide.stationValve {a b : Net} (h : Net.PlanSide a b) (st : Nat) : b.stationValve st = a.stationValve st := by
  unfold Net.stationValve
  rw [h.stations]

/-- No command of station `st` is listed on line `l`. -/
def Net.Unlisted (n : Net) (l : Fin 4) (st : Nat) : Prop := ∀ c ∈ (n.line l).commands, c.station ≠ st

theorem Net.Unlisted.congr {a b : Net} (h : a.Unlisted l st) (e : b.lines = a.lines) : b.Unlisted l st := by
  unfold Net.Unlisted Net.line at h ⊢
  rw [e]
  exact h

/-- R31: a withdrawal finds nothing where no command of the station is listed. -/
theorem Net.withdrawStep_lines (h : n.Unlisted l st) (tag : Byte) : (n.withdrawStep l st tag).lines = n.lines := by
  have hsame : Machine.withdrawStep (n.line l).commands st tag = (n.line l).commands := by
    refine List.filter_eq_self.2 fun c hc => ?_
    cases c.command with
    | step t target => simp [h c hc]
    | stop => rfl
  unfold Net.withdrawStep
  rw [Net.setLine_lines]
  change n.lines.set l { n.line l with commands := Machine.withdrawStep (n.line l).commands st tag } = n.lines
  rw [hsame]
  exact Quad.set_get_self n.lines l

/-- R121: restaging a valve whose station has no command listed leaves the lines. -/
theorem Net.restage_lines (p : Plan) (hl : n.valveLine v = some (l, st)) (h : n.Unlisted l st) : (n.restage p v).lines = n.lines := by
  unfold Net.restage
  split
  · rfl
  · next f _ =>
    have hlines : (n.updateValve v (fun x => { x with inFlight := none, staged := some (restaged p f) })).lines = n.lines := by
      simp only [Net.updateValve, Net.markIf_lines, Net.setValve_lines]
    dsimp only
    split
    · rw [hl]
      exact (Net.withdrawStep_lines (h.congr hlines) _).trans hlines
    · exact hlines

/-- R121: blocking a plan at such a valve leaves the lines. -/
theorem Net.blockPlan_lines (reason : BlockReason) (moved : Option Nat) (hp : ∀ p, slotRecord n.plans slot = some p → p.runs v = true)
    (hl : n.valveLine v = some (l, st)) (h : n.Unlisted l st) : (n.blockPlan slot reason moved).lines = n.lines := by
  unfold Net.blockPlan
  split
  · rfl
  · next p hslot =>
    split
    · split
      · next e ent _ hent =>
        have hruns := hp p hslot
        unfold Plan.runs at hruns
        rw [hent] at hruns
        have hv : ent.valve = v := by simpa using hruns
        rw [hv]
        exact Net.restage_lines p hl h
      · rfl
    · rfl

theorem Net.endPlan_lines (slot : Nat) (final : PlanState) (n : Net) : (n.endPlan slot final).lines = n.lines := by
  have released (vs : List Nat) (m : Net) : (overEach (fun v n => Net.updateValve v (fun x => { x with claim := none }) n) vs m).lines = m.lines := by
    unfold overEach
    induction vs generalizing m with
    | nil => rfl
    | cons v vs ih =>
      refine (ih _).trans ?_
      simp only [Net.updateValve, Net.markIf_lines, Net.setValve_lines]
  unfold Net.endPlan Net.releaseClaims Net.claimsChanged
  rw [Net.setSurvey_lines, released, Net.mark_lines, Net.setPlan_lines]

theorem Net.finishAbandon_lines (slot : Nat) (n : Net) : (n.finishAbandon slot).lines = n.lines := by
  unfold Net.finishAbandon
  split
  · split
    · exact Net.endPlan_lines _ _ n
    · rfl
  · rfl

/-- R114: no step is entered for a station out of reach; its entry is blocked. -/
theorem Net.enterStaged_lines (hout : (n.statusOf st).unreachable = true) (hp : ∀ p, slotRecord n.plans slot = some p → p.runs v = true)
    (hl : n.valveLine v = some (l, st)) (h : n.Unlisted l st) : (n.enterStaged slot v).lines = n.lines := by
  have hcondition : ∃ reason, n.stepCondition v = some reason := by
    unfold Net.stepCondition
    rw [hl]
    dsimp only
    rw [if_pos hout]
    split <;> exact ⟨_, rfl⟩
  obtain ⟨reason, hreason⟩ := hcondition
  unfold Net.enterStaged
  split
  · split
    · rfl
    · rw [hreason]
      exact Net.blockPlan_lines reason none hp hl h
  · rfl

/-- What the clause on the command lists asks of a station's valve: it names the station, and the plan that claims it runs it, unless no step
of it is in flight. -/
def Net.OwnValve (n : Net) (l : Fin 4) (st v : Nat) : Prop :=
  n.valveLine v = some (l, st) ∧ ∀ slot q, n.claimPlan v = some (slot, q) → q.runs v = true ∨ ∀ y, n.valves[v]? = some y → y.inFlight = none

/-- R32: the outcome of a command removed with its station enters nothing. -/
theorem Net.removed_lines (c : LineCommand) (hout : (n.statusOf st).unreachable = true)
    (hown : ∀ v, n.stationValve st = some v → n.OwnValve l st v) (h : n.Unlisted l st) :
    (n.commandOutcome st (removedOutcome c .stationLost)).lines = n.lines := by
  cases c with
  | step tag target =>
    change (n.stepOutcome st tag .stationLost).lines = n.lines
    unfold Net.stepOutcome
    split
    · rfl
    · next v hv =>
      obtain ⟨hl, hclaim⟩ := hown v hv
      split
      · rfl
      · next f hf =>
        split
        · dsimp only
          unfold Net.blockClaim
          split
          · next slot p hcp =>
            refine Net.blockPlan_lines _ _ (fun q hq => ?_) hl h
            rw [Net.slotRecord_of_claimPlan hcp] at hq
            cases hq
            refine (hclaim slot p hcp).resolve_right fun hnone => ?_
            rw [Option.bind_eq_some_iff] at hf
            obtain ⟨y, hy, hf⟩ := hf
            rw [hnone y hy] at hf
            exact nomatch hf
          · rfl
        · rfl
  | stop =>
    change (n.stopOutcome st .stationLost).lines = n.lines
    unfold Net.stopOutcome
    split
    · rfl
    · next v hv =>
      obtain ⟨hl, -⟩ := hown v hv
      split
      · have side : Net.PlanSide n (n.setValve v (fun x =>
            { x with stopPending := false, settleNext := x.settleNext || decide (StopOutcome.stationLost = .taken ∨ StopOutcome.stationLost = .refused) })) :=
          n.planSide_setValve v
        unfold Net.afterStop
        split
        · rfl
        · next slot p hcp =>
          split
          · next hc =>
            refine Net.enterStaged_lines (l := l) hout (fun q hq => ?_) (by rw [side.valveLine, hl]) h
            rw [Net.slotRecord_of_claimPlan hcp] at hq
            cases hq
            exact hc.2.1
          · exact Net.finishAbandon_lines _ _
      · rfl

/-- R122: the notice of a station out of reach enters nothing. -/
theorem Net.stationNotice_lines (hown : ∀ v, n.stationValve st = some v → n.valveLine v = some (l, st)) (h : n.Unlisted l st) (status : Status) :
    (n.stationNotice st status).lines = n.lines := by
  unfold Net.stationNotice
  split
  · split
    · rfl
    · next v hv =>
      split
      · next slot p hcp =>
        split
        · next hruns =>
          refine Net.blockPlan_lines _ _ (fun q hq => ?_) (hown v hv) h
          rw [Net.slotRecord_of_claimPlan hcp] at hq
          cases hq
          exact hruns
        · rfl
      · rfl
  · rfl

end

/-! ## The running entry blocked at a station out of reach (R115, R121, R122) -/

section
variable {n m : Net} {r : Ref} {q : Plan} {e st : Nat} {ent : PlanEntry} {x : Valve}

theorem slotRecord_of_findRecord {α : Type} {slots : List (Slot α)} {y : α} (h : findRecord slots r = some y) :
    ∃ sl, slots[r.slot]? = some sl ∧ sl.state ≠ .free ∧ sl.serial = r.serial ∧ sl.record = some y := by
  unfold findRecord at h
  split at h
  · next sl hsl =>
    split at h
    · next hc => exact ⟨sl, hsl, hc.1, hc.2, h⟩
    · exact nomatch h
  · exact nomatch h

/-- A record written in its slot is found by the same reference. -/
theorem findRecord_putRecord {α : Type} {slots : List (Slot α)} {y : α} (h : findRecord slots r = some y) (z : α) :
    findRecord (putRecord slots r.slot z) r = some z := by
  obtain ⟨sl, hsl, hfree, hserial, -⟩ := slotRecord_of_findRecord h
  unfold findRecord putRecord
  rw [List.getElem?_modify, hsl]
  simp [hfree, hserial]

theorem Net.claimPlan_of_running (h : n.RunningAt r q e ent x) : n.claimPlan ent.valve = some (r.slot, q) := by
  unfold Net.claimPlan
  rw [h.valve, Option.bind_some, h.claim, Option.bind_some, h.plan]
  rfl

theorem Net.runs_of_running (h : n.RunningAt r q e ent x) : q.runs ent.valve = true := by
  unfold Plan.runs Plan.runningEntry
  rw [h.running, Option.bind_some, h.entry]
  simp

theorem Net.slotRecord_of_running (h : n.RunningAt r q e ent x) : slotRecord n.plans r.slot = some q :=
  n.slotRecord_of_claimPlan (Net.claimPlan_of_running h)

/-- R121: what blocking a plan does to a valve that was valve `v`: its step in flight is staged again. -/
def Net.valvesRestaged (n : Net) (q : Plan) (v : Nat) (x : Valve) : List Valve :=
  x.inFlight.elim n.valves (fun f =>
    n.valves.set v { x with inFlight := none, staged := some (f.again (((q.stepAt f.entry f.step).map (·.dwell)).getD 0)) })

theorem Net.restage_valves {v : Nat} (hx : n.valves[v]? = some x) : (n.restage q v).valves = n.valvesRestaged q v x := by
  unfold Net.restage Net.valvesRestaged
  rw [hx, Option.bind_some]
  cases x.inFlight with
  | none => rfl
  | some f =>
    have updated : (n.updateValve v (fun y => { y with inFlight := none, staged := some (restaged q f) })).valves =
        n.valves.set v { x with inFlight := none, staged := some (restaged q f) } := by
      simp only [Net.updateValve, Net.markIf_valves, Net.setValve_valves]
      exact List.modify_eq_set_of_getElem? _ hx
    dsimp only
    split
    · split
      · exact updated
      · exact updated
    · exact updated

theorem Net.restage_plans (v : Nat) (n : Net) : (n.restage q v).plans = n.plans := by
  unfold Net.restage
  split
  · rfl
  · dsimp only
    split
    · split
      · simp only [Net.withdrawStep, Net.updateValve, Net.setLine_plans, Net.markIf_plans, Net.setValve_plans]
      · simp only [Net.updateValve, Net.markIf_plans, Net.setValve_plans]
    · simp only [Net.updateValve, Net.markIf_plans, Net.setValve_plans]

/-- R115, R121, R122: the running entry of plan `q`, at valve `ent.valve`, blocked with STATION-LOST. -/
structure Net.BlockedAt (n m : Net) (r : Ref) (q : Plan) (e : Nat) (ent : PlanEntry) (x : Valve) : Prop where
  plans : m.plans = putRecord n.plans r.slot (q.blockedBy e .stationLost ent.valve)
  urgent : RecordName.plan r.slot ∈ m.marks.urgent
  valves : m.valves = n.valvesRestaged q ent.valve x

theorem Net.blockPlan_blocked (h : n.RunningAt r q e ent x) (hs : q.state = .active ∨ q.state = .holding) :
    n.BlockedAt (n.blockPlan r.slot .stationLost none) r q e ent x := by
  obtain ⟨sl, hsl, -, -, hrecord⟩ := slotRecord_of_findRecord h.plan
  have hentry : q.runningEntry = some ent := by
    unfold Plan.runningEntry
    rw [h.running, Option.bind_some, h.entry]
  have hblock : n.blockPlan r.slot .stationLost none = ((n.setPlan r.slot (fun p =>
      { p.setEntry e (fun x => { x with state := .blocked }) with
        state := .blocked, block := some { reason := .stationLost, valve := ent.valve } })).mark .urgent (.plan r.slot)).restage q ent.valve := by
    unfold Net.blockPlan
    rw [Net.slotRecord_of_running h]
    dsimp only
    rw [if_pos hs, h.running, hentry]
    rfl
  rw [hblock]
  refine ⟨?_, (Net.planSide_restage _ q ent.valve).marks.urgent _ (Marks.mem_add_urgent _ _), Net.restage_valves h.valve⟩
  rw [Net.restage_plans]
  exact modify_update_eq_putRecord _ hsl hrecord

/-- R122: a second notice finds the plan BLOCKED. -/
theorem Net.BlockedAt.stationNotice (h : n.BlockedAt m r q e ent x) (hrun : n.RunningAt r q e ent x) (hv : m.stationValve st = some ent.valve) :
    m.stationNotice st .lost = m := by
  obtain ⟨y, hy, hclaim⟩ : ∃ y, m.valves[ent.valve]? = some y ∧ y.claim = some r := by
    have hlt := (List.getElem?_eq_some_iff.1 hrun.valve).1
    rw [h.valves]
    unfold Net.valvesRestaged
    cases x.inFlight with
    | none => exact ⟨x, hrun.valve, hrun.claim⟩
    | some f => exact ⟨_, List.getElem?_set_self hlt, hrun.claim⟩
  have hfind : findRecord m.plans r = some (q.blockedBy e .stationLost ent.valve) := by
    rw [h.plans]
    exact findRecord_putRecord hrun.plan _
  have hcp : m.claimPlan ent.valve = some (r.slot, q.blockedBy e .stationLost ent.valve) := by
    unfold Net.claimPlan
    rw [hy, Option.bind_some, hclaim, Option.bind_some, hfind]
    rfl
  have hblocked : m.blockPlan r.slot .stationLost none = m := by
    unfold Net.blockPlan
    rw [Net.slotRecord_of_claimPlan hcp]
    simp [Plan.blockedBy]
  unfold Net.stationNotice
  rw [hv]
  dsimp only
  rw [hcp]
  dsimp only
  rw [hblocked]
  simp

/-- R32, R115, R126: the outcome of a removed command blocks the running entry or changes nothing. -/
theorem Net.removed_blocks (hrun : n.RunningAt r q e ent x) (hv : n.stationValve st = some ent.valve) (hstop : x.stopPending = false)
    (c : LineCommand) :
    n.commandOutcome st (removedOutcome c .stationLost) = n ∨
      n.commandOutcome st (removedOutcome c .stationLost) = n.blockPlan r.slot .stationLost none := by
  cases c with
  | step tag target =>
    change n.stepOutcome st tag .stationLost = n ∨ n.stepOutcome st tag .stationLost = _
    unfold Net.stepOutcome
    rw [hv]
    dsimp only
    split
    · exact Or.inl rfl
    · split
      · unfold Net.blockClaim
        rw [Net.claimPlan_of_running hrun]
        exact Or.inr rfl
      · exact Or.inl rfl
  | stop =>
    left
    change n.stopOutcome st .stationLost = n
    unfold Net.stopOutcome
    rw [hv]
    dsimp only
    rw [hrun.valve]
    simp [hstop]

/-- R122: the notice blocks a running entry. -/
theorem Net.stationNotice_of_running (hrun : n.RunningAt r q e ent x) (hv : n.stationValve st = some ent.valve) :
    n.stationNotice st .lost = n.blockPlan r.slot .stationLost none := by
  unfold Net.stationNotice
  rw [hv]
  dsimp only
  rw [Net.claimPlan_of_running hrun]
  dsimp only
  rw [Net.runs_of_running hrun]
  simp [Status.unreachable]

/-- R32, R115, R122: a station out of reach: the outcome of its removed command, if one was listed, then the notice. -/
theorem Net.removed_then_notice_blocked (hrun : n.RunningAt r q e ent x) (hv : n.stationValve st = some ent.valve)
    (hs : q.state = .active ∨ q.state = .holding) (hstop : x.stopPending = false) (c : Option LineCommand) :
    n.BlockedAt ((c.elim n (fun c => n.commandOutcome st (removedOutcome c .stationLost))).stationNotice st .lost) r q e ent x := by
  have blocked := Net.blockPlan_blocked hrun hs
  have noticed := Net.stationNotice_of_running hrun hv
  have again : (n.blockPlan r.slot .stationLost none).stationNotice st .lost = n.blockPlan r.slot .stationLost none :=
    blocked.stationNotice hrun (by rw [(n.planSide_blockPlan _ _ _).stationValve, hv])
  cases c with
  | none => exact noticed ▸ blocked
  | some c =>
    rcases Net.removed_blocks hrun hv hstop c with h | h
    · rw [Option.elim_some, h, noticed]
      exact blocked
    · rw [Option.elim_some, h, again]
      exact blocked

end

/-! ## A station made LOST (R32, R48, R49, R51) -/

section
variable {n : Net} {st : Nat} {z : Station}

theorem Point.place_lose (q : Point) : q.lose.place = q.place := rfl

/-- An idempotent update of some points, each of them updated. -/
theorem overEach_updatePoint_points {f : Point → Point} (hf : ∀ q, f (f q) = f q) (is : List Nat) (n : Net) (i : Nat) :
    (overEach (fun k m => m.updatePoint k f) is n).points[i]? = if i ∈ is then (n.points[i]?).map f else n.points[i]? := by
  unfold overEach
  induction is generalizing n with
  | nil => rfl
  | cons k is ih =>
    refine (ih (n.updatePoint k f)).trans ?_
    rw [Net.updatePoint_points, List.getElem?_modify]
    cases n.points[i]? with
    | none => simp
    | some q =>
      by_cases hk : k = i
      · simp [hk, hf]
      · simp [hk, Ne.symm hk]

theorem Net.quiet_changePoints_lost (n : Net) (points : List Nat) (old : Status) : Net.Quiet n (n.changePoints points old .lost) := by
  unfold Net.changePoints
  split
  · exact .rfl
  · exact (overEach_quiet (fun i m => m.quiet_updatePoint Point.place_lose i) points n).trans
      (overEach_quiet (fun k m => m.quiet_recompute k) _ _)

/-- R51: a point of a station gone out of reach, and the summary of its zone. -/
theorem Net.changePoints_lost {old : Status} (hold : old.unreachable = false) {points : List Nat} {i : Nat} (hi : i ∈ points) {q : Point}
    (hq : n.points[i]? = some q) :
    (n.changePoints points old .lost).points[i]? = some q.lose ∧ (n.changePoints points old .lost).SummaryAt q.zone := by
  have hchange : n.changePoints points old .lost =
      overEach Net.recompute ((overEach (fun i m => m.updatePoint i Point.lose) points n).zonesOf points)
        (overEach (fun i m => m.updatePoint i Point.lose) points n) := by
    unfold Net.changePoints
    rw [hold]
    rfl
  have hlost : (overEach (fun i m => m.updatePoint i Point.lose) points n).points[i]? = some q.lose := by
    rw [overEach_updatePoint_points (f := Point.lose) (fun _ => rfl), if_pos hi, hq]
    rfl
  have right := Net.summaryAt_recomputed hi hlost
  rw [hchange]
  exact ⟨(congrArg (·[i]?) (overEach_recompute_points _ _)).trans hlost, right⟩

/-- R32: station `st` of line `l` with no command listed and no continuation owed to it. -/
def Net.withoutStation (l : Fin 4) (st : Nat) (n : Net) : Net := (n.removeStation l st).1

theorem Net.withoutStation_line (l : Fin 4) (st : Nat) (n : Net) : (n.withoutStation l st).line l =
    { n.line l with
      commands := (n.line l).commands.filter (fun c => c.station ≠ st)
      continuation := if (n.line l).continuation = some st then none else (n.line l).continuation } := by
  unfold Net.withoutStation Net.removeStation Net.line
  dsimp only
  rw [Net.setLine_lines, Quad.get_set_self]
  rfl

theorem Net.unlisted_withoutStation (l : Fin 4) (st : Nat) (n : Net) : (n.withoutStation l st).Unlisted l st := by
  intro c hc
  rw [Net.withoutStation_line] at hc
  simpa using (List.mem_filter.1 hc).2

/-- R32, R51: the line is told of a station that goes out of reach. -/
theorem Net.tellLine_lost (l : Fin 4) {old : Status} (hold : old.unreachable = false) (st : Nat) (n : Net) :
    n.tellLine l st old .lost = (listedCommand (n.line l).commands st).elim (n.withoutStation l st)
      (fun c => (n.withoutStation l st).commandOutcome st (removedOutcome c .stationLost)) := by
  unfold Net.tellLine Net.withoutStation Net.removeStation
  rw [hold]
  cases listedCommand (n.line l).commands st <;> rfl

/-- What a change of a station's status and counts leaves of the lines' and the plan engine's view of the stations. -/
theorem Net.valveLine_setStation {f : Station → Station} (hf : ∀ z, (f z).line = z.line) (v : Nat) :
    (n.setStation st f).valveLine v = n.valveLine v := by
  have hline (k : Nat) : ((n.setStation st f).stations[k]?).map Station.line = (n.stations[k]?).map Station.line := by
    rw [← List.getElem?_map, ← List.getElem?_map, Net.setStation_stations, List.map_modify_of_view _ _ _ _ hf]
  have hpair (m : Net) (k : Nat) : (m.stations[k]?).map (fun s => (s.line, k)) = ((m.stations[k]?).map Station.line).map (fun l => (l, k)) := by
    cases m.stations[k]? <;> rfl
  unfold Net.valveLine
  rw [Net.setStation_valves]
  simp only [hpair, hline]

/-- R48, R49: station `st` made LOST, its line told and the plan engine noticed, but its points not yet. -/
def Net.loseStation (st : Nat) (z : Station) (n : Net) : Net :=
  ((n.setStation st Station.lose).tellLine z.line st z.status .lost).stationNotice st .lost

theorem Net.updateStation_lose (hz : n.stations[st]? = some z) (hs : z.status ≠ .lost) :
    n.updateStation st Station.lose = ((n.loseStation st z).changePoints z.points z.status .lost).mark .ordinary (.station st) := by
  unfold Net.updateStation
  rw [hz]
  dsimp only
  rw [if_neg (fun h => hs h.symm)]
  rfl

theorem Net.planSide_tellLine_lost (l : Fin 4) {old : Status} (hold : old.unreachable = false) (st : Nat) (n : Net) :
    Net.PlanSide (n.withoutStation l st) (n.tellLine l st old .lost) := by
  rw [Net.tellLine_lost l hold]
  cases listedCommand (n.line l).commands st with
  | none => exact .rfl
  | some c => exact Net.planSide_commandOutcome _ st _

theorem Net.setStation_lose (hz : n.stations[st]? = some z) : (n.setStation st Station.lose).stations[st]? = some z.madeLost := by
  rw [Net.setStation_stations, List.getElem?_modify, hz]
  simp
  rfl

/-- R32, R122: telling the line and the plan engine leaves the stations and the points; from SITE-OUT it is told already. -/
theorem Net.stations_loseStation : (n.loseStation st z).stations = (n.setStation st Station.lose).stations := by
  unfold Net.loseStation
  rw [(Net.planSide_stationNotice _ st .lost).stations]
  unfold Net.tellLine
  split
  · dsimp only
    split
    · exact (Net.planSide_commandOutcome _ st _).stations
    · rfl
  · rfl

/-- R32: what is taken from the line of a reachable station, and what the plan engine leaves. -/
theorem Net.planSide_loseStation (hold : z.status.unreachable = false) :
    Net.PlanSide ((n.setStation st Station.lose).withoutStation z.line st) (n.loseStation st z) :=
  (Net.planSide_tellLine_lost z.line hold st _).trans (Net.planSide_stationNotice _ st .lost)

section
variable (hz : n.stations[st]? = some z) (hold : z.status.unreachable = false)
include hz hold

theorem Net.lines_loseStation (hown : ∀ v, z.valve = some v → n.OwnValve z.line st v) :
    (n.loseStation st z).lines = ((n.setStation st Station.lose).withoutStation z.line st).lines := by
  have hunlisted := Net.unlisted_withoutStation z.line st (n.setStation st Station.lose)
  have hstation : ((n.setStation st Station.lose).withoutStation z.line st).stations[st]? = some z.madeLost := Net.setStation_lose hz
  have hown' : ∀ v, ((n.setStation st Station.lose).withoutStation z.line st).stationValve st = some v →
      ((n.setStation st Station.lose).withoutStation z.line st).OwnValve z.line st v := by
    intro v hv
    unfold Net.stationValve at hv
    rw [hstation, Option.bind_some] at hv
    obtain ⟨hl, hclaim⟩ := hown v hv
    exact ⟨(Net.valveLine_setStation (f := Station.lose) (fun _ => rfl) v).trans hl, hclaim⟩
  have hout : (((n.setStation st Station.lose).withoutStation z.line st).statusOf st).unreachable = true := by
    unfold Net.statusOf
    rw [hstation]
    rfl
  have side := Net.planSide_tellLine_lost z.line hold st (n.setStation st Station.lose)
  have htold : ((n.setStation st Station.lose).tellLine z.line st z.status .lost).lines =
      ((n.setStation st Station.lose).withoutStation z.line st).lines := by
    rw [Net.tellLine_lost z.line hold]
    cases listedCommand ((n.setStation st Station.lose).line z.line).commands st with
    | none => rfl
    | some c => exact Net.removed_lines c hout hown' hunlisted
  unfold Net.loseStation
  rw [Net.stationNotice_lines (l := z.line) (fun v hv => ?_) (hunlisted.congr htold), htold]
  rw [side.stationValve] at hv
  rw [side.valveLine]
  exact (hown' v hv).1

theorem Net.loseStation_blocked {r : Ref} {q : Plan} {e : Nat} {ent : PlanEntry} {x : Valve} (hrun : n.RunningAt r q e ent x)
    (hv : z.valve = some ent.valve) (hs : q.state = .active ∨ q.state = .holding) (hstop : x.stopPending = false) :
    n.BlockedAt (n.loseStation st z) r q e ent x := by
  have hvalve : ((n.setStation st Station.lose).withoutStation z.line st).stationValve st = some ent.valve := by
    unfold Net.stationValve
    rw [show ((n.setStation st Station.lose).withoutStation z.line st).stations[st]? = some z.madeLost from Net.setStation_lose hz]
    exact hv
  have hrun' : ((n.setStation st Station.lose).withoutStation z.line st).RunningAt r q e ent x :=
    ⟨hrun.plan, hrun.running, hrun.entry, hrun.valve, hrun.claim⟩
  have blocked := Net.removed_then_notice_blocked hrun' hvalve hs hstop
    (listedCommand ((n.setStation st Station.lose).line z.line).commands st)
  rw [← Net.tellLine_lost z.line hold] at blocked
  exact ⟨blocked.plans, blocked.urgent, blocked.valves⟩

end

/-- R32, R51, R59, R115, R122: a station made LOST from within reach. -/
theorem Net.outOfReach_lost (hz : n.stations[st]? = some z) (hold : z.status.unreachable = false) {m : Net}
    (hm : m = ((n.loseStation st z).changePoints z.points z.status .lost).mark .ordinary (.station st)) :
    n.OutOfReach m st z (n.line z.line).continuation := by
  have side := Net.planSide_loseStation (n := n) (st := st) hold
  have quiet := (n.loseStation st z).quiet_changePoints_lost z.points z.status
  have hline : (n.setStation st Station.lose).line z.line = n.line z.line := rfl
  have removed := Net.withoutStation_line z.line st (n.setStation st Station.lose)
  have point {i : Nat} (hi : i ∈ z.points) {q : Point} (hq : n.points[i]? = some q) :=
    Net.changePoints_lost hold hi ((congrArg (·[i]?) side.points).trans hq : (n.loseStation st z).points[i]? = some q)
  rw [hline] at removed
  subst hm
  refine ⟨Marks.mem_add_ordinary _ _, fun i hi q hq => (point hi hq).1, fun i hi q y hq hy => (point hi hq).2 y hy, fun hown => ?_, ?_, ?_⟩
  · have hlines := quiet.lines.trans (Net.lines_loseStation hz hold hown)
    have : (n.loseStation st z |>.changePoints z.points z.status .lost).line z.line =
        ((n.setStation st Station.lose).withoutStation z.line st).line z.line := congrArg (Quad.get · z.line) hlines
    exact (congrArg Line.commands this).trans (congrArg Line.commands removed)
  · have : (n.loseStation st z |>.changePoints z.points z.status .lost).line z.line = (n.loseStation st z).line z.line :=
      congrArg (Quad.get · z.line) quiet.lines
    exact (congrArg Line.continuation this).trans ((side.continuation z.line).trans (congrArg Line.continuation removed))
  · intro r q e ent x hrun hv _ hs hstop
    obtain ⟨hplans, hurgent, hvalves⟩ := Net.loseStation_blocked hz hold hrun hv hs hstop
    refine ⟨quiet.plans.trans hplans, (quiet.marks.trans (Net.grows_mark _ _ _)).urgent _ hurgent, ?_⟩
    have : (n.loseStation st z |>.changePoints z.points z.status .lost).valves = n.valvesRestaged q ent.valve x := quiet.valves.trans hvalves
    refine this.trans ?_
    unfold Net.valvesRestaged
    cases x.inFlight <;> rfl

/-- R48, R49: a station made LOST. -/
theorem Net.stationLost_updateStation (hz : n.stations[st]? = some z) (hs : z.status ≠ .lost) :
    n.StationLost (n.updateStation st Station.lose) st z := by
  have hlose := Net.updateStation_lose hz hs
  refine ⟨?_, fun hout => Net.outOfReach_lost hz (by simp [Status.unreachable, hs, hout]) hlose⟩
  rw [hlose, Net.mark_stations, ((n.loseStation st z).quiet_changePoints_lost z.points z.status).stations, Net.stations_loseStation]
  exact Net.setStation_lose hz

end

/-! ## Frames heard, stations unheard or aged, points stale (R38, R39, R49, R55) -/

section
variable {n : Net} {st : Nat} {z : Station}

/-! ### When an expiry is due -/

theorem Net.unheard_iff (hz : n.stations[st]? = some z) :
    n.unheard st = true ↔ (n.line z.line).role = .listen ∧ (n.line z.line).state = .idle ∧ z.status ≠ .lost ∧
      ∃ h, z.lastHeard = some h ∧ h + 1000 * (n.line z.line).listenTimeout ≤ n.now := by
  unfold Net.unheard
  rw [hz]
  simp only [Option.any_some, Bool.and_eq_true, decide_eq_true_eq, Option.any_eq_true]
  tauto

theorem Net.replyAgeDue_iff (hz : n.stations[st]? = some z) :
    n.replyAgeDue st = true ↔ z.replyRef + 1000 * n.replyAgeLimit z ≤ n.now ∧ z.status ≠ .lost ∧ z.status ≠ .siteOut ∧
      (n.line z.line).role = .master ∧
      ((n.line z.line).state = .idle ∨ (n.line z.line).state = .await ∨ (n.line z.line).state = .gap) ∧
      ∀ e, (n.line z.line).exchange = some e → e.station ≠ st := by
  have hstatus : (z.status = .unknown ∨ z.status = .online ∨ z.status = .backoff) ↔ z.status ≠ .lost ∧ z.status ≠ .siteOut := by
    cases z.status <;> simp
  unfold Net.replyAgeDue
  rw [hz]
  simp only [Bool.and_eq_true, decide_eq_true_eq, hstatus]
  cases (n.line z.line).exchange <;> simp <;> tauto

theorem Net.staleDue_iff {i : Nat} {q : Point} (hq : n.points[i]? = some q) :
    n.staleDue i = true ↔
      q.freshSince + 1000 * q.settings.stale ≤ n.now ∧ (q.quality = .unknown ∨ q.quality = .good ∨ q.quality = .suspect) := by
  unfold Net.staleDue
  rw [hq]
  simp only [Option.any_some, Bool.and_eq_true, decide_eq_true_eq]

theorem Mode.timersRun_iff (m : Mode) : m.timersRun = true ↔ m = .running ∨ m = .halting ∨ m = .detached := by
  cases m <;> simp [Mode.timersRun]

/-- R55: a point becomes STALE; stations, valves and lines stay. -/
theorem Net.takeStale_due {i : Nat} {q : Point} (hq : n.points[i]? = some q) (hdue : n.staleDue i = true) :
    (n.takeStale i).points = n.points.set i { q with quality := .stale, pendingBand := none } ∧ Net.PointUnit n (n.takeStale i) := by
  have hplace : ∀ p : Point, ({ p with quality := .stale, pendingBand := none } : Point).place = p.place := fun _ => rfl
  unfold Net.takeStale
  rw [if_pos hdue]
  refine ⟨?_, ((n.quiet_updatePoint hplace i).trans (overEach_quiet (fun k m => m.quiet_recompute k) _ _)).toPointUnit⟩
  rw [overEach_recompute_points, Net.updatePoint_points]
  exact List.modify_eq_set_of_getElem? _ hq

/-! ### A frame heard -/

/-- R38: a frame that is none, and a line that is no LISTEN line in IDLE, change nothing. -/
theorem Net.hear_ignored {l : Fin 4} {bytes : List Byte}
    (h : parseReply bytes = none ∨ (n.line l).role = .master ∨ (n.line l).state ≠ .idle) : n.hear l bytes = n := by
  unfold Net.hear
  rcases h with h | h | h
  · rw [h]
    simp
  · simp [h]
  · simp [h]

/-- A station heard of now. -/
def Net.withHeard (st : Nat) (n : Net) : Net := n.setStation st (fun x => { x with lastHeard := some n.now })

theorem Net.hear_reply {l : Fin 4} {k : ReplyKind} (hrole : (n.line l).role = .listen) (hstate : (n.line l).state = .idle)
    (hat : n.stationAt l z.address = some st) (hk : k.ok = true) :
    n.hear l (ReplyFrame.bytes { address := z.address, kind := k }) =
      match k with
      | .data p | .part p => ((n.withHeard st).updateStation st (Station.heardData n.now)).applyPayload st p
      | .busy | .refuse => n.withHeard st := by
  have hat' : n.heardStation l { address := z.address, kind := k } = some st := hat
  unfold Net.hear
  rw [if_pos ⟨hrole, hstate⟩, parseReply_bytes _ hk]
  dsimp only
  rw [hat']
  cases k <;> rfl

theorem Net.withHeard_eq (hz : n.stations[st]? = some z) :
    n.withHeard st = { n with stations := n.stations.set st { z with lastHeard := some n.now } } := by
  unfold Net.withHeard Net.setStation
  rw [List.modify_eq_set_of_getElem? _ hz]

/-- R9 to R11, R14, R116, R124: what a payload's valve part `b` does to an unclaimed valve. -/
def Net.ValvePartRead (n m : Net) (p : Payload) (v : Nat) (y : Valve) (b : Byte × Byte) : Prop :=
  (100 < b.1.toNat ∨ b.2.toNat % 4 = 3 → m.valves = n.valves) ∧
    (b.1.toNat ≤ 100 → b.2.toNat % 4 ≠ 3 →
      let w := { y.afterReading n.now b with settleNext := false }
      (y.Moved b → m.valves = (n.afterPosition v y { w with movedUnplanned := true }).valves ∧
        (.valve v ∈ m.marks.urgent ∨ .valve v ∈ m.marks.ordinary)) ∧
      (¬ y.Moved b → m.valves = (n.afterPosition v y w).valves) ∧
      (p.readings = [] → m.survey = (n.afterPosition v y w).survey))

/-- R14: what a position writes to the valves and to the survey engine reads nothing else. -/
theorem Net.afterPosition_congr {a b : Net} (v : Nat) (x y : Valve) :
    (a.valves = b.valves → (a.afterPosition v x y).valves = (b.afterPosition v x y).valves) ∧
      (a.survey = b.survey → (a.afterPosition v x y).survey = (b.afterPosition v x y).survey) := by
  unfold Net.afterPosition
  split
  · exact ⟨fun h => by rw [h], fun h => by rw [h]⟩
  · exact ⟨fun h => by rw [h], fun h => h⟩

/-- R9: a payload's valve part taken after its readings. -/
theorem Net.valvePartRead_applyPayload {u : Net} {x : Station} {p : Payload} {v : Nat} {y : Valve} {b : Byte × Byte}
    (hvalves : u.valves = n.valves) (hnow : u.now = n.now) (hsurvey : u.survey = n.survey) (hx : u.stations[st]? = some x)
    (hk : x.kind ≠ .pressure) (hv : x.valve = some v) (hy : n.valves[v]? = some y) (hc : y.claim = none) (hb : p.valve = some b) :
    n.ValvePartRead (u.applyPayload st p) p v y b := by
  have unit := u.applyReadings_pointUnit st p
  have hsurvey' : p.readings = [] → (u.applyReadings st p).survey = n.survey := fun h => (Net.applyReadings_survey h).trans hsurvey
  have hvalves' := unit.valves.trans hvalves
  have hnow' : (u.applyReadings st p).now = n.now := unit.now.trans hnow
  rw [Net.applyPayload_eq, Net.deliverValvePart_eq (by rw [unit.stations]; exact hx) hk hv hb]
  generalize u.applyReadings st p = a at *
  have meaning := readValvePart_eq_none_iff b
  cases hr : readValvePart b with
  | none =>
    have hbad := meaning.1 hr
    exact ⟨fun _ => hvalves', fun h1 h2 => (hbad.elim (Nat.not_lt.2 h1) h2).elim⟩
  | some r =>
    have hgood : ¬ (100 < b.1.toNat ∨ b.2.toNat % 4 = 3) := fun h => nomatch hr.symm.trans (meaning.2 h)
    obtain ⟨hmoved, hstill, hsv⟩ := Net.takeReading_unclaimed (hvalves' ▸ hy : a.valves[v]? = some y) hc hr
    rw [hnow'] at hmoved hstill hsv
    have congr (w : Valve) := Net.afterPosition_congr (a := a) (b := n) v y w
    refine ⟨fun h => (hgood h).elim, fun _ _ => ⟨fun hm => ?_, fun hm => ?_, fun he => ?_⟩⟩
    · exact ⟨(hmoved hm).1.trans ((congr _).1 hvalves'), (hmoved hm).2⟩
    · exact (hstill hm).trans ((congr _).1 hvalves')
    · exact hsv.trans ((congr _).2 (hsurvey' he))

/-- R38, R43, R53: a DATA or PART reply heard on a LISTEN line. -/
theorem Net.heard_payload (hz : n.stations[st]? = some z) (p : Payload) :
    let m := ((n.withHeard st).updateStation st (Station.heardData n.now)).applyPayload st p
    m.stations[st]? = some (Station.heardData n.now { z with lastHeard := some n.now }) ∧ n.ReadingApplied m st p ∧
      ∀ v y b, z.kind ≠ .pressure → z.valve = some v → n.valves[v]? = some y → y.claim = none → p.valve = some b →
        n.ValvePartRead m p v y b := by
  intro m
  obtain ⟨quiet, -⟩ := (n.withHeard st).updateStation_heard st n.now
  have hstation : ((n.withHeard st).updateStation st (Station.heardData n.now)).stations[st]? =
      some (Station.heardData n.now { z with lastHeard := some n.now }) := by
    rw [quiet.stations, Net.setStation_stations, Net.withHeard, Net.setStation_stations, List.getElem?_modify, List.getElem?_modify, hz]
    simp
  refine ⟨?_, ?_, fun v y b hk hv hy hc hb => ?_⟩
  · exact (congrArg (·[st]?) (Net.applyPayload_stations st p _)).trans hstation
  · intro r i q hr hat hq
    have hat' : (n.withHeard st).pointAt st r.slot = some i := by
      rw [← hat]
      refine Net.pointAt_congr (a := n) (b := n.withHeard st) ?_ rfl r.slot
      rw [Net.withHeard, Net.setStation_stations, List.getElem?_modify]
      cases n.stations[st]? <;> simp
    exact (n.withHeard st).readingApplied_heard st n.now p r i q hr hat' hq
  · exact Net.valvePartRead_applyPayload quiet.valves quiet.now quiet.survey hstation hk hv hy hc hb

end

/-! ## The events and the obligation -/

/-- R38: what a frame heard does, net by net. -/
theorem State.onlyNet_hear (s : State) (l : Fin 4) (bytes : List Byte) :
    s.OnlyNet (s.onNet (fun n => (n.hear l bytes).arbitrateAll)).judgeStarved (s.net.hear l bytes).arbitrateAll :=
  s.onlyNet_onNet (fun n => (n.hear l bytes).arbitrateAll)

/-- R39, R49: an expiry that is due makes its station LOST; another changes nothing. -/
theorem State.station_expiry (s : State) {st : Nat} {z : Station} (hz : s.net.stations[st]? = some z) {take : Net → Net} {due : Bool}
    (htake : take s.net = if due = true then s.net.updateStation st Station.lose else s.net) {Due : Prop} (hdue : due = true ↔ Due)
    (hlost : Due → z.status ≠ .lost) :
    let t := (s.onNet (fun n => (take n).arbitrateAll)).judgeStarved
    (¬ Due → s.OnlyNet t s.net.arbitrateAll) ∧ (Due → ∃ n : Net, s.OnlyNet t n.arbitrateAll ∧ s.net.StationLost n st z) := by
  intro t
  have only : s.OnlyNet t (take s.net).arbitrateAll := s.onlyNet_onNet (fun n => (take n).arbitrateAll)
  rw [htake] at only
  refine ⟨fun h => ?_, fun h => ⟨_, ?_, Net.stationLost_updateStation hz (hlost h)⟩⟩
  · rwa [if_neg (fun hd => h (hdue.1 hd))] at only
  · rwa [if_pos (hdue.2 h)] at only

/-- R55: a stale age that ends. -/
theorem State.stale_expiry (s : State) {i : Nat} {q : Point} (hq : s.net.points[i]? = some q) :
    ∃ t, exec (.staleExpiry i) s = .next t ∧
      let stale := (s.net.mode = .running ∨ s.net.mode = .halting ∨ s.net.mode = .detached) ∧
        q.freshSince + 1000 * q.settings.stale ≤ s.net.now ∧ (q.quality = .unknown ∨ q.quality = .good ∨ q.quality = .suspect)
      (¬ stale → s.OnlyNet t s.net) ∧
      (stale → ∃ n : Net, s.OnlyNet t n ∧ n.points = s.net.points.set i { q with quality := .stale, pendingBand := none } ∧
        n.stations = s.net.stations ∧ n.valves = s.net.valves ∧ n.lines = s.net.lines) := by
  have hmode := s.net.mode.timersRun_iff
  have hdue := Net.staleDue_iff hq
  refine ⟨_, rfl, fun h => ?_, fun h => ?_⟩
  · split
    · next ht =>
      have hkeep : s.net.takeStale i = s.net := by
        unfold Net.takeStale
        rw [if_neg (fun hd => h ⟨hmode.1 ht, hdue.1 hd⟩)]
      have only := s.onlyNet_onNet (Net.takeStale i)
      rwa [hkeep] at only
    · exact s.onlyNet_onNet id
  · rw [if_pos (hmode.2 h.1)]
    obtain ⟨hpoints, unit⟩ := Net.takeStale_due hq (hdue.2 h.2)
    exact ⟨_, s.onlyNet_onNet (Net.takeStale i), hpoints, unit.stations, unit.valves, unit.lines⟩

/-- Settles O47: a frame by the reply it carries, an expiry by whether it is due; a station made LOST by what each owner in turn does. -/
theorem heardLostAndStale : Obligations.HeardLostAndStale := by
  unfold Obligations.HeardLostAndStale
  intro s
  refine ⟨fun l bytes => ⟨_, rfl, fun h => ?_, fun st z k hrole hstate hat hz hk hbytes => ?_⟩, fun st z hz => ?_,
    fun i q hq => s.stale_expiry hq⟩
  · have only := s.onlyNet_hear l bytes
    rwa [Net.hear_ignored h] at only
  · have only := s.onlyNet_hear l bytes
    rw [hbytes, Net.hear_reply hrole hstate hat hk, ← hbytes] at only
    refine ⟨fun hbusy => ?_, fun p hp => ⟨((s.net.withHeard st).updateStation st (Station.heardData s.net.now)).applyPayload st p, ?_, ?_⟩⟩
    · rw [← Net.withHeard_eq hz]
      rcases hbusy with rfl | rfl <;> exact only
    · rcases hp with rfl | rfl <;> exact only
    · have hending : ({ z with lastHeard := some s.net.now } : Station).afterEnding s.net.now .read (some k) =
          Station.heardData s.net.now { z with lastHeard := some s.net.now } := by
        rcases hp with rfl | rfl <;> rfl
      rw [hending]
      exact Net.heard_payload hz p
  · have unheard := s.station_expiry hz (take := Net.takeListenLost st) (due := s.net.unheard st) rfl (Net.unheard_iff hz) (fun h => h.2.2.1)
    have aged := s.station_expiry hz (take := Net.takeReplyAge st) (due := s.net.replyAgeDue st) rfl (Net.replyAgeDue_iff hz) (fun h => h.2.1)
    exact ⟨⟨_, rfl, unheard⟩, ⟨_, rfl, aged⟩⟩

end Sys2Proof.Machine
end

section
/-! LINE orders (R33 to R37): what an order of the line controllers leaves of its line, and how it is answered. -/

namespace Sys2Proof.Machine

/-! ## A line written -/

theorem Quad.set_set {α : Type} (q : Quad α) (l : Fin 4) (x y : α) : (q.set l x).set l y = q.set l y := by
  fin_cases l <;> rfl

/-- A line as it stands after it is written. -/
theorem Net.line_setLine (l : Fin 4) (f : Line → Line) (n : Net) : (n.setLine l f).line l = f (n.line l) := Quad.get_set_self _ _ _

/-- R41: an update of a line writes the line, and marks it when a reported field has changed. -/
theorem Net.updateLine_eq (l : Fin 4) (f : Line → Line) (n : Net) :
    n.updateLine l f =
      { n with
        lines := n.lines.set l (f (n.line l))
        marks := if (f (n.line l)).reported = (n.line l).reported then n.marks else n.marks.add .ordinary (.line l) } := by
  unfold Net.updateLine Net.markIf
  by_cases h : (f (n.line l)).reported = (n.line l).reported
  · rw [if_pos h, if_neg (by simpa using h)]
    rfl
  · rw [if_neg h, if_pos (by simpa using h)]
    rfl

theorem Net.line_updateLine (l : Fin 4) (f : Line → Line) (n : Net) : (n.updateLine l f).line l = f (n.line l) := by
  rw [Net.updateLine_eq]
  exact Quad.get_set_self _ _ _

/-- A mark taken before, or not, makes no difference to a second one. -/
theorem Marks.add_ordinary_again (m : Marks) (c : Prop) [Decidable c] (r : RecordName) :
    (if c then m else m.add .ordinary r).add .ordinary r = m.add .ordinary r := by
  split
  · rfl
  · rw [Marks.add.eq_def (m.add .ordinary r)]
    exact if_pos (Marks.mem_add_ordinary m r)

/-! ## Stations of a line, each written -/

/-- The records a test picks out, updated one by one, are the records updated where they pass it. -/
theorem foldl_modify_idsWhere {α : Type} (xs : List α) (p : α → Bool) (f : α → α) :
    (idsWhere xs p).foldl (fun ys i => ys.modify i f) xs = xs.map (fun x => if p x = true then f x else x) := by
  have each (is : List Nat) (hs : is.Nodup) (ys : List α) (k : Nat) :
      (is.foldl (fun ys i => ys.modify i f) ys)[k]? = (ys[k]?).map (fun x => if k ∈ is then f x else x) := by
    induction is generalizing ys with
    | nil => simp
    | cons i is ih =>
      obtain ⟨hi, hs⟩ := List.nodup_cons.1 hs
      rw [List.foldl_cons, ih hs, List.getElem?_modify]
      by_cases hk : i = k
      · subst hk
        cases ys[i]? <;> simp [hi]
      · cases ys[k]? <;> simp [hk, Ne.symm hk]
  apply List.ext_getElem?
  intro k
  rw [each _ ((idsWhere_pairwise xs p).imp (fun h => Nat.ne_of_lt h)), List.getElem?_map]
  cases hk : xs[k]? with
  | none => rfl
  | some x => simp [Net.mem_idsWhere, hk]

/-- R39, R49: a HELD or SETTLING line made IDLE. -/
theorem Net.enterIdle_eq (l : Fin 4) (n : Net) (h : (n.line l).state = .held ∨ (n.line l).state = .settling) :
    n.enterIdle l = n.afterIdle l (n.line l) := by
  have moved (is : List Nat) (m : Net) :
      overEach (fun st n => n.setStation st (fun x =>
        { x with replyRef := n.now, lastHeard := if (n.line l).role = .listen then some n.now else x.lastHeard })) is m =
      { m with stations := is.foldl (fun ys i => ys.modify i (fun x =>
        { x with replyRef := m.now, lastHeard := if (m.line l).role = .listen then some m.now else x.lastHeard })) m.stations } := by
    unfold overEach
    induction is generalizing m with
    | nil => rfl
    | cons i is ih => exact ih _
  have hreported : ({ n.line l with state := .idle } : Line).reported ≠ (n.line l).reported := by
    rcases h with h | h <;> simp [Line.reported, Line.reportedState, h]
  unfold Net.enterIdle Net.afterIdle
  rw [Net.updateLine_eq, if_neg hreported]
  dsimp only
  rw [moved]
  unfold Net.lineStations Net.line
  dsimp only
  rw [foldl_modify_idsWhere, Quad.get_set_self]
  simp only [decide_eq_true_eq]

/-! ## A station that changes its status (R45, R50, R51) -/

/-- R51: points and summaries follow a station that goes out of reach or comes back; nothing is handed on. -/
theorem Net.quiet_changePoints (points : List Nat) (old new : Status) (n : Net) : Net.Quiet n (n.changePoints points old new) := by
  have hplace (now : Time) (q : Point) : ((if new.unreachable = true then Point.lose else Point.regain now) q).place = q.place := by
    split
    · exact Point.place_lose q
    · exact Point.place_regain now q
  unfold Net.changePoints
  split
  · exact .rfl
  · exact (overEach_quiet (fun i m => m.quiet_updatePoint (hplace n.now) i) points n).trans
      (overEach_quiet (fun z m => m.quiet_recompute z) _ _)

/-- R51: neither the line nor the plan engine is told of a station that is within reach, or whose status stays. -/
theorem Net.quiet_updateStation (n : Net) (st : Nat) (f : Station → Station)
    (hf : ∀ z, n.stations[st]? = some z → (f z).status.unreachable = false ∨ (f z).status = z.status) :
    Net.Quiet (n.setStation st f) (n.updateStation st f) := by
  unfold Net.updateStation
  split
  · next hz =>
    have hsame : n.setStation st f = n := by
      unfold Net.setStation
      rw [List.modify_eq_self (List.getElem?_eq_none_iff.1 hz)]
    rw [hsame]
    exact .rfl
  · next z hz =>
    dsimp only
    split
    · exact .rfl
    · next hne =>
      have hnew := (hf z hz).resolve_right hne
      unfold Net.statusChanged Net.tellLine Net.stationNotice
      simp only [hnew, Bool.false_and, Bool.false_eq_true, if_false]
      exact (Net.quiet_changePoints z.points z.status (f z).status _).trans (Net.quiet_mark _ _ _)

/-- R50: the stations of a line made UNKNOWN. -/
theorem Net.makeUnknown_spec (l : Fin 4) (n : Net) :
    (n.makeUnknown l).stations = n.stations.map (fun z => if z.line = l then z.makeUnknown else z) ∧ (n.makeUnknown l).lines = n.lines ∧
      (n.makeUnknown l).valves = n.valves ∧ (n.makeUnknown l).plans = n.plans ∧ (n.makeUnknown l).survey = n.survey := by
  have each (is : List Nat) (m : Net) :
      let r := overEach (fun st n => n.updateStation st Station.makeUnknown) is m
      r.stations = is.foldl (fun ys i => ys.modify i Station.makeUnknown) m.stations ∧ r.lines = m.lines ∧ r.valves = m.valves ∧
        r.plans = m.plans ∧ r.survey = m.survey := by
    unfold overEach
    induction is generalizing m with
    | nil => exact ⟨rfl, rfl, rfl, rfl, rfl⟩
    | cons i is ih =>
      have quiet := m.quiet_updateStation i Station.makeUnknown (fun _ _ => Or.inl rfl)
      obtain ⟨hstations, hlines, hvalves, hplans, hsurvey⟩ := ih (m.updateStation i Station.makeUnknown)
      rw [quiet.stations] at hstations
      exact ⟨hstations, hlines.trans quiet.lines, hvalves.trans quiet.valves, hplans.trans quiet.plans, hsurvey.trans quiet.survey⟩
  obtain ⟨hstations, hrest⟩ := each (n.lineStations l) n
  refine ⟨hstations.trans ?_, hrest⟩
  unfold Net.lineStations
  rw [foldl_modify_idsWhere]
  simp only [decide_eq_true_eq]

/-! ## A LINE order taken and answered -/

section
variable {s : State} {i : Nat} {p : Post} {b : LineBody} {n m : Net} {a : Answer} {l : Fin 4}

theorem lineBody_length (x : Line) : (lineBody x).length = 2 := rfl

/-- R158, R33: a ready LINE order: the line controllers' answer, then the choices of the lines. -/
theorem State.serves_line (h : s.ready i p (.line b) = true) (htake : s.net.takeLine b = (n, a)) (hlen : a.body.length ≤ 240) :
    ∃ t, (s.takeOrder p (.line b)).concluded = .next t ∧ s.Serves t i p (.line b) a n.arbitrateAll := by
  have hrun : (s.begun i p (.line b)).runOrder i (.line b) = ({ s.begun i p (.line b) with net := n.arbitrateAll }, .answered a) := by
    change onNetAnswerLines (Net.takeLine b) (s.begun i p (.line b)) = _
    unfold onNetAnswerLines
    rw [show (s.begun i p (.line b)).net = s.net from rfl, htake]
  obtain ⟨t, ht, took, hnet, htod, hunset⟩ := s.takeOrder_answered i p (.line b) a h nofun (by rw [hrun]) hlen
  rw [hrun] at hnet htod hunset
  exact ⟨t, ht, took, hnet, htod, hunset⟩

/-- R33: an order whose form is good, for a line of the part. -/
theorem Net.takeLine_operation {op : Net → Net × AnswerCode} (hl : b.line.toNat = l.val) (hop : lineOperation b l = some op) (n : Net) :
    n.takeLine b = ((op n).1, .withBody (op n).2 (lineBody ((op n).1.line l))) := by
  have hlt : b.line.toNat < 4 := hl ▸ l.isLt
  have hfin : (⟨b.line.toNat, hlt⟩ : Fin 4) = l := Fin.ext hl
  unfold Net.takeLine
  rw [dif_pos hlt, hfin, hop]
  rfl

/-- R33: an order whose form is bad, for a line of the part. -/
theorem Net.takeLine_badForm (hl : b.line.toNat = l.val) (hop : lineOperation b l = none) (n : Net) :
    n.takeLine b = (n, .withBody .badForm (lineBody (n.line l))) := by
  have hlt : b.line.toNat < 4 := hl ▸ l.isLt
  have hfin : (⟨b.line.toNat, hlt⟩ : Fin 4) = l := Fin.ext hl
  unfold Net.takeLine
  rw [dif_pos hlt, hfin, hop]
  rfl

/-- R33: an order for a line the part has not. -/
theorem Net.takeLine_above (hl : 4 ≤ b.line.toNat) (n : Net) :
    n.takeLine b = (n, .plain (if (lineOperation b 0).isSome = true then .noSuch else .badForm)) := by
  unfold Net.takeLine
  rw [dif_neg (Nat.not_lt.2 hl)]
  split <;> rfl

/-- R33: an order of good form is answered with role and line state after it. -/
theorem State.serves_operation (h : s.ready i p (.line b) = true) (hl : b.line.toNat = l.val) {op : Net → Net × AnswerCode}
    (hop : lineOperation b l = some op) {c : AnswerCode} (htake : op s.net = (m, c)) :
    ∃ t, (s.takeOrder p (.line b)).concluded = .next t ∧ s.Serves t i p (.line b) (.withBody c (lineBody (m.line l))) m.arbitrateAll := by
  refine State.serves_line h ?_ (by rw [Answer.withBody, lineBody_length]; decide)
  rw [Net.takeLine_operation hl hop, htake]

theorem State.serves_badForm (h : s.ready i p (.line b) = true) (hl : b.line.toNat = l.val) (hop : lineOperation b l = none) :
    ∃ t, (s.takeOrder p (.line b)).concluded = .next t ∧
      s.Serves t i p (.line b) (.withBody .badForm (lineBody (s.net.line l))) s.net.arbitrateAll :=
  State.serves_line h (Net.takeLine_badForm hl hop _) (by rw [Answer.withBody, lineBody_length]; decide)

theorem State.serves_above (h : s.ready i p (.line b) = true) (hl : 4 ≤ b.line.toNat) :
    ∃ t, (s.takeOrder p (.line b)).concluded = .next t ∧
      s.Serves t i p (.line b) (.plain (if (lineOperation b 0).isSome = true then .noSuch else .badForm)) s.net.arbitrateAll :=
  State.serves_line h (Net.takeLine_above hl _) (Nat.zero_le _)

end

/-! ## HOLD and RELEASE (R34, R37) -/

/-- R34: a HOLD sets the order hold flag. -/
theorem Line.afterHold_eq (x : Line) : ({ x.hold with orderHold := true } : Line) = x.afterHold := by
  cases hs : x.state <;> simp [Line.hold, Line.afterHold, hs]

/-- R34, R41: only a line held already, its flag set, shows no change. -/
theorem Line.reported_afterHold_iff (x : Line) :
    x.afterHold.reported = x.reported ↔ x.orderHold = true ∧ (x.state = .held ∨ x.state = .holding) := by
  cases hs : x.state <;> simp [Line.reported, Line.reportedState, Line.afterHold, hs]

theorem Net.lineHold_eq (l : Fin 4) (n : Net) : n.lineHold l = (n.afterHold l, .done) := by
  unfold Net.lineHold Net.afterHold
  rw [Net.updateLine_eq]
  simp only [Line.afterHold_eq, Line.reported_afterHold_iff]

theorem Net.lineRelease_notHeld {l : Fin 4} {n : Net} (h : (n.line l).state ≠ .held) : n.lineRelease l = (n, .badState) := if_neg h

/-- R37: a HELD line as it was, its order hold flag down, goes to IDLE. -/
theorem Net.lineRelease_idle {l : Fin 4} {n : Net} (h : (n.line l).state = .held) (hr : (n.line l).reconfigured = false) :
    n.lineRelease l = (n.afterIdle l { n.line l with orderHold := false }, .done) := by
  have hline := n.line_updateLine l (fun x => { x with orderHold := false })
  have hrelease : (n.updateLine l (fun x => { x with orderHold := false })).releaseLine l =
      (n.updateLine l (fun x => { x with orderHold := false })).afterIdle l { n.line l with orderHold := false } := by
    unfold Net.releaseLine
    rw [hline, if_neg (by simp [hr]), Net.enterIdle_eq l _ (by rw [hline]; exact Or.inl h), hline]
  unfold Net.lineRelease
  rw [if_pos h, hrelease, Net.updateLine_eq]
  unfold Net.afterIdle
  dsimp only
  rw [Quad.set_set, Marks.add_ordinary_again]

/-- R37, R50: a reconfigured HELD line settles, its stations UNKNOWN. -/
theorem Net.lineRelease_settling {l : Fin 4} {n : Net} (h : (n.line l).state = .held) (hr : (n.line l).reconfigured = true) :
    let y := { n.line l with
      orderHold := false, state := .settling, reconfigured := false, continuation := none, roundRobin := none, since := n.now }
    ∃ m : Net, n.lineRelease l = (m, .done) ∧ m.line l = y ∧ m.lines = n.lines.set l y ∧
      m.stations = n.stations.map (fun z =>
        if z.line = l then { z with status := .unknown, resume := .unknown, silent := 0, busy := 0, backoff := 0 } else z) ∧
      m.valves = n.valves ∧ m.plans = n.plans ∧ m.survey = n.survey := by
  intro y
  have hline := n.line_updateLine l (fun x => { x with orderHold := false })
  have hrelease : n.lineRelease l = (((n.updateLine l (fun x => { x with orderHold := false })).updateLine l (fun x =>
      { x with state := .settling, reconfigured := false, continuation := none, roundRobin := none
               since := (n.updateLine l (fun x => { x with orderHold := false })).now })).makeUnknown l, .done) := by
    unfold Net.lineRelease Net.releaseLine
    rw [if_pos h, hline, if_pos hr]
  obtain ⟨ms, hsettling⟩ : ∃ ms, (n.updateLine l (fun x => { x with orderHold := false })).updateLine l (fun x =>
      { x with state := .settling, reconfigured := false, continuation := none, roundRobin := none
               since := (n.updateLine l (fun x => { x with orderHold := false })).now }) =
      { n with lines := n.lines.set l y, marks := ms } := by
    rw [Net.updateLine_eq, hline, Net.updateLine_eq]
    dsimp only
    rw [Quad.set_set]
    exact ⟨_, rfl⟩
  rw [hrelease, hsettling]
  obtain ⟨hstations, hlines, hrest⟩ := Net.makeUnknown_spec l { n with lines := n.lines.set l y, marks := ms }
  refine ⟨_, rfl, ?_, hlines, hstations, hrest⟩
  unfold Net.line
  rw [hlines]
  exact Quad.get_set_self _ _ _

/-- Settles O41: each order by the line it names and the state the line is in. -/
theorem holdAndReleaseALine : Obligations.HoldAndReleaseALine := by
  unfold Obligations.HoldAndReleaseALine
  intro s i p line o w ho hw hready hready'
  cases ho
  cases hw
  refine ⟨fun hl => ⟨State.serves_above hready hl, State.serves_above hready' hl⟩, fun l hl => ?_⟩
  intro x
  refine ⟨?_, fun hx => ?_, fun hx hr => ?_, fun hx hr => ?_⟩
  · have served := State.serves_operation hready hl rfl (s.net.lineHold_eq l)
    have hline : (s.net.afterHold l).line l = x.afterHold := Quad.get_set_self _ _ _
    rwa [hline] at served
  · exact State.serves_operation hready' hl rfl (Net.lineRelease_notHeld hx)
  · have served := State.serves_operation hready' hl rfl (Net.lineRelease_idle hx hr)
    have hline : (s.net.afterIdle l { x with orderHold := false }).line l = { x with orderHold := false, state := .idle } :=
      Quad.get_set_self _ _ _
    rwa [hline] at served
  · obtain ⟨m, hrelease, hline, hrest⟩ := Net.lineRelease_settling hx hr
    obtain ⟨t, ht, served⟩ := State.serves_operation hready' hl rfl hrelease
    rw [hline] at served
    exact ⟨t, m, ht, served, hrest⟩

/-! ## CONFIGURE (R35) -/

/-- spec/11: the six speeds. -/
theorem Speed.ofCode_isSome_iff (k : Nat) : (Speed.ofCode k).isSome = true ↔ k < 6 := by
  rcases k with _ | _ | _ | _ | _ | _ | k
  case succ.succ.succ.succ.succ.succ => exact ⟨nofun, fun h => absurd h (by omega)⟩
  all_goals exact ⟨fun _ => by decide, fun _ => rfl⟩

/-- The order a CONFIGURE posts. -/
def configureBody (line speed window gap : Byte) : LineBody :=
  { line := line, op := 3, speed := speed, window := window, gap := gap, role := 0 }

section
variable {line speed window gap : Byte}

theorem configureParams_eq_some {sp : Speed} (hs : Speed.ofCode speed.toNat = some sp) (hw : 2 ≤ window.toNat) (hg : 2 ≤ gap.toNat)
    (hg' : gap.toNat ≤ 250) :
    configureParams (configureBody line speed window gap) = some { speed := sp, window := window.toNat, gap := gap.toNat } := by
  unfold configureParams
  rw [show (configureBody line speed window gap).speed = speed from rfl, hs]
  exact if_pos ⟨hw, hg, hg'⟩

/-- R18, R33: the values in range, as a CONFIGURE carries them. -/
theorem configureParams_isSome_iff : (configureParams (configureBody line speed window gap)).isSome = true ↔
    speed.toNat < 6 ∧ 2 ≤ window.toNat ∧ 2 ≤ gap.toNat ∧ gap.toNat ≤ 250 := by
  rw [← Speed.ofCode_isSome_iff]
  unfold configureParams
  rw [show (configureBody line speed window gap).speed = speed from rfl]
  cases Speed.ofCode speed.toNat with
  | none => simp
  | some sp =>
    dsimp only
    split
    · next h => exact ⟨fun _ => ⟨rfl, h⟩, fun _ => rfl⟩
    · next h => exact ⟨nofun, fun k => absurd k.2 h⟩

theorem lineOperation_configure (l : Fin 4) :
    lineOperation (configureBody line speed window gap) l =
      (configureParams (configureBody line speed window gap)).map (fun p => Net.lineConfigure l p) := rfl

theorem lineOperation_configure_isSome_iff (l : Fin 4) : (lineOperation (configureBody line speed window gap) l).isSome = true ↔
    speed.toNat < 6 ∧ 2 ≤ window.toNat ∧ 2 ≤ gap.toNat ∧ gap.toNat ≤ 250 := by
  rw [lineOperation_configure, Option.isSome_map, configureParams_isSome_iff]

end

/-- R35, R41: a HELD line takes the values and is reconfigured. -/
theorem Net.lineConfigure_held {l : Fin 4} {n : Net} (h : (n.line l).state = .held) (p : LineParams) :
    n.lineConfigure l p =
      ({ n with
         lines := n.lines.set l { n.line l with params := p, reconfigured := true }
         marks := if p = (n.line l).params then n.marks else n.marks.add .ordinary (.line l) }, .done) := by
  have hreported : ({ n.line l with params := p, reconfigured := true } : Line).reported = (n.line l).reported ↔ p = (n.line l).params := by
    simp [Line.reported, Line.reportedState]
  unfold Net.lineConfigure
  rw [if_pos h, Net.updateLine_eq]
  simp only [hreported]

/-- Settles O42: an order refused for its form or its line, and one of good form by the state of the line. -/
theorem configureNeedsAHeldLine : Obligations.ConfigureNeedsAHeldLine := by
  unfold Obligations.ConfigureNeedsAHeldLine
  refine ⟨fun s i p line speed window gap o ho hready => ?_, fun s i p line speed window gap o l sp ho hready hl hs hw hg hg' => ?_⟩
  · cases ho
    have form (l : Fin 4) := lineOperation_configure_isSome_iff (line := line) (speed := speed) (window := window) (gap := gap) l
    intro good refused
    have above (hl : 4 ≤ line.toNat) :
        refused [if (lineOperation (configureBody line speed window gap) 0).isSome = true then .noSuch else .badForm] := by
      obtain ⟨t, ht, served⟩ := State.serves_above hready hl
      exact ⟨t, _, ht, List.mem_singleton_self _, served⟩
    refine ⟨fun hbad hl => ?_, fun hgood hl => ?_, fun hbad hl => ?_⟩
    · have hnone : lineOperation (configureBody line speed window gap) ⟨line.toNat, by omega⟩ = none :=
        Option.not_isSome_iff_eq_none.1 (fun h => hbad ((form _).1 h))
      obtain ⟨t, ht, served⟩ := State.serves_badForm (l := ⟨line.toNat, by omega⟩) hready rfl hnone
      exact ⟨t, _, ht, List.mem_singleton_self _, served⟩
    · have served := above hl
      rwa [if_pos ((form 0).2 hgood)] at served
    · have served := above hl
      rw [if_neg (fun h => hbad ((form 0).1 h))] at served
      obtain ⟨t, a, ht, hcode, served⟩ := served
      exact ⟨t, a, ht, List.mem_cons.2 (Or.inl (List.mem_singleton.1 hcode)), served⟩
  · cases ho
    have hop : lineOperation (configureBody line speed window gap) l =
        some (Net.lineConfigure l { speed := sp, window := window.toNat, gap := gap.toNat }) := by
      rw [lineOperation_configure, configureParams_eq_some hs hw hg hg', Option.map_some]
    intro x y
    refine ⟨fun hx => ?_, fun hx => ?_⟩
    · obtain ⟨t, ht, served⟩ := State.serves_operation hready hl hop (Net.lineConfigure_held hx _)
      rw [show Net.line { s.net with lines := s.net.lines.set l y, marks := _ } l = y from Quad.get_set_self _ _ _] at served
      exact ⟨t, ht, served⟩
    · exact State.serves_operation hready hl hop (if_neg hx)

end Sys2Proof.Machine
end

section
/-! The arbiter of a MASTER line (R20 to R22, R45) and the timers that let it choose (R20, R25, R37). -/

namespace Sys2Proof.Machine

/-! ## What a line may send (R21) -/

/-- The oldest listed command that passes a condition is the one a search finds. -/
theorem find?_of_oldest {cs : List Listed} {p : Listed → Prop} {c : Listed} {q : Listed → Bool} (hq : ∀ d, q d = true ↔ p d)
    (h : Oldest cs p c) : cs.find? q = some c := by
  obtain ⟨hc, before, after, hcs, hbefore⟩ := h
  refine List.find?_eq_some_iff_append.2 ⟨(hq c).2 hc, before, after, hcs, fun d hd => ?_⟩
  simpa using fun h => hbefore d hd ((hq d).1 h)

section
variable {n : Net} {l : Fin 4}

theorem Net.nextStop_of_oldest {c : Listed} (h : Oldest (n.line l).commands n.stopMay c) : n.nextStop l = some c.station := by
  unfold Net.nextStop
  rw [find?_of_oldest (q := fun c => decide (c.command = .stop ∧ n.statusOf c.station ≠ .backoff)) (fun d => decide_eq_true_iff) h]
  rfl

theorem Net.nextStop_of_none (h : ∀ c ∈ (n.line l).commands, ¬ n.stopMay c) : n.nextStop l = none := by
  unfold Net.nextStop
  rw [Option.map_eq_none_iff, List.find?_eq_none]
  intro c hc
  simpa [Net.stopMay] using h c hc

/-- R21, candidate 3: what a listed command gives. -/
def Net.stepChoice (n : Net) (c : Listed) : Option (Nat × PollFunction) :=
  match c.command with
  | .step tag target => if n.stepReady c.station then some (c.station, .step tag target) else none
  | .stop => none

theorem Net.nextStep_eq (n : Net) (l : Fin 4) : n.nextStep l = (n.line l).commands.findSome? n.stepChoice := rfl

theorem Net.stepReady_iff (n : Net) (st : Nat) : n.stepReady st = true ↔
    n.statusOf st = .online ∧ ∀ v x, n.stationValve st = some v → n.valves[v]? = some x → x.selector ≠ some .atSite := by
  unfold Net.stepReady
  simp only [Bool.and_eq_true, decide_eq_true_eq, Option.all_eq_true]
  exact and_congr_right fun _ => ⟨fun h v x hv hx => h v hv x hx, fun h v hv x hx => h v x hv hx⟩

theorem Net.stepChoice_eq_none_iff (n : Net) (c : Listed) : n.stepChoice c = none ↔ ¬ n.stepMay c := by
  have ready := n.stepReady_iff c.station
  unfold Net.stepChoice Net.stepMay
  cases c.command with
  | stop => simp
  | step tag target =>
    rw [← ready]
    simp

theorem Net.nextStep_of_oldest {st : Nat} {tag : Byte} {target : Nat}
    (h : Oldest (n.line l).commands n.stepMay { station := st, command := .step tag target }) :
    n.nextStep l = some (st, .step tag target) := by
  obtain ⟨⟨-, hready⟩, before, after, hcs, hbefore⟩ := h
  rw [Net.nextStep_eq, List.findSome?_eq_some_iff]
  exact ⟨before, _, after, hcs, if_pos ((n.stepReady_iff st).2 hready), fun d hd => (n.stepChoice_eq_none_iff d).2 (hbefore d hd)⟩

theorem Net.nextStep_of_none (h : ∀ c ∈ (n.line l).commands, ¬ n.stepMay c) : n.nextStep l = none := by
  rw [Net.nextStep_eq, List.findSome?_eq_none_iff]
  exact fun c hc => (n.stepChoice_eq_none_iff c).2 (h c hc)

/-- R20: what the rotation asks of a station. -/
def Net.readTest (n : Net) (l : Fin 4) (st : Nat) : Bool :=
  (n.stations[st]?).any (fun z => z.line = l) &&
    ((n.line l).roundRobin.all (fun r => decide (r < st)) && (n.stations[st]?).any (Station.due (n.line l).pollCycle))

theorem Net.nextRead_eq (n : Net) (l : Fin 4) : n.nextRead l = (List.range n.stations.length).find? (n.readTest l) := by
  unfold Net.nextRead Net.lineStations idsWhere
  rw [List.find?_filter]
  exact congrArg (List.find? · _) (funext fun st => by simp [Net.readTest])

theorem Net.readTest_iff (n : Net) (l : Fin 4) (st : Nat) : n.readTest l st = true ↔ ∃ z, n.readMay l st z := by
  have slow : Config.slowEvery = 8 := rfl
  unfold Net.readTest Net.readMay Station.due
  cases n.stations[st]? with
  | none => simp
  | some z =>
    simp only [Option.any_some, Bool.and_eq_true, Bool.or_eq_true, decide_eq_true_eq, Option.all_eq_true, Option.some.injEq,
      exists_eq_left', slow]
    tauto

theorem Net.readMay_lt {st : Nat} {z : Station} (h : n.readMay l st z) : st < n.stations.length := (List.getElem?_eq_some_iff.1 h.1).1

theorem Net.nextRead_of_first {st : Nat} {z : Station} (h : n.readMay l st z) (hfirst : ∀ j y, n.readMay l j y → st ≤ j) :
    n.nextRead l = some st := by
  rw [Net.nextRead_eq, List.find?_range_eq_some]
  refine ⟨(n.readTest_iff l st).2 ⟨z, h⟩, List.mem_range.2 (Net.readMay_lt h), fun j hj => ?_⟩
  rw [Bool.not_eq_true', ← Bool.not_eq_true, n.readTest_iff]
  rintro ⟨y, hy⟩
  exact absurd (hfirst j y hy) (Nat.not_le.2 hj)

theorem Net.nextRead_of_none (h : ∀ st z, ¬ n.readMay l st z) : n.nextRead l = none := by
  rw [Net.nextRead_eq, List.find?_eq_none]
  rintro st - hst
  obtain ⟨z, hz⟩ := (n.readTest_iff l st).1 hst
  exact h st z hz

theorem Net.lineStations_eq_nil_iff (n : Net) (l : Fin 4) : n.lineStations l = [] ↔ ∀ z ∈ n.stations, z.line ≠ l := by
  unfold Net.lineStations
  rw [List.eq_nil_iff_forall_not_mem]
  simp only [Net.mem_idsWhere, decide_eq_true_eq, not_exists, not_and]
  constructor
  · intro h z hz
    obtain ⟨k, hk⟩ := List.mem_iff_getElem?.1 hz
    exact h k z hk
  · exact fun h k z hk => h z (List.mem_of_getElem? hk)

/-! ## One choice (R21, R22) -/

theorem Net.sendPoll_eq {st : Nat} {z : Station} (hz : n.stations[st]? = some z) (f : PollFunction) :
    n.sendPoll l st f = n.afterChoice l st z f := by
  unfold Net.sendPoll
  rw [hz]
  rfl

theorem Net.choose_candidate {st : Nat} {f : PollFunction} (h : n.commandCandidate l = some (st, f)) (k : Nat) :
    n.choose l (k + 1) = n.sendPoll l st f := by
  rw [Net.choose.eq_def]
  dsimp only
  rw [h]

/-- R20, R21: without a command to send, an idle wait or a line without stations chooses nothing. -/
theorem Net.choose_waiting (h : n.commandCandidate l = none) (hwait : (n.line l).idleWait.isSome = true ∨ n.lineStations l = []) (k : Nat) :
    n.choose l (k + 1) = n := by
  rw [Net.choose.eq_def]
  dsimp only
  rw [h]
  exact if_pos hwait

section
variable (h : n.commandCandidate l = none) (hwait : ¬ ((n.line l).idleWait.isSome = true ∨ n.lineStations l = []))
include h hwait

theorem Net.choose_read {st : Nat} (hread : n.nextRead l = some st) (k : Nat) : n.choose l (k + 1) = n.sendPoll l st .read := by
  rw [Net.choose.eq_def]
  dsimp only
  rw [h]
  dsimp only
  rw [if_neg hwait, hread]

theorem Net.choose_close (hread : n.nextRead l = none) (k : Nat) : n.choose l (k + 1) = (n.closeCycle l).choose l k := by
  rw [Net.choose.eq_def]
  dsimp only
  rw [h]
  dsimp only
  rw [if_neg hwait, hread]

end

/-- R20: a line in an idle wait chooses once. -/
theorem Net.choose_idleWait (hwait : (n.line l).idleWait.isSome = true) (j k : Nat) : n.choose l (j + 1) = n.choose l (k + 1) := by
  cases h : n.commandCandidate l with
  | none => rw [Net.choose_waiting h (Or.inl hwait), Net.choose_waiting h (Or.inl hwait)]
  | some q => rw [Net.choose_candidate h, Net.choose_candidate h]

/-! ## A cycle closes (R20, R45) -/

theorem Station.countBackoff_eq (z : Station) : z.countBackoff = z.afterClose := by
  unfold Station.countBackoff Station.afterClose
  by_cases h : z.status = .backoff
  · simp [h]
  · simp [h]

theorem Net.resume_of_ok (h : n.resumesOk = true) {st : Nat} {z : Station} (hz : n.stations[st]? = some z) :
    z.resume = .unknown ∨ z.resume = .online := by
  unfold Net.resumesOk at h
  rw [List.all_eq_true] at h
  simpa using h z (List.mem_of_getElem? hz)

/-- R45: a BACKOFF that ends, ends within reach: only the station's mark is handed on. -/
theorem Net.updateStation_afterClose (h : n.resumesOk = true) (st : Nat) : ∃ ms,
    n.updateStation st Station.countBackoff = { n with stations := n.stations.modify st Station.afterClose, marks := ms } ∧
      Marks.Grows n.marks ms ∧ ∀ z, n.stations[st]? = some z → z.afterClose.status ≠ z.status →
        RecordName.station st ∈ ms.urgent ∨ RecordName.station st ∈ ms.ordinary := by
  rw [show Station.countBackoff = Station.afterClose from funext Station.countBackoff_eq]
  unfold Net.updateStation
  cases hz : n.stations[st]? with
  | none => exact ⟨n.marks, by rw [List.modify_eq_self (List.getElem?_eq_none_iff.1 hz)], .rfl, nofun⟩
  | some z =>
    dsimp only
    by_cases hs : z.afterClose.status = z.status
    · rw [if_pos hs]
      refine ⟨n.marks, rfl, .rfl, fun y hy hne => ?_⟩
      cases hy
      exact absurd hs hne
    · have hback : z.status = .backoff := by
        by_contra hb
        exact hs (by rw [Station.afterClose, if_pos hb])
      have hnew : z.afterClose.status.unreachable = false := by
        have hresume := Net.resume_of_ok h hz
        unfold Station.afterClose at hs ⊢
        rw [if_neg (not_not.2 hback)] at hs ⊢
        split at hs
        · next hb =>
          rw [if_pos hb]
          rcases hresume with hr | hr <;> simp [hr, Status.unreachable]
        · exact absurd rfl hs
      have hold : z.status.unreachable = false := by rw [hback]; rfl
      rw [if_neg hs]
      refine ⟨n.marks.add .ordinary (.station st), ?_, Marks.grows_add _ _ _, fun _ _ _ => Marks.mem_add_ordinary _ _⟩
      unfold Net.statusChanged Net.tellLine Net.stationNotice Net.changePoints
      simp only [hnew, hold, Bool.false_and, Bool.false_eq_true, if_false, if_true]
      rfl

/-- R45: the stations of a line at the close of its cycle. -/
theorem Net.countBackoffs_spec (h : n.resumesOk = true) (l : Fin 4) : ∃ ms,
    n.countBackoffs l = { n with stations := n.stations.map (fun z => if z.line = l then z.afterClose else z), marks := ms } ∧
      ∀ i z, n.stations[i]? = some z → z.line = l → z.afterClose.status ≠ z.status →
        RecordName.station i ∈ ms.urgent ∨ RecordName.station i ∈ ms.ordinary := by
  have each (is : List Nat) (hs : is.Nodup) (m : Net) (hm : m.resumesOk = true) : ∃ ms,
      overEach (fun st n => n.updateStation st Station.countBackoff) is m =
        { m with stations := is.foldl (fun ys i => ys.modify i Station.afterClose) m.stations, marks := ms } ∧
      Marks.Grows m.marks ms ∧ ∀ i ∈ is, ∀ z, m.stations[i]? = some z → z.afterClose.status ≠ z.status →
        RecordName.station i ∈ ms.urgent ∨ RecordName.station i ∈ ms.ordinary := by
    unfold overEach
    induction is generalizing m with
    | nil => exact ⟨m.marks, rfl, .rfl, nofun⟩
    | cons i is ih =>
      obtain ⟨hi, hs⟩ := List.nodup_cons.1 hs
      obtain ⟨ms, hupdate, hgrows, hmarked⟩ := Net.updateStation_afterClose hm i
      have hok : (m.updateStation i Station.countBackoff).resumesOk = true :=
        (Net.updateStation_frame (wz := true) Station.resume_countBackoff .rfl).resumes hm
      obtain ⟨ms', hshape, hgrows', hmarked'⟩ := ih hs _ hok
      rw [hupdate] at hshape hgrows' hmarked'
      rw [List.foldl_cons]
      dsimp only
      rw [hupdate]
      refine ⟨ms', hshape, hgrows.trans hgrows', fun k hk z hz hne => ?_⟩
      rcases List.mem_cons.1 hk with rfl | hk
      · exact hgrows'.marked _ (hmarked z hz hne)
      · refine hmarked' k hk z ?_ hne
        rw [List.getElem?_modify, hz]
        simp [show i ≠ k from fun e => hi (e ▸ hk)]
  obtain ⟨ms, hshape, -, hmarked⟩ := each (n.lineStations l) ((idsWhere_pairwise _ _).imp (fun h => Nat.ne_of_lt h)) n h
  refine ⟨ms, ?_, fun i z hz hl hne => hmarked i ?_ z hz hne⟩
  · unfold Net.countBackoffs
    rw [hshape]
    unfold Net.lineStations
    rw [foldl_modify_idsWhere]
    simp only [decide_eq_true_eq]
  · unfold Net.lineStations
    rw [Net.mem_idsWhere]
    exact ⟨z, hz, by simpa using hl⟩

/-- R20, R45: a cycle that closes: the line, its stations, and their marks; nothing else. -/
theorem Net.closeCycle_spec (h : n.resumesOk = true) (l : Fin 4) : ∃ ms,
    n.closeCycle l =
      { n with
        lines := n.lines.set l ((n.line l).afterClose n.now)
        stations := n.stations.map (fun z => if z.line = l then z.afterClose else z)
        marks := ms } ∧
      ∀ i z, n.stations[i]? = some z → z.line = l → z.afterClose.status ≠ z.status →
        RecordName.station i ∈ ms.urgent ∨ RecordName.station i ∈ ms.ordinary :=
  Net.countBackoffs_spec (n := n.setLine l (Line.afterClose n.now)) h l

theorem Net.line_closeCycle (h : n.resumesOk = true) (l : Fin 4) : (n.closeCycle l).line l = (n.line l).afterClose n.now := by
  obtain ⟨ms, hclose, -⟩ := Net.closeCycle_spec h l
  rw [hclose]
  exact Quad.get_set_self _ _ _

/-- R20: of two cycles closed in one choice the second has sent no READ, so its idle wait ends the choice. -/
theorem Net.choose_unread (h : n.resumesOk = true) (hunread : (n.line l).readThisCycle = false) : n.choose l 2 = n.choose l 3 := by
  cases hc : n.commandCandidate l with
  | some q => rw [Net.choose_candidate hc, Net.choose_candidate hc]
  | none =>
    by_cases hwait : (n.line l).idleWait.isSome = true ∨ n.lineStations l = []
    · rw [Net.choose_waiting hc hwait, Net.choose_waiting hc hwait]
    · cases hr : n.nextRead l with
      | some st => rw [Net.choose_read hc hwait hr, Net.choose_read hc hwait hr]
      | none =>
        rw [Net.choose_close hc hwait hr, Net.choose_close hc hwait hr]
        refine Net.choose_idleWait ?_ 0 1
        rw [Net.line_closeCycle h]
        simp [Line.afterClose, hunread]

theorem Net.arbitrate_ready (hrole : (n.line l).role = .master) (hstate : (n.line l).state = .idle) (hex : (n.line l).exchange = none) :
    n.arbitrate l = n.choose l 3 := if_pos ⟨hrole, hstate, hex⟩

/-- R20, R21, R45: a line that finds no station due closes its cycle and chooses again. -/
theorem Net.arbitrate_close (hrole : (n.line l).role = .master) (hstate : (n.line l).state = .idle) (hex : (n.line l).exchange = none)
    (hc : n.commandCandidate l = none) (hwait : ¬ ((n.line l).idleWait.isSome = true ∨ n.lineStations l = [])) (hr : n.nextRead l = none)
    (h : n.resumesOk = true) : n.arbitrate l = (n.closeCycle l).arbitrate l := by
  have hline := Net.line_closeCycle h l
  have hok : (n.closeCycle l).resumesOk = true := (Net.closeCycle_frame (wz := true) .rfl).resumes h
  rw [Net.arbitrate_ready hrole hstate hex, Net.choose_close hc hwait hr,
    Net.arbitrate_ready (by rw [hline]; exact hrole) (by rw [hline]; exact hstate) (by rw [hline]; exact hex)]
  exact Net.choose_unread hok (by rw [hline]; rfl)

end

/-- Settles O44: one candidate after the other, each where those before it give nothing. -/
theorem lineChoosesByPriority : Obligations.LineChoosesByPriority := by
  unfold Obligations.LineChoosesByPriority
  intro n l x
  refine ⟨fun h => if_neg h, fun hrole hstate hex => ⟨fun c z hc hz => ?_, fun hnostop => ⟨fun st z hcont hz => ?_, fun hcont => ?_⟩⟩⟩
  · have hcandidate : n.commandCandidate l = some (c.station, .stop) := by
      unfold Net.commandCandidate
      rw [Net.nextStop_of_oldest hc]
    rw [Net.arbitrate_ready hrole hstate hex, Net.choose_candidate hcandidate, Net.sendPoll_eq hz]
  · have hcandidate : n.commandCandidate l = some (st, .continue_) := by
      unfold Net.commandCandidate
      rw [Net.nextStop_of_none hnostop, show (n.line l).continuation = some st from hcont]
    rw [Net.arbitrate_ready hrole hstate hex, Net.choose_candidate hcandidate, Net.sendPoll_eq hz]
  · have hcandidate : n.commandCandidate l = n.nextStep l := by
      unfold Net.commandCandidate
      rw [Net.nextStop_of_none hnostop, show (n.line l).continuation = none from hcont]
    refine ⟨fun st z tag target hc hz => ?_, fun hnostep => ?_⟩
    · rw [Net.arbitrate_ready hrole hstate hex, Net.choose_candidate (hcandidate.trans (Net.nextStep_of_oldest hc)), Net.sendPoll_eq hz]
    · have hnone := hcandidate.trans (Net.nextStep_of_none hnostep)
      have hwait_iff : ((n.line l).idleWait.isSome = true ∨ n.lineStations l = []) ↔
          (x.idleWait ≠ none ∨ ∀ z ∈ n.stations, z.line ≠ l) := by
        rw [Net.lineStations_eq_nil_iff, Option.isSome_iff_ne_none]
      refine ⟨fun hwait => ?_, fun st z hidle hz hfirst => ?_, fun hidle hsome hnodue hok => ?_⟩
      · rw [Net.arbitrate_ready hrole hstate hex, Net.choose_waiting hnone (hwait_iff.2 hwait)]
      · have hwait : ¬ (x.idleWait ≠ none ∨ ∀ z ∈ n.stations, z.line ≠ l) :=
          fun h => h.elim (fun h => h hidle) (fun h => h z (List.mem_of_getElem? hz.1) hz.2.1)
        rw [Net.arbitrate_ready hrole hstate hex, Net.choose_read hnone (mt hwait_iff.1 hwait) (Net.nextRead_of_first hz hfirst),
          Net.sendPoll_eq hz.1]
      · obtain ⟨y, hy, hyl⟩ := hsome
        have hwait : ¬ (x.idleWait ≠ none ∨ ∀ z ∈ n.stations, z.line ≠ l) :=
          fun h => h.elim (fun h => h hidle) (fun h => h y hy hyl)
        obtain ⟨ms, hclose, hmarked⟩ := Net.closeCycle_spec hok l
        refine ⟨n.closeCycle l, Net.arbitrate_close hrole hstate hex hnone (mt hwait_iff.1 hwait) (Net.nextRead_of_none hnodue) hok, ?_⟩
        rw [hclose]
        exact ⟨rfl, rfl, rfl, hmarked⟩

/-! ## The timers of a line (R20, R25, R37) -/

/-- R172: an event that changes nothing. -/
theorem State.onlyNet_self (s : State) : s.OnlyNet s.judgeStarved s.net := s.onlyNet_onNet id

/-- An event of the net that is due is taken; another changes nothing (log 4). -/
theorem State.onlyNet_due (s : State) (due : Bool) (f : Net → Net) :
    let t := (if due = true then s.onNet f else s).judgeStarved
    (due = true → s.OnlyNet t (f s.net)) ∧ (due = false → s.OnlyNet t s.net) := by
  cases due
  · exact ⟨nofun, fun _ => s.onlyNet_self⟩
  · exact ⟨fun _ => s.onlyNet_onNet f, nofun⟩

/-- spec/02: 20 characters of ten bits (log 11). -/
theorem Speed.settling_eq (sp : Speed) : sp.settling = 20 * 10 * 1000 / sp.rate := rfl

/-- Settles O45: each timer by whether its time is over. -/
theorem lineTimersLetTheLineChoose : Obligations.LineTimersLetTheLineChoose := by
  unfold Obligations.LineTimersLetTheLineChoose
  intro s l x
  obtain ⟨gap, noGap⟩ := s.onlyNet_due (x.gapOver s.net.now) (fun n => (n.setLine l (fun x => { x with state := .idle })).arbitrate l)
  obtain ⟨wait, noWait⟩ := s.onlyNet_due (x.idleWaitOver s.net.now) (fun n => (n.setLine l (fun x => { x with idleWait := none })).arbitrate l)
  obtain ⟨settled, unsettled⟩ := s.onlyNet_due (x.settled s.net.now) (fun n => (n.enterIdle l).arbitrate l)
  refine ⟨⟨_, rfl, fun hs ht => gap ?_, fun h => noGap ?_⟩, ⟨_, rfl, fun w hw ht => wait ?_, fun h => noWait ?_⟩,
    ⟨_, rfl, fun hs ht => ?_, fun h => unsettled ?_⟩⟩
  · simp [Line.gapOver, hs, ht]
  · rw [← Bool.not_eq_true, Line.gapOver, Bool.and_eq_true, decide_eq_true_eq, decide_eq_true_eq]
    exact fun ⟨hs, ht⟩ => h.elim (fun k => k hs) (fun k => Nat.not_lt.2 ht k)
  · simp [Line.idleWaitOver, hw, ht]
  · rw [← Bool.not_eq_true, Line.idleWaitOver, Option.any_eq_true]
    rintro ⟨w, hw, ht⟩
    exact Nat.not_lt.2 (of_decide_eq_true ht) (h w hw)
  · rw [← Net.enterIdle_eq l s.net (Or.inr hs)]
    exact settled (by simp [Line.settled, hs, Speed.settling_eq, ht])
  · rw [← Bool.not_eq_true, Line.settled, Bool.and_eq_true, decide_eq_true_eq, decide_eq_true_eq, Speed.settling_eq]
    exact fun ⟨hs, ht⟩ => h.elim (fun k => k hs) (fun k => Nat.not_lt.2 ht k)

end Sys2Proof.Machine
end

section
/-! What the plan engine and the command lists keep. Every operation of theirs is a run of marks, of updates of valves, of plans and of the
survey engine, and of commands entered and withdrawn: a relation between nets that each of these keeps, each operation keeps. -/

namespace Sys2Proof.Machine

/-! ## One change at a time -/

/-- A relation that holds along every change the plan engine makes; a STEP is entered on a line that is not in LISTEN role only (R114). -/
structure Net.PlanClosed (R : Net → Net → Prop) : Prop where
  refl : ∀ n, R n n
  trans : ∀ {a b c}, R a b → R b c → R a c
  mark : ∀ k r n, R n (n.mark k r)
  setValve : ∀ v f n, R n (n.setValve v f)
  setPlan : ∀ i f n, R n (n.setPlan i f)
  setSurvey : ∀ f n, R n (n.setSurvey f)
  withdrawStep : ∀ l st tag n, R n (n.withdrawStep l st tag)
  enterStep : ∀ l st target n, (n.line l).role ≠ .listen → R n (n.enterStep l st target).1

/-- R114: a step whose conditions hold is for a line that is not in LISTEN role. -/
theorem Net.role_of_stepCondition {n : Net} {v st : Nat} {l : Fin 4} (hl : n.valveLine v = some (l, st)) (h : n.stepCondition v = none) :
    (n.line l).role ≠ .listen := by
  intro hrole
  unfold Net.stepCondition at h
  rw [hl] at h
  dsimp only at h
  rw [if_pos hrole] at h
  exact nomatch h

namespace Net.PlanClosed

variable {R : Net → Net → Prop} (h : Net.PlanClosed R)
include h

theorem markIf (c : Bool) (r : RecordName) (n : Net) : R n (n.markIf c r) := by
  cases c
  · exact h.refl n
  · exact h.mark _ _ n

theorem updateValve (v : Nat) (f : Valve → Valve) (n : Net) : R n (n.updateValve v f) := h.trans (h.setValve v f n) (h.markIf _ _ _)

theorem updateValveMarked (v : Nat) (f : Valve → Valve) (n : Net) : R n (n.updateValveMarked v f) := h.trans (h.setValve v f n) (h.mark _ _ _)

theorem updatePlan (i : Nat) (f : Plan → Plan) (n : Net) : R n (n.updatePlan i f) := h.trans (h.setPlan i f n) (h.markIf _ _ _)

theorem overEach {α : Type} {f : α → Net → Net} (hf : ∀ x n, R n (f x n)) (xs : List α) (n : Net) : R n (Machine.overEach f xs n) := by
  unfold Machine.overEach
  induction xs generalizing n with
  | nil => exact h.refl n
  | cons x xs ih => exact h.trans (hf x n) (ih (f x n))

/-! ## Blocks (R121) and outcomes (R113 to R115) -/

theorem restage (p : Plan) (v : Nat) (n : Net) : R n (n.restage p v) := by
  unfold Net.restage
  split
  · exact h.refl n
  · dsimp only
    split
    · split
      · exact h.trans (h.updateValve v _ n) (h.withdrawStep _ _ _ _)
      · exact h.updateValve v _ n
    · exact h.updateValve v _ n

theorem blockPlan (slot : Nat) (reason : BlockReason) (moved : Option Nat) (n : Net) : R n (n.blockPlan slot reason moved) := by
  unfold Net.blockPlan
  split
  · exact h.refl n
  · split
    · split
      · exact h.trans (h.trans (h.setPlan _ _ n) (h.mark _ _ _)) (h.restage _ _ _)
      · exact h.refl n
    · exact h.refl n

theorem blockClaim (v : Nat) (reason : BlockReason) (moved : Option Nat) (n : Net) : R n (n.blockClaim v reason moved) := by
  unfold Net.blockClaim
  split
  · exact h.blockPlan _ _ _ n
  · exact h.refl n

theorem stepOutcome (st : Nat) (tag : Byte) (o : StepOutcome) (n : Net) : R n (n.stepOutcome st tag o) := by
  unfold Net.stepOutcome
  split
  · exact h.refl n
  · split
    · exact h.refl n
    · split
      · cases o with dsimp only
        | taken => exact h.updateValveMarked _ _ n
        | notTaken => exact h.refl n
        | refused | stationLost | lineUnavailable => exact h.blockClaim _ _ _ n
        | notListed =>
          split
          · exact h.updateValve _ _ n
          · exact h.refl n
      · exact h.refl n

theorem enterStaged (slot v : Nat) (n : Net) : R n (n.enterStaged slot v) := by
  unfold Net.enterStaged
  split
  · next l st _ hl =>
    split
    · exact h.refl n
    · split
      · exact h.blockPlan _ _ _ n
      · next hcondition =>
        split
        · exact h.refl n
        · have entered (target : Nat) (f : Valve → Valve) :=
            h.trans (h.enterStep l st target n (Net.role_of_stepCondition hl hcondition)) (h.updateValve v f _)
          dsimp only
          split
          · exact h.trans (entered _ _) (h.stepOutcome _ _ _ _)
          · exact entered _ _
  · exact h.refl n

/-! ## Steps staged, done, and plans ended (R113, R118) -/

theorem stageStep (slot e : Nat) (n : Net) : R n (n.stageStep slot e) := by
  unfold Net.stageStep
  split
  · exact h.refl n
  · split
    · exact h.refl n
    · split
      · dsimp only
        split
        · have held (v : Nat) (f : Valve → Valve) (g : Plan → Plan) := h.trans (h.updateValveMarked v f n) (h.updatePlan slot g _)
          split
          · exact h.trans (held _ _ _) (h.blockPlan _ _ _ _)
          · exact held _ _ _
        · exact h.trans (h.updateValveMarked _ _ n) (h.enterStaged _ _ _)
      · exact h.refl n

theorem startEntry (slot e : Nat) (n : Net) : R n (n.startEntry slot e) := h.trans (h.updatePlan _ _ n) (h.stageStep _ _ _)

theorem claimsChanged (n : Net) : R n n.claimsChanged := h.setSurvey _ n

theorem releaseClaims (r : Ref) (n : Net) : R n (n.releaseClaims r) :=
  h.trans (h.overEach (fun v m => h.updateValve v _ m) (n.claimedBy r) n) (h.claimsChanged _)

theorem endPlan (slot : Nat) (final : PlanState) (n : Net) : R n (n.endPlan slot final) :=
  h.trans (h.trans (h.setPlan slot _ n) (h.mark _ _ _)) (h.releaseClaims _ _)

theorem stepDone (slot v : Nat) (n : Net) : R n (n.stepDone slot v) := by
  unfold Net.stepDone
  split
  · exact h.refl n
  · split
    · have done (f : Valve → Valve) (g : Plan → Plan) := h.trans (h.updateValveMarked v f n) (h.updatePlan slot g _)
      dsimp only
      split
      · exact h.trans (done _ _) (h.stageStep _ _ _)
      · split
        · exact h.trans (done _ _) (h.startEntry _ _ _)
        · exact h.trans (done _ _) (h.endPlan _ _ _)
    · exact h.refl n

theorem takeDwellEnd (v : Nat) (n : Net) : R n (n.takeDwellEnd v) := by
  unfold Net.takeDwellEnd
  split
  · split
    · exact h.stepDone _ _ n
    · exact h.refl n
  · exact h.refl n

theorem startDwell (v dwell : Nat) (n : Net) : R n (n.startDwell v dwell) := h.trans (h.updateValveMarked v _ n) (h.takeDwellEnd v _)

/-! ## STOPs, station and line notices (R122, R126) -/

theorem finishAbandon (slot : Nat) (n : Net) : R n (n.finishAbandon slot) := by
  unfold Net.finishAbandon
  split
  · split
    · exact h.endPlan _ _ n
    · exact h.refl n
  · exact h.refl n

theorem afterStop (v : Nat) (n : Net) : R n (n.afterStop v) := by
  unfold Net.afterStop
  split
  · exact h.refl n
  · split
    · exact h.enterStaged _ _ n
    · exact h.finishAbandon _ n

theorem stopOutcome (st : Nat) (o : StopOutcome) (n : Net) : R n (n.stopOutcome st o) := by
  unfold Net.stopOutcome
  split
  · exact h.refl n
  · split
    · exact h.trans (h.setValve _ _ n) (h.afterStop _ _)
    · exact h.refl n

theorem commandOutcome (st : Nat) (o : CommandOutcome) (n : Net) : R n (n.commandOutcome st o) := by
  cases o with
  | step tag o => exact h.stepOutcome st tag o n
  | stop o => exact h.stopOutcome st o n

theorem stationNotice (st : Nat) (status : Status) (n : Net) : R n (n.stationNotice st status) := by
  unfold Net.stationNotice
  split
  · split
    · exact h.refl n
    · split
      · split
        · exact h.blockPlan _ _ _ n
        · exact h.refl n
      · exact h.refl n
  · exact h.refl n

theorem blockLine (l : Fin 4) (n : Net) : R n (n.blockLine l) := by
  refine h.overEach (fun slot m => ?_) _ n
  split
  · split
    · exact h.blockPlan _ _ _ m
    · exact h.refl m
  · exact h.refl m

/-! ## Valve readings (R11, R14, R116, R124, R128) -/

theorem arrive (v : Nat) (p : Plan) (f : StepInFlight) (n : Net) : R n (n.arrive v p f) :=
  h.trans (h.updateValveMarked v _ n) (h.startDwell _ _ _)

theorem judgeUnverified (slot v : Nat) (p : Plan) (f : StepInFlight) (x : Valve) (n : Net) : R n (n.judgeUnverified slot v p f x) := by
  unfold Net.judgeUnverified
  split
  · exact h.refl n
  · split
    · exact h.arrive _ _ _ n
    · exact h.trans (h.updateValve _ _ n) (h.enterStaged _ _ _)

theorem judgeClaimed (slot v : Nat) (p : Plan) (x : Valve) (moved : Bool) (n : Net) : R n (n.judgeClaimed slot v p x moved) := by
  unfold Net.judgeClaimed
  split
  · exact h.blockPlan _ _ _ n
  · split
    · split
      · exact h.judgeUnverified _ _ _ _ _ n
      · split
        · exact h.arrive _ _ _ n
        · exact h.refl n
    · split
      · exact h.blockPlan _ _ _ n
      · exact h.refl n

theorem judgeReading (v : Nat) (before : Valve) (n : Net) : R n (n.judgeReading v before) := by
  unfold Net.judgeReading
  split
  · exact h.refl n
  · have settled := h.setValve v (fun x => { x with settleNext := false }) n
    dsimp only
    split
    · split
      · exact h.trans settled (h.updateValveMarked _ _ _)
      · exact settled
    · split
      · split
        · exact h.trans settled (h.judgeClaimed _ _ _ _ _ _)
        · exact settled
      · exact settled

theorem passingChanged (vs : List Nat) (n : Net) : R n (n.passingChanged vs) := by
  unfold Net.passingChanged
  split
  · exact h.refl n
  · exact h.setSurvey _ n

theorem handPassing (v : Nat) (before : PosState) (n : Net) : R n (n.handPassing v before) := by
  unfold Net.handPassing
  split
  · split
    · exact h.trans (h.setValve v _ n) (h.passingChanged _ _)
    · exact h.refl n
  · exact h.refl n

theorem takeReading (v : Nat) (r : ValveReading) (n : Net) : R n (n.takeReading v r) := by
  unfold Net.takeReading
  split
  · exact h.refl n
  · exact h.trans (h.trans (h.updateValve v _ n) (h.handPassing v _ _)) (h.judgeReading v _ _)

theorem deliverValvePart (st : Nat) (p : Payload) (n : Net) : R n (n.deliverValvePart st p) := by
  unfold Net.deliverValvePart
  split
  · split
    · exact h.takeReading _ _ n
    · exact h.takeReading _ _ n
    · exact h.refl n
  · exact h.refl n

end Net.PlanClosed

/-! ## What stands of a line while its commands are entered and withdrawn -/

/-- A line but for its commands, its tag counter and its continuation. -/
def Line.fixed (x : Line) : Line := { x with commands := [], tagCounter := 0, continuation := none }

/-- Only commands, tag counters and continuations have changed of the lines. -/
def Net.LinesFixed (a b : Net) : Prop := ∀ l, (b.line l).fixed = (a.line l).fixed

theorem Net.LinesFixed.of_lines {a b : Net} (h : b.lines = a.lines) : a.LinesFixed b := fun l => by rw [Net.line, h, Net.line]

/-- What the plan engine and the command lists leave of the clock, the stations, the points' settings and the lines. -/
structure Net.OutcomeSide (a b : Net) : Prop where
  now : b.now = a.now
  params : b.params = a.params
  stations : b.stations = a.stations
  settings : b.points.map Point.settings = a.points.map Point.settings
  lines : a.LinesFixed b

theorem Net.OutcomeSide.rfl {a : Net} : Net.OutcomeSide a a := ⟨Eq.refl _, Eq.refl _, Eq.refl _, Eq.refl _, fun _ => Eq.refl _⟩

theorem Net.OutcomeSide.trans {a b c : Net} (h : Net.OutcomeSide a b) (k : Net.OutcomeSide b c) : Net.OutcomeSide a c :=
  ⟨k.now.trans h.now, k.params.trans h.params, k.stations.trans h.stations, k.settings.trans h.settings,
    fun l => (k.lines l).trans (h.lines l)⟩

theorem Net.outcomeSide_setLine (l : Fin 4) {f : Line → Line} (hf : ∀ x, (f x).fixed = x.fixed) (n : Net) :
    Net.OutcomeSide n (n.setLine l f) := by
  refine ⟨Eq.refl _, Eq.refl _, Eq.refl _, Eq.refl _, fun k => ?_⟩
  by_cases hk : k = l
  · subst hk
    rw [Net.line_setLine, hf]
  · exact congrArg Line.fixed (Quad.get_set_other _ _ _ _ hk)

/-- R29: a STEP entered writes its line's commands and tag counter, perhaps in two parts. -/
theorem Net.enterStep_cases (l : Fin 4) (st target : Nat) (n : Net) :
    (n.enterStep l st target).1 = n.setLine l (Line.enterStep st target) ∨
      (n.enterStep l st target).1 = (n.setLine l (Line.enterStep st target)).setLine l (Line.unlist st) := by
  unfold Net.enterStep
  split
  · exact Or.inl rfl
  · split
    · exact Or.inr rfl
    · exact Or.inl rfl

theorem Net.planClosed_outcomeSide : Net.PlanClosed Net.OutcomeSide where
  refl _ := .rfl
  trans h k := h.trans k
  mark _ _ _ := ⟨rfl, rfl, rfl, rfl, .of_lines rfl⟩
  setValve _ _ _ := ⟨rfl, rfl, rfl, rfl, .of_lines rfl⟩
  setPlan _ _ _ := ⟨rfl, rfl, rfl, rfl, .of_lines rfl⟩
  setSurvey _ _ := ⟨rfl, rfl, rfl, rfl, .of_lines rfl⟩
  withdrawStep l st tag n := n.outcomeSide_setLine l (f := fun x => { x with commands := Machine.withdrawStep x.commands st tag }) (fun _ => rfl)
  enterStep l st target n _ := by
    have entered := n.outcomeSide_setLine l (f := Line.enterStep st target) (fun _ => rfl)
    rcases n.enterStep_cases l st target with h | h
    · rw [h]
      exact entered
    · rw [h]
      exact entered.trans (Net.outcomeSide_setLine l (f := Line.unlist st) (fun _ => rfl) _)

/-! ## A LISTEN line with nothing listed (R36) -/

/-- A line in LISTEN role that lists no command stays as it is: nothing is entered on it, and there is nothing to withdraw. -/
def Net.SilentKept (l : Fin 4) (a b : Net) : Prop := (a.line l).role = .listen → (a.line l).commands = [] → b.line l = a.line l

theorem Net.SilentKept.of_lines {l : Fin 4} {a b : Net} (h : b.lines = a.lines) : a.SilentKept l b := fun _ _ => by rw [Net.line, h, Net.line]

theorem Net.planClosed_silentKept (l : Fin 4) : Net.PlanClosed (Net.SilentKept l) where
  refl _ := fun _ _ => rfl
  trans h k := fun hr hc => (k (by rw [h hr hc]; exact hr) (by rw [h hr hc]; exact hc)).trans (h hr hc)
  mark _ _ _ := .of_lines rfl
  setValve _ _ _ := .of_lines rfl
  setPlan _ _ _ := .of_lines rfl
  setSurvey _ _ := .of_lines rfl
  withdrawStep k st tag n := fun _ hc => by
    by_cases hk : l = k
    · subst hk
      refine (Net.line_setLine l _ n).trans ?_
      rw [hc]
      exact congrArg (fun cs => { n.line l with commands := cs }) hc.symm
    · exact Quad.get_set_other _ _ _ _ hk
  enterStep k st target n hk := fun hr _ => by
    have hne : l ≠ k := fun e => hk (e ▸ hr)
    rcases n.enterStep_cases k st target with h | h
    · rw [h]
      exact Quad.get_set_other _ _ _ _ hne
    · rw [h]
      exact (Quad.get_set_other _ _ _ _ hne).trans (Quad.get_set_other _ _ _ _ hne)

theorem Net.planSide_blockLine (l : Fin 4) (n : Net) : Net.PlanSide n (n.blockLine l) := by
  refine overEach_planSide n (fun slot m => ?_) _
  split
  · split
    · exact m.planSide_blockPlan _ _ _
    · exact .rfl
  · exact .rfl

/-! ## ROLE (R36) -/

section
variable {n : Net} {l : Fin 4}

theorem Net.lineRole_same {r : Role} (h : (n.line l).role = r) : n.lineRole l r = (n, .done) := if_pos h

theorem Net.lineRole_master (h : (n.line l).role = .listen) : n.lineRole l .master =
    if (n.line l).state = .held ∧ (n.line l).permit = true then
      ({ n with lines := n.lines.set l { n.line l with role := .master, reconfigured := true }, marks := n.marks.add .ordinary (.line l) }, .done)
    else (n, .notPermitted) := by
  have hreported : ({ n.line l with role := .master, reconfigured := true } : Line).reported ≠ (n.line l).reported := by
    simp [Line.reported, h]
  unfold Net.lineRole
  rw [if_neg (by rw [h]; decide), Net.updateLine_eq, if_neg hreported]

theorem Net.lineRole_listen (h : (n.line l).role = .master) : n.lineRole l .listen =
    if (n.line l).state = .held then (n.becomeListen l, .done) else (n, .badState) := by
  unfold Net.lineRole
  rw [if_neg (by rw [h]; decide)]

/-- R36: what a line that becomes LISTEN leaves; its commands are handed over, and none is entered on it again. -/
theorem Net.becomeListen_spec (n : Net) (l : Fin 4) :
    (n.becomeListen l).line l = { n.line l with role := .listen, reconfigured := true, continuation := none, commands := [] } ∧
      (n.becomeListen l).stations = n.stations ∧ (n.becomeListen l).points = n.points ∧ (n.becomeListen l).zones = n.zones := by
  have hline := n.line_updateLine l (fun x => { x with role := .listen, reconfigured := true, continuation := none, commands := [] })
  have htables := n.updateLine_eq l (fun x => { x with role := .listen, reconfigured := true, continuation := none, commands := [] })
  have closed := Net.planClosed_silentKept l
  unfold Net.becomeListen
  dsimp only
  generalize n.updateLine l (fun x => { x with role := .listen, reconfigured := true, continuation := none, commands := [] }) = u at *
  have kept := closed.trans (closed.overEach (fun (c : Listed) m => closed.commandOutcome c.station (removedOutcome c.command .lineUnavailable) m)
    (n.line l).commands u) (closed.blockLine l _)
  have side := (overEach_planSide u (fun (c : Listed) m => m.planSide_commandOutcome c.station (removedOutcome c.command .lineUnavailable))
    (n.line l).commands).trans (Net.planSide_blockLine l _)
  refine ⟨(kept (by rw [hline]) (by rw [hline])).trans hline, side.stations.trans ?_, side.points.trans ?_, side.zones.trans ?_⟩
  · rw [htables]
  · rw [htables]
  · rw [htables]

end

/-- spec/11: the two role codes. -/
theorem Role.ofCode_eq (k : Nat) : Role.ofCode k = if k = 0 then some .master else if k = 1 then some .listen else none := by
  rcases k with _ | _ | k
  · rfl
  · rfl
  · simp [Role.ofCode]

/-- Settles O43: by the role asked for and the one held. -/
theorem roleChangesAHeldLine : Obligations.RoleChangesAHeldLine := by
  unfold Obligations.RoleChangesAHeldLine
  have operation (line role : Byte) (l : Fin 4) :
      lineOperation { line := line, op := 4, speed := 0, window := 0, gap := 0, role := role } l =
        (if role.toNat = 0 then some Role.master else if role.toNat = 1 then some .listen else none).map (fun r => Net.lineRole l r) := by
    rw [← Role.ofCode_eq]
    rfl
  refine ⟨fun s i p line role o ho hready hl => ?_, fun s i p line role o l ho hready hl => ?_⟩
  · cases ho
    obtain ⟨t, ht, served⟩ := State.serves_above hready hl
    rw [operation] at served
    intro refused
    refine ⟨fun hr => ⟨t, _, ht, List.mem_singleton.2 ?_, served⟩, fun hr => ⟨t, _, ht, List.mem_cons.2 (Or.inl ?_), served⟩⟩
    · rcases Nat.le_one_iff_eq_zero_or_eq_one.1 hr with h | h <;> simp [h, Answer.plain]
    · simp [show role.toNat ≠ 0 by omega, show role.toNat ≠ 1 by omega, Answer.plain]
  · cases ho
    have master (h : role.toNat = 0) : lineOperation { line := line, op := 4, speed := 0, window := 0, gap := 0, role := role } l =
        some (Net.lineRole l .master) := by rw [operation, if_pos h]; rfl
    have listen (h : role.toNat = 1) : lineOperation { line := line, op := 4, speed := 0, window := 0, gap := 0, role := role } l =
        some (Net.lineRole l .listen) := by rw [operation, if_neg (by omega), if_pos h]; rfl
    intro x answered
    refine ⟨fun hr => ?_, fun hr => ?_, fun hr hx hno => ?_, fun hr hx hs hp => ?_, fun hr hx hs => ?_, fun hr hx hs => ?_⟩
    · exact State.serves_badForm hready hl (by rw [operation, if_neg (by omega), if_neg (by omega)]; rfl)
    · rcases hr with ⟨hr, hx⟩ | ⟨hr, hx⟩
      · exact State.serves_operation hready hl (master hr) (Net.lineRole_same hx)
      · exact State.serves_operation hready hl (listen hr) (Net.lineRole_same hx)
    · exact State.serves_operation hready hl (master hr) ((Net.lineRole_master hx).trans (if_neg hno))
    · have served := State.serves_operation hready hl (master hr) ((Net.lineRole_master hx).trans (if_pos ⟨hs, hp⟩))
      rwa [show Net.line { s.net with lines := s.net.lines.set l _, marks := _ } l = _ from Quad.get_set_self _ _ _] at served
    · exact State.serves_operation hready hl (listen hr) ((Net.lineRole_listen hx).trans (if_neg hs))
    · have served := State.serves_operation hready hl (listen hr) ((Net.lineRole_listen hx).trans (if_pos hs))
      obtain ⟨hline, hrest⟩ := s.net.becomeListen_spec l
      rw [hline] at served
      exact ⟨s.net.becomeListen l, served, hline, hrest⟩

end Sys2Proof.Machine
end

section
/-! An exchange to its ending (R22 to R28, R32, R43 to R47, R51, R53, R54, R115, R122, R126). -/

namespace Sys2Proof.Machine

/-! ## A poll sent, a reply begun, and what ends an exchange (R22 to R24) -/

/-- R22: an exchange in flight on a MASTER line. -/
def Line.polls (x : Line) : Prop := x.role = .master ∧ (x.state = .await ∨ x.state = .holding) ∧ x.exchange ≠ none

theorem Line.sendsPoll_iff (x : Line) : x.sendsPoll = true ↔ x.polls ∧ x.windowSince = none := by
  unfold Line.sendsPoll Line.polls
  simp only [Bool.and_eq_true, decide_eq_true_eq, Option.isSome_iff_ne_none, Option.isNone_iff_eq_none, and_assoc]

theorem Line.awaitsReply_iff (x : Line) : x.awaitsReply = true ↔ x.polls ∧ x.windowSince ≠ none := by
  unfold Line.awaitsReply Line.polls
  simp only [Bool.and_eq_true, decide_eq_true_eq, Option.isSome_iff_ne_none, and_assoc]

theorem Line.awaitsReply_eq_false_iff (x : Line) : x.awaitsReply = false ↔ ¬ x.polls ∨ x.windowSince = none := by
  rw [← Bool.not_eq_true, x.awaitsReply_iff, not_and_or, not_not]

theorem Line.windowOver_iff (now : Time) (x : Line) : x.windowOver now = true ↔
    x.awaitsReply = true ∧ x.frameBegun = false ∧ ∃ w, x.windowSince = some w ∧ w + 10 * x.params.window ≤ now := by
  unfold Line.windowOver
  simp only [Bool.and_eq_true, Bool.not_eq_true', Option.any_eq_true, decide_eq_true_eq, and_assoc]

/-- The ending of an exchange by a reply of a kind, or in silence (`none`). -/
def endingOf (k : Option ReplyKind) : Ending := k.elim .silent .reply

section
variable {n : Net} {l : Fin 4} {e : LineExchange} {z : Station}

theorem Net.takeFrame_ignored (h : (n.line l).awaitsReply = false) (bytes : List Byte) : n.takeFrame l bytes = n := by
  unfold Net.takeFrame
  split
  · exact if_neg (by rw [h]; decide)
  · rfl

theorem Net.takeFrame_ends (hx : (n.line l).exchange = some e) (h : (n.line l).awaitsReply = true) (bytes : List Byte) :
    n.takeFrame l bytes = n.endExchange l (n.frameEnding e bytes) := by
  unfold Net.takeFrame
  rw [hx]
  exact if_pos h

/-- R23: a reply of the polled station. -/
theorem Net.frameEnding_reply (hz : n.stations[e.station]? = some z) {k : ReplyKind} (hk : k.ok = true) :
    n.frameEnding e (ReplyFrame.bytes { address := z.address, kind := k }) = endingOf (some k) := by
  unfold Net.frameEnding
  rw [parseReply_bytes _ hk, hz]
  exact if_pos (by simp)

/-- R23: any other frame. -/
theorem Net.frameEnding_other (hz : n.stations[e.station]? = some z) {bytes : List Byte}
    (h : ∀ r, parseReply bytes = some r → r.address ≠ z.address) : n.frameEnding e bytes = endingOf none := by
  unfold Net.frameEnding
  cases hr : parseReply bytes with
  | none => rfl
  | some r =>
    rw [hz]
    exact if_neg (by simpa using Ne.symm (h r hr))

end

/-! ## A station after an exchange (R43 to R47) -/

theorem Station.answerBusy_eq (z : Station) : z.answerBusy = z.afterBusy := by
  have hlimit : Config.busyLimit = 6 := rfl
  unfold Station.answerBusy Station.afterBusy
  rw [hlimit]
  cases hs : z.status with
  | lost | siteOut => simp
  | unknown | online | backoff =>
    dsimp only
    split
    · simp [*, Station.lose, Station.madeLost]
    · simp [*, show Config.backoffCycles = 2 from rfl]

theorem Station.beSilent_eq (z : Station) : z.beSilent = z.afterSilence := by
  have hlimit : Config.silentLimit = 3 := rfl
  unfold Station.beSilent Station.afterSilence
  rw [hlimit]
  cases hs : z.status with
  | lost | siteOut => simp
  | unknown | online | backoff =>
    dsimp only
    split
    · simp [*, Station.lose, Station.madeLost]
    · simp [*]

/-- The payload of a reply that has one. -/
def ReplyKind.payload : ReplyKind → Option Payload
  | .data p | .part p => some p
  | .busy | .refuse => none

/-- R43 to R47: a station's outcome is an update of the station, then its payload, if there is one. -/
theorem Net.stationOutcome_ending (n : Net) (e : LineExchange) (k : Option ReplyKind) :
    n.stationOutcome e.station (endingStation e (endingOf k)) =
      (k.bind ReplyKind.payload).elim (n.updateStation e.station (fun z => z.afterEnding n.now e.function k))
        (fun p => (n.updateStation e.station (fun z => z.afterEnding n.now e.function k)).applyPayload e.station p) := by
  rcases k with _ | (p | p | _ | _)
  · exact congrArg (fun f => n.updateStation e.station f) (funext Station.beSilent_eq)
  · rfl
  · rfl
  · exact congrArg (fun f => n.updateStation e.station f) (funext Station.answerBusy_eq)
  · unfold endingStation endingOf Station.afterEnding
    cases e.function with
    | read | continue_ => rfl
    | step tag target | stop => rfl

/-- What an ending leaves of a station's place and duties. -/
theorem Station.afterEnding_fixed (z : Station) (now : Time) (f : PollFunction) (k : Option ReplyKind) :
    (z.afterEnding now f k).line = z.line ∧ (z.afterEnding now f k).valve = z.valve ∧ (z.afterEnding now f k).points = z.points ∧
      ((z.afterEnding now f k).replyRef = z.replyRef ∨ (z.afterEnding now f k).replyRef = now) := by
  rcases k with _ | (p | p | _ | _)
  · unfold Station.afterEnding Station.afterSilence
    dsimp only
    split
    · exact ⟨rfl, rfl, rfl, Or.inl rfl⟩
    · exact ⟨rfl, rfl, rfl, Or.inl rfl⟩
  · exact ⟨rfl, rfl, rfl, Or.inr rfl⟩
  · exact ⟨rfl, rfl, rfl, Or.inr rfl⟩
  · unfold Station.afterEnding Station.afterBusy
    dsimp only
    split
    · exact ⟨rfl, rfl, rfl, Or.inl rfl⟩
    · split
      · exact ⟨rfl, rfl, rfl, Or.inl rfl⟩
      · exact ⟨rfl, rfl, rfl, Or.inl rfl⟩
  · unfold Station.afterEnding
    dsimp only
    split
    · exact ⟨rfl, rfl, rfl, Or.inl rfl⟩
    · exact ⟨rfl, rfl, rfl, Or.inl rfl⟩

/-- R43 to R47: a station does not go out of reach by a reply with a payload, by silence before the third, by BUSY before the sixth, or by a
refused command. -/
def Station.calm (z : Station) (f : PollFunction) : Option ReplyKind → Prop
  | some (.data _) | some (.part _) => True
  | some .busy => z.busy < 5
  | some .refuse => f ≠ .read ∧ f ≠ .continue_
  | none => z.silent < 2

theorem Station.afterEnding_calm {z : Station} {f : PollFunction} {k : Option ReplyKind} (h : z.calm f k) (now : Time) :
    (z.afterEnding now f k).status.unreachable = false ∨ (z.afterEnding now f k).status = z.status := by
  rcases k with _ | (p | p | _ | _)
  · have hcount : min (z.silent + 1) 3 ≠ 3 := by have : z.silent < 2 := h; omega
    exact Or.inr (by simp [Station.afterEnding, Station.afterSilence, hcount])
  · exact Or.inl rfl
  · exact Or.inl rfl
  · have hcount : min (z.busy + 1) 6 ≠ 6 := by have : z.busy < 5 := h; omega
    unfold Station.afterEnding Station.afterBusy
    dsimp only
    by_cases hs : z.status = .lost ∨ z.status = .siteOut
    · rw [if_pos hs]
      exact Or.inr rfl
    · rw [if_neg hs, if_neg hcount]
      exact Or.inl rfl
  · have hf : ¬ (f = .read ∨ f = .continue_) := not_or.2 h
    exact Or.inr (by simp [Station.afterEnding, hf])

/-! ## What an outcome leaves (R32, R51, R53) -/

theorem Net.Quiet.outcomeSide {a b : Net} (h : Net.Quiet a b) (hs : b.points.map Point.settings = a.points.map Point.settings) :
    Net.OutcomeSide a b := ⟨h.now, h.params, h.stations, hs, .of_lines h.lines⟩

theorem Net.settings_changePoints (points : List Nat) (old new : Status) (n : Net) :
    (n.changePoints points old new).points.map Point.settings = n.points.map Point.settings := by
  have hkeep (q : Point) : ((if new.unreachable = true then Point.lose else Point.regain n.now) q).settings = q.settings := by
    split
    · rfl
    · unfold Point.regain
      split <;> rfl
  unfold Net.changePoints
  split
  · rfl
  · dsimp only
    rw [overEach_recompute_points]
    exact overEach_updatePoint_view hkeep points n

theorem Net.outcomeSide_tellLine (l : Fin 4) (st : Nat) (old new : Status) (n : Net) : Net.OutcomeSide n (n.tellLine l st old new) := by
  unfold Net.tellLine
  split
  · have removed : Net.OutcomeSide n (n.removeStation l st).1 := Net.outcomeSide_setLine l (f := fun x =>
      { x with commands := unlist x.commands st, continuation := if x.continuation = some st then none else x.continuation }) (fun _ => rfl) n
    dsimp only
    split
    · exact removed.trans (Net.planClosed_outcomeSide.commandOutcome _ _ _)
    · exact removed
  · exact .rfl

theorem Net.outcomeSide_updateStation (st : Nat) (f : Station → Station) (n : Net) :
    Net.OutcomeSide (n.setStation st f) (n.updateStation st f) := by
  unfold Net.updateStation
  split
  · next hz =>
    have hsame : n.setStation st f = n := by
      unfold Net.setStation
      rw [List.modify_eq_self (List.getElem?_eq_none_iff.1 hz)]
    rw [hsame]
    exact .rfl
  · next z _ =>
    dsimp only
    split
    · exact .rfl
    · exact (((Net.outcomeSide_tellLine z.line st z.status (f z).status _).trans
        (Net.planClosed_outcomeSide.stationNotice st (f z).status _)).trans
        ((Net.quiet_changePoints z.points z.status (f z).status _).outcomeSide (Net.settings_changePoints _ _ _ _))).trans
        (Net.planClosed_outcomeSide.mark _ _ _)

theorem Net.settings_takePointReading (st : Nat) (r : PointReading) (n : Net) :
    (n.takePointReading st r).points.map Point.settings = n.points.map Point.settings := by
  unfold Net.takePointReading
  split
  · next i _ =>
    rw [(n.applyReading_pointUnit i r).2]
    refine List.map_modify_of_view _ _ i _ (fun q => ?_)
    unfold Point.applyReading
    split <;> rfl
  · rfl

theorem Net.outcomeSide_applyPayload (st : Nat) (p : Payload) (n : Net) : Net.OutcomeSide n (n.applyPayload st p) := by
  have read (rs : List PointReading) (m : Net) :
      (overEach (Net.takePointReading st) rs m).points.map Point.settings = m.points.map Point.settings := by
    unfold overEach
    induction rs generalizing m with
    | nil => rfl
    | cons r rs ih => exact (ih _).trans (m.settings_takePointReading st r)
  have unit := n.applyReadings_pointUnit st p
  have settings : (n.applyReadings st p).points.map Point.settings = n.points.map Point.settings := by
    unfold Net.applyReadings
    dsimp only
    rw [overEach_recompute_points]
    exact read p.readings n
  have side : Net.OutcomeSide n (n.applyReadings st p) := ⟨unit.now, unit.params, unit.stations, settings, .of_lines unit.lines⟩
  rw [Net.applyPayload_eq]
  exact side.trans (Net.planClosed_outcomeSide.deliverValvePart st p _)

/-- R43 to R47, R51, R53: a station's outcome writes the station; of the lines it changes commands and continuations at most. -/
theorem Net.outcomeSide_stationOutcome (n : Net) (e : LineExchange) (k : Option ReplyKind) :
    Net.OutcomeSide (n.setStation e.station (fun z => z.afterEnding n.now e.function k))
      (n.stationOutcome e.station (endingStation e (endingOf k))) := by
  have updated := n.outcomeSide_updateStation e.station (fun z => z.afterEnding n.now e.function k)
  rw [Net.stationOutcome_ending]
  cases k.bind ReplyKind.payload with
  | none => exact updated
  | some p => exact updated.trans (Net.outcomeSide_applyPayload _ p _)

/-! ## The parts of an ending (R25) -/

/-- R25 steps 1 and 2: the command list, the command's outcome and the continuation settled. -/
def Net.settleCommand (l : Fin 4) (e : LineExchange) (x : Ending) (n : Net) : Net :=
  ((n.setLine l (fun y => { y with commands := settledCommands e x y.commands })).handOutcome e.station (endingOutcome e x)).setLine l
    (fun y => { y with continuation := settledContinuation e x y.continuation })

/-- R25: the exchange ended but for the reply age. -/
def Net.endedExchange (l : Fin 4) (e : LineExchange) (x : Ending) (n : Net) : Net :=
  ((n.settleCommand l e x).stationOutcome e.station (endingStation e x)).updateLine l (Line.endExchange n.now)

theorem Net.endExchange_eq {n : Net} {l : Fin 4} {e : LineExchange} (h : (n.line l).exchange = some e) (x : Ending) :
    n.endExchange l x = (n.endedExchange l e x).takeReplyAge e.station := by
  unfold Net.endExchange
  rw [h]
  rfl

theorem Net.outcomeSide_settleCommand (l : Fin 4) (e : LineExchange) (x : Ending) (n : Net) : Net.OutcomeSide n (n.settleCommand l e x) := by
  have handed : Net.OutcomeSide (n.setLine l (fun y => { y with commands := settledCommands e x y.commands }))
      ((n.setLine l (fun y => { y with commands := settledCommands e x y.commands })).handOutcome e.station (endingOutcome e x)) := by
    unfold Net.handOutcome
    split
    · exact Net.planClosed_outcomeSide.commandOutcome _ _ _
    · exact .rfl
  exact ((Net.outcomeSide_setLine l (f := fun y => { y with commands := settledCommands e x y.commands }) (fun _ => rfl) n).trans handed).trans
    (Net.outcomeSide_setLine l (f := fun y => { y with continuation := settledContinuation e x y.continuation }) (fun _ => rfl) _)

/-- R26, R115, R126: settling a command hands nothing on but to the plan engine. -/
theorem Net.settleCommand_handed (l : Fin 4) (e : LineExchange) (x : Ending) (n : Net) :
    Net.KeepsHanded n (n.settleCommand l e x) ∧ (n.settleCommand l e x).points = n.points ∧ (n.settleCommand l e x).zones = n.zones := by
  have side : Net.PlanSide (n.setLine l (fun y => { y with commands := settledCommands e x y.commands }))
      ((n.setLine l (fun y => { y with commands := settledCommands e x y.commands })).handOutcome e.station (endingOutcome e x)) := by
    unfold Net.handOutcome
    split
    · exact Net.planSide_commandOutcome _ _ _
    · exact .rfl
  exact ⟨⟨side.incidents, side.sources, side.marks, side.pending, side.changed⟩, side.points, side.zones⟩

/-- R25 step 4: what the clearing of an exchange leaves and writes. -/
theorem Line.endExchange_spec (now : Time) (x : Line) :
    (x.endExchange now).exchange = none ∧ (x.endExchange now).windowSince = none ∧ (x.endExchange now).frameBegun = false ∧
      (x.endExchange now).since = now ∧ (x.endExchange now).commands = x.commands ∧ (x.endExchange now).continuation = x.continuation ∧
      (x.state = .await → (x.endExchange now).state = .gap) ∧ (x.state = .holding → (x.endExchange now).state = .held) := by
  have kept (y : Line) : y.takeParams.exchange = y.exchange ∧ y.takeParams.windowSince = y.windowSince ∧
      y.takeParams.frameBegun = y.frameBegun ∧ y.takeParams.since = y.since ∧ y.takeParams.commands = y.commands ∧
      y.takeParams.continuation = y.continuation ∧ y.takeParams.state = y.state := by
    unfold Line.takeParams
    split
    · exact ⟨rfl, rfl, rfl, rfl, rfl, rfl, rfl⟩
    · exact ⟨rfl, rfl, rfl, rfl, rfl, rfl, rfl⟩
  unfold Line.endExchange
  obtain ⟨hexchange, hwindow, hbegun, hsince, hcommands, hcontinuation, hstate⟩ := kept
    { x with exchange := none, windowSince := none, frameBegun := false, since := now
             state := match x.state with
               | .await => .gap
               | .holding => .held
               | st => st }
  refine ⟨hexchange, hwindow, hbegun, hsince, hcommands, hcontinuation, fun h => hstate.trans ?_, fun h => hstate.trans ?_⟩
  · dsimp only
    rw [h]
  · dsimp only
    rw [h]

/-! ## The reply age at the end of an exchange (R49) -/

/-- R25: the line after an exchange, its commands and its continuation as the station's outcome left them. -/
theorem Net.line_endedExchange (n : Net) (l : Fin 4) (e : LineExchange) (k : Option ReplyKind) :
    (n.endedExchange l e (endingOf k)).line l =
      (((n.settleCommand l e (endingOf k)).stationOutcome e.station (endingStation e (endingOf k))).line l).endExchange n.now :=
  Net.line_updateLine _ _ _

/-- R49: the limit is read off a station's points. -/
theorem Net.replyAgeLimit_congr {a b : Net} {y z : Station} (hp : y.points = z.points)
    (hs : b.points.map Point.settings = a.points.map Point.settings) : b.replyAgeLimit y = a.replyAgeLimit z := by
  have stale (m : Net) (i : Nat) : (m.points[i]?).map (·.settings.stale) = ((m.points.map Point.settings)[i]?).map Settings.stale := by
    rw [List.getElem?_map, Option.map_map]
    rfl
  unfold Net.replyAgeLimit
  simp only [hp, stale, hs]

theorem Net.takeReplyAge_young {n : Net} {st : Nat} {z : Station} (hz : n.stations[st]? = some z)
    (hyoung : n.now < z.replyRef + 1000 * n.replyAgeLimit z) : n.takeReplyAge st = n := by
  unfold Net.takeReplyAge
  exact if_neg (fun h => Nat.not_le.2 hyoung ((Net.replyAgeDue_iff hz).1 h).1)

/-- R22, R49: line `l` holds the exchange `e`, sent, with station `z`, whose reply age is not reached. -/
structure Net.Polled (n : Net) (l : Fin 4) (e : LineExchange) (z : Station) : Prop where
  state : (n.line l).state = .await ∨ (n.line l).state = .holding
  exchange : (n.line l).exchange = some e
  station : n.stations[e.station]? = some z
  line : z.line = l
  limit : 0 < n.replyAgeLimit z
  young : n.now < z.replyRef + 1000 * n.replyAgeLimit z

section
variable {n : Net} {l : Fin 4} {e : LineExchange} {z : Station} (h : n.Polled l e z) (k : Option ReplyKind)
include h

/-- R43 to R47: the polled station's record. -/
theorem Net.stations_endedExchange :
    (n.endedExchange l e (endingOf k)).stations[e.station]? = some (z.afterEnding n.now e.function k) := by
  have settled := n.outcomeSide_settleCommand l e (endingOf k)
  have side := (n.settleCommand l e (endingOf k)).outcomeSide_stationOutcome e k
  unfold Net.endedExchange
  rw [Net.updateLine_eq]
  dsimp only
  rw [side.stations, Net.setStation_stations, settled.stations, settled.now, List.getElem?_modify, h.station]
  simp

/-- R49: an exchange that has just ended leaves its station's reply age unreached. -/
theorem Net.endExchange_polled : n.endExchange l (endingOf k) = n.endedExchange l e (endingOf k) := by
  obtain ⟨-, -, hpoints, href⟩ := z.afterEnding_fixed n.now e.function k
  have settled := n.outcomeSide_settleCommand l e (endingOf k)
  have side := (n.settleCommand l e (endingOf k)).outcomeSide_stationOutcome e k
  have hnow : (n.endedExchange l e (endingOf k)).now = n.now := by
    unfold Net.endedExchange
    rw [Net.updateLine_eq]
    exact side.now.trans settled.now
  have hsettings : (n.endedExchange l e (endingOf k)).points.map Point.settings = n.points.map Point.settings := by
    unfold Net.endedExchange
    rw [Net.updateLine_eq]
    exact side.settings.trans settled.settings
  rw [Net.endExchange_eq h.exchange]
  refine Net.takeReplyAge_young (Net.stations_endedExchange h k) ?_
  rw [hnow, Net.replyAgeLimit_congr hpoints hsettings]
  have hlimit := h.limit
  have hyoung := h.young
  rcases href with href | href
  · rw [href]
    exact hyoung
  · rw [href]
    exact Nat.lt_add_of_pos_right (Nat.mul_pos (by decide) hlimit)

theorem Net.exchangeEnded_endedExchange : n.ExchangeEnded (n.endedExchange l e (endingOf k)) l := by
  have hfixed : (((n.settleCommand l e (endingOf k)).stationOutcome e.station (endingStation e (endingOf k))).line l).fixed =
      (n.line l).fixed :=
    (((n.settleCommand l e (endingOf k)).outcomeSide_stationOutcome e k).lines l).trans ((n.outcomeSide_settleCommand l e (endingOf k)).lines l)
  have hstate := congrArg Line.state hfixed
  change Line.state (Net.line _ l) = (n.line l).state at hstate
  have hline := n.line_endedExchange l e k
  generalize ((n.settleCommand l e (endingOf k)).stationOutcome e.station (endingStation e (endingOf k))).line l = y at *
  obtain ⟨hexchange, hwindow, hbegun, hsince, -, -, hawait, hholding⟩ := y.endExchange_spec n.now
  refine ⟨?_, ?_⟩
  · rw [hline]
    exact ⟨hexchange, hwindow, hbegun, hsince⟩
  · rw [hline]
    rcases h.state with hs | hs
    · rw [hawait (hstate.trans hs), if_pos hs]
    · rw [hholding (hstate.trans hs), if_neg (by rw [hs]; decide)]

end

/-! ## Readings at the end of an exchange (R53, R54, R59, R61, R63) -/

/-- What a reading is judged on: the tables the point unit reads, and the clock. -/
theorem Net.ReadingApplied.congr {a b m : Net} {st : Nat} {p : Payload} (h : b.ReadingApplied m st p) (hnow : b.now = a.now)
    (hparams : b.params = a.params) (hstations : b.stations = a.stations) (hpoints : b.points = a.points) (hzones : b.zones = a.zones)
    (hincidents : b.incidents = a.incidents) (hsources : b.sources = a.sources) : a.ReadingApplied m st p := by
  cases a
  cases b
  simp only at hnow hparams hstations hpoints hzones hincidents hsources
  subst hnow hparams hstations hpoints hzones hincidents hsources
  exact h

/-- An update of a line leaves what a reading has handed on. -/
theorem Net.ReadingApplied.after_updateLine {a m : Net} {st : Nat} {p : Payload} (h : a.ReadingApplied m st p) (l : Fin 4) (f : Line → Line) :
    a.ReadingApplied (m.updateLine l f) st p := by
  have kept : Net.KeepsHanded m (m.updateLine l f) :=
    ⟨by rw [Net.updateLine_eq], by rw [Net.updateLine_eq], (Net.quiet_markIf _ _ (m.setLine l f)).marks, by rw [Net.updateLine_eq]; exact id,
      by rw [Net.updateLine_eq]; exact fun _ => id⟩
  have hpoints : (m.updateLine l f).points = m.points := by rw [Net.updateLine_eq]
  have hzones : (m.updateLine l f).zones = m.zones := by rw [Net.updateLine_eq]
  intro r i q hr hat hq
  obtain ⟨w, hw, hvalue, hfault, hgood, hhanded, hsummary⟩ := h r i q hr hat hq
  exact ⟨w, hpoints ▸ hw, hvalue, hfault, hgood, hhanded.after kept, Net.SummaryAt.congr hsummary hzones hpoints⟩

theorem Net.readingApplied_endedExchange (n : Net) (l : Fin 4) (e : LineExchange) {k : ReplyKind} {p : Payload} (hk : k = .data p ∨ k = .part p) :
    n.ReadingApplied (n.endedExchange l e (endingOf (some k))) e.station p := by
  obtain ⟨handed, hpoints, hzones⟩ := n.settleCommand_handed l e (endingOf (some k))
  have settled := n.outcomeSide_settleCommand l e (endingOf (some k))
  have hread := (n.settleCommand l e (endingOf (some k))).readingApplied_heard e.station (n.settleCommand l e (endingOf (some k))).now p
  refine Net.ReadingApplied.after_updateLine ?_ l _
  have houtcome : (n.settleCommand l e (endingOf (some k))).stationOutcome e.station (endingStation e (endingOf (some k))) =
      ((n.settleCommand l e (endingOf (some k))).updateStation e.station
        (Station.heardData (n.settleCommand l e (endingOf (some k))).now)).applyPayload e.station p := by
    rcases hk with rfl | rfl <;> rfl
  rw [houtcome]
  exact hread.congr settled.now settled.params settled.stations hpoints hzones handed.incidents handed.sources

/-! ## A station gone out of reach (R32, R51, R115, R122) -/

section
variable {n : Net} {st : Nat} {z : Station} {f : Station → Station}

/-- R51: of an unreachable status the consequences do not ask which it is. -/
theorem Net.updateStation_stranded (hz : n.stations[st]? = some z) (hold : z.status.unreachable = false)
    (hnew : (f z).status.unreachable = true) :
    n.updateStation st f =
      (((((n.setStation st f).tellLine z.line st z.status .lost).stationNotice st .lost).changePoints z.points z.status .lost)).mark .ordinary
        (.station st) := by
  have hlost : Status.lost.unreachable = true := rfl
  have hne : (f z).status ≠ z.status := fun h => by rw [h, hold] at hnew; exact nomatch hnew
  unfold Net.updateStation
  rw [hz]
  dsimp only
  rw [if_neg hne]
  unfold Net.statusChanged Net.tellLine Net.stationNotice Net.changePoints
  simp only [hnew, hlost]

/-- R32: a station out of reach is told of; the commands of other stations stay where the plan that claims its valve runs it. -/
theorem Net.lines_tellLine_notice {a : Net} (l : Fin 4) {old : Status} (hold : old.unreachable = false)
    (hout : (a.statusOf st).unreachable = true) (hown : ∀ v, a.stationValve st = some v → a.OwnValve l st v) :
    ((a.tellLine l st old .lost).stationNotice st .lost).lines = (a.withoutStation l st).lines := by
  have hunlisted := Net.unlisted_withoutStation l st a
  have htold : (a.tellLine l st old .lost).lines = (a.withoutStation l st).lines := by
    rw [Net.tellLine_lost l hold]
    cases listedCommand (a.line l).commands st with
    | none => rfl
    | some c => exact Net.removed_lines (n := a.withoutStation l st) c hout hown hunlisted
  have side := Net.planSide_tellLine_lost l hold st a
  rw [Net.stationNotice_lines (l := l) (fun v hv => ?_) (hunlisted.congr htold), htold]
  rw [side.stationValve] at hv
  rw [side.valveLine]
  exact (hown v hv).1

/-- R32, R51, R59, R115, R122: a station that leaves reach, whatever its counts become. -/
theorem Net.outOfReach_updateStation (hz : n.stations[st]? = some z) (hold : z.status.unreachable = false)
    (hnew : (f z).status.unreachable = true) (hline : ∀ y, (f y).line = y.line) (hvalve : (f z).valve = z.valve) :
    n.OutOfReach (n.updateStation st f) st z (n.line z.line).continuation := by
  have hstation : (n.setStation st f).stations[st]? = some (f z) := by
    rw [Net.setStation_stations, List.getElem?_modify, hz]
    simp
  have hout : ((n.setStation st f).statusOf st).unreachable = true := by
    unfold Net.statusOf
    rw [hstation]
    exact hnew
  have hstationValve : (n.setStation st f).stationValve st = z.valve := by
    unfold Net.stationValve
    rw [hstation]
    exact hvalve
  have side := (Net.planSide_tellLine_lost z.line hold st (n.setStation st f)).trans (Net.planSide_stationNotice _ st .lost)
  have hlines := Net.lines_tellLine_notice (a := n.setStation st f) (st := st) z.line hold hout
  have hblocks {r : Ref} {q : Plan} {i : Nat} {ent : PlanEntry} {x : Valve}
      (hrun : ((n.setStation st f).withoutStation z.line st).RunningAt r q i ent x) (hv : z.valve = some ent.valve) :=
    Net.removed_then_notice_blocked hrun (hstationValve.trans hv) (c := listedCommand ((n.setStation st f).line z.line).commands st)
  rw [← Net.tellLine_lost z.line hold] at hblocks
  have removed := Net.withoutStation_line z.line st (n.setStation st f)
  rw [Net.updateStation_stranded hz hold hnew]
  generalize ((n.setStation st f).tellLine z.line st z.status .lost).stationNotice st .lost = u at *
  have quiet := u.quiet_changePoints z.points z.status .lost
  have point {i : Nat} (hi : i ∈ z.points) {q : Point} (hq : n.points[i]? = some q) :=
    Net.changePoints_lost hold hi ((congrArg (·[i]?) side.points).trans hq : u.points[i]? = some q)
  refine ⟨Marks.mem_add_ordinary _ _, fun i hi q hq => (point hi hq).1, fun i hi q y hq hy => (point hi hq).2 y hy, fun hown => ?_, ?_, ?_⟩
  · have hline' := congrArg (Quad.get · z.line) (quiet.lines.trans (hlines (fun v hv => ?_)))
    · exact (congrArg Line.commands hline').trans (congrArg Line.commands removed)
    · obtain ⟨hl, hclaim⟩ := hown v (hstationValve.symm.trans hv)
      exact ⟨(Net.valveLine_setStation hline v).trans hl, hclaim⟩
  · exact (congrArg (fun ls => (Quad.get ls z.line).continuation) quiet.lines).trans
      ((side.continuation z.line).trans (congrArg Line.continuation removed))
  · intro r q i ent x hrun hv _ hs hstop
    obtain ⟨hplans, hurgent, hvalves⟩ := hblocks ⟨hrun.plan, hrun.running, hrun.entry, hrun.valve, hrun.claim⟩ hv hs hstop
    refine ⟨quiet.plans.trans hplans, (quiet.marks.trans (Net.grows_mark _ _ _)).urgent _ hurgent, (quiet.valves.trans hvalves).trans ?_⟩
    unfold Net.valvesRestaged
    cases x.inFlight <;> rfl

/-- An update of a line that leaves its commands and its continuation leaves a station out of reach. -/
theorem Net.OutOfReach.after_updateLine {m : Net} {owed : Option Nat} (h : n.OutOfReach m st z owed) (l : Fin 4) {g : Line → Line}
    (hcommands : ∀ x, (g x).commands = x.commands) (hcontinuation : ∀ x, (g x).continuation = x.continuation) :
    n.OutOfReach (m.updateLine l g) st z owed := by
  have hmarks : Marks.Grows m.marks (m.updateLine l g).marks := (Net.quiet_markIf _ _ (m.setLine l g)).marks
  have hpoints : (m.updateLine l g).points = m.points := by rw [Net.updateLine_eq]
  have hzones : (m.updateLine l g).zones = m.zones := by rw [Net.updateLine_eq]
  have hplans : (m.updateLine l g).plans = m.plans := by rw [Net.updateLine_eq]
  have hvalves : (m.updateLine l g).valves = m.valves := by rw [Net.updateLine_eq]
  have hline (i : Fin 4) : ((m.updateLine l g).line i).commands = (m.line i).commands ∧
      ((m.updateLine l g).line i).continuation = (m.line i).continuation := by
    by_cases hi : i = l
    · subst hi
      rw [Net.line_updateLine]
      exact ⟨hcommands _, hcontinuation _⟩
    · rw [Net.updateLine_eq, show Net.line { m with lines := m.lines.set l (g (m.line l)), marks := _ } i = m.line i from
        Quad.get_set_other _ _ _ _ hi]
      exact ⟨rfl, rfl⟩
  refine ⟨hmarks.marked _ h.marked, fun i hi q hq => hpoints ▸ h.points i hi q hq, fun i hi q y hq hy => ?_, fun hown => ?_, ?_, ?_⟩
  · exact Net.SummaryAt.congr (h.summaries i hi q · hq) hzones hpoints y hy
  · exact (hline z.line).1.trans (h.commands hown)
  · exact (hline z.line).2.trans h.continuation
  · intro r q i ent x hrun hv hl hs hstop
    obtain ⟨hp, hurgent, hvs⟩ := h.plan r q i ent x hrun hv hl hs hstop
    exact ⟨hplans.trans hp, hmarks.urgent _ hurgent, hvalves.trans hvs⟩

end

/-! ## Commands settled (R26 to R28) -/

section
variable {n : Net} {l : Fin 4} {e : LineExchange} {x : Ending}

/-- Only the continuation of line `l` is written. -/
def Net.withContinuation (l : Fin 4) (c : Option Nat) (n : Net) : Net := n.setLine l (fun y => { y with continuation := c })

/-- R26, R27: without an outcome the command stays listed. -/
theorem settledCommands_of_none (h : endingOutcome e x = none) (cs : List Listed) : settledCommands e x cs = cs := by
  unfold endingOutcome at h
  unfold settledCommands
  cases hf : e.function with
  | read | continue_ => rfl
  | step tag target =>
    rw [hf] at h
    dsimp only at h ⊢
    rw [Option.map_eq_none_iff.1 h]
  | stop =>
    rw [hf] at h
    dsimp only at h ⊢
    rw [Option.map_eq_none_iff.1 h]
    rfl

/-- R26 to R28: an ending that leaves the command listed, and tells the plan engine nothing that it acts on, settles the continuation only. -/
theorem Net.settleCommand_unsettled (hcommands : settledCommands e x (n.line l).commands = (n.line l).commands)
    (hnone : n.handOutcome e.station (endingOutcome e x) = n) :
    n.settleCommand l e x = n.withContinuation l (settledContinuation e x (n.line l).continuation) := by
  have hsame : n.setLine l (fun y => { y with commands := settledCommands e x y.commands }) = n := by
    have hline : ({ n.line l with commands := settledCommands e x (n.line l).commands } : Line) = n.line l := by rw [hcommands]
    unfold Net.setLine
    change { n with lines := n.lines.set l { n.line l with commands := settledCommands e x (n.line l).commands } } = n
    rw [hline]
    exact congrArg (fun ls => { n with lines := ls }) (Quad.set_get_self n.lines l)
  unfold Net.settleCommand
  rw [hsame, hnone]
  rfl

theorem Net.settleCommand_of_none (h : endingOutcome e x = none) :
    n.settleCommand l e x = n.withContinuation l (settledContinuation e x (n.line l).continuation) :=
  Net.settleCommand_unsettled (settledCommands_of_none h _) (by rw [h]; rfl)

end

/-! ## An exchange ended, and its station out of reach -/

/-- R43 to R47: only silence, BUSY and a refused READ take a station out of reach, and none of them settles a command. -/
theorem Station.afterEnding_leaves {z : Station} {now : Time} {e : LineExchange} {k : Option ReplyKind}
    (hnew : (z.afterEnding now e.function k).status.unreachable = true) (hold : z.status.unreachable = false) :
    k.bind ReplyKind.payload = none ∧ endingOutcome e (endingOf k) = none ∧
      ∀ c, settledContinuation e (endingOf k) c = if e.function = .continue_ then none else c := by
  rcases k with _ | (p | p | _ | _)
  · refine ⟨rfl, ?_, fun _ => rfl⟩
    unfold endingOutcome
    cases e.function <;> rfl
  · exact nomatch hnew
  · exact nomatch hnew
  · refine ⟨rfl, ?_, fun _ => rfl⟩
    unfold endingOutcome
    cases e.function <;> rfl
  · refine ⟨rfl, ?_, fun _ => rfl⟩
    unfold endingOutcome
    cases hf : e.function with
    | read | continue_ => rfl
    | step tag target | stop =>
      rw [hf] at hnew
      exact absurd hnew (by simp [Station.afterEnding, hold])

section
variable {n : Net} {l : Fin 4} {e : LineExchange} {z : Station} (h : n.Polled l e z) {k : Option ReplyKind}
include h

/-- R32, R51, R115, R122: the polled station gone out of reach by the ending. -/
theorem Net.outOfReach_endedExchange (hold : z.status.unreachable = false)
    (hnew : (z.afterEnding n.now e.function k).status.unreachable = true) :
    n.OutOfReach (n.endedExchange l e (endingOf k)) e.station z (if e.function = .continue_ then none else (n.line l).continuation) := by
  obtain ⟨hpayload, hnone, hcontinuation⟩ := Station.afterEnding_leaves hnew hold
  have hsettle := Net.settleCommand_of_none (n := n) (l := l) hnone
  rw [hcontinuation] at hsettle
  generalize (if e.function = .continue_ then none else (n.line l).continuation) = owed at *
  have hline : (n.withContinuation l owed).line z.line = { n.line z.line with continuation := owed } := by
    rw [h.line]
    exact Net.line_setLine _ _ _
  have hout := Net.outOfReach_updateStation (n := n.withContinuation l owed) (f := fun z => z.afterEnding n.now e.function k) h.station hold hnew
    (fun y => (y.afterEnding_fixed n.now e.function k).1) (z.afterEnding_fixed n.now e.function k).2.1
  rw [hline] at hout
  have hended : n.endedExchange l e (endingOf k) =
      ((n.withContinuation l owed).updateStation e.station (fun z => z.afterEnding n.now e.function k)).updateLine l (Line.endExchange n.now) := by
    unfold Net.endedExchange
    rw [Net.stationOutcome_ending, hpayload, hsettle]
    rfl
  rw [hended]
  refine Net.OutOfReach.after_updateLine ?_ l (fun x => (x.endExchange_spec n.now).2.2.2.2.1) (fun x => (x.endExchange_spec n.now).2.2.2.2.2.1)
  exact ⟨hout.marked, hout.points, hout.summaries, fun hown => (hout.commands hown).trans (by rw [hline]), hout.continuation,
    fun r q i ent x hrun => hout.plan r q i ent x ⟨hrun.plan, hrun.running, hrun.entry, hrun.valve, hrun.claim⟩⟩

/-- R25: what an ending leaves of the station and its readings, and of a station it takes out of reach. -/
theorem Net.endExchange_spec :
    n.ExchangeEnded (n.endExchange l (endingOf k)) l ∧
      (n.endExchange l (endingOf k)).stations[e.station]? = some (z.afterEnding n.now e.function k) ∧
      (∀ p, k = some (.data p) ∨ k = some (.part p) → n.ReadingApplied (n.endExchange l (endingOf k)) e.station p) ∧
      (z.status ≠ .lost → z.status ≠ .siteOut →
        (z.afterEnding n.now e.function k).status = .lost ∨ (z.afterEnding n.now e.function k).status = .siteOut →
        n.OutOfReach (n.endExchange l (endingOf k)) e.station z (if e.function = .continue_ then none else (n.line l).continuation)) := by
  rw [Net.endExchange_polled h]
  refine ⟨Net.exchangeEnded_endedExchange h k, Net.stations_endedExchange h k, fun p hp => ?_, fun hlost hsite hnew => ?_⟩
  · rcases hp with rfl | rfl
    · exact n.readingApplied_endedExchange l e (Or.inl rfl)
    · exact n.readingApplied_endedExchange l e (Or.inr rfl)
  · exact Net.outOfReach_endedExchange h (by simp [Status.unreachable, hlost, hsite]) (by simpa [Status.unreachable] using hnew)

end

/-! ## What an ending makes of command, continuation and plan (R26 to R28, R115, R126) -/

/-- A payload without readings and valve part. -/
def Payload.isBare (p : Payload) : Prop := p.readings = [] ∧ p.valve = none

theorem Payload.isBare.ok {p : Payload} (h : p.isBare) : p.ok = true := by
  unfold Payload.ok
  rw [h.1]
  rfl

/-- R53: a bare payload changes no line, valve or plan. -/
theorem Net.applyPayload_bare {p : Payload} (h : p.isBare) (st : Nat) (n : Net) :
    (n.applyPayload st p).lines = n.lines ∧ (n.applyPayload st p).valves = n.valves ∧ (n.applyPayload st p).plans = n.plans := by
  have unit := n.applyReadings_pointUnit st p
  have hpart : n.applyPayload st p = n.applyReadings st p := by
    rw [Net.applyPayload_eq]
    unfold Net.deliverValvePart
    rw [h.2]
    split
    · next hnone => exact nomatch hnone
    · rfl
  rw [hpart]
  exact ⟨unit.lines, unit.valves, unit.plans⟩

/-- The net whose command list line `l` has settled, the outcome not yet handed on. -/
def Net.listSettled (l : Fin 4) (e : LineExchange) (x : Ending) (n : Net) : Net :=
  n.setLine l (fun y => { y with commands := settledCommands e x y.commands })

section
variable {n : Net} {l : Fin 4} {e : LineExchange} {z : Station} {k : Option ReplyKind}

/-- R43 to R47: a station that stays as it is out of or within reach leaves lines, valves and plans, its reply being bare. -/
theorem Net.stationOutcome_calm (hz : n.stations[e.station]? = some z) (hcalm : z.calm e.function k)
    (hbare : ∀ p, k.bind ReplyKind.payload = some p → p.isBare) :
    let m := n.stationOutcome e.station (endingStation e (endingOf k))
    m.lines = n.lines ∧ m.valves = n.valves ∧ m.plans = n.plans := by
  have quiet := n.quiet_updateStation e.station (fun z => z.afterEnding n.now e.function k) (fun y hy => by
    rw [hz] at hy
    cases hy
    exact Station.afterEnding_calm hcalm n.now)
  rw [Net.stationOutcome_ending]
  cases hp : k.bind ReplyKind.payload with
  | none => exact ⟨quiet.lines, quiet.valves, quiet.plans⟩
  | some p =>
    obtain ⟨hlines, hvalves, hplans⟩ :=
      Net.applyPayload_bare (hbare p hp) e.station (n.updateStation e.station (fun z => z.afterEnding n.now e.function k))
    exact ⟨hlines.trans quiet.lines, hvalves.trans quiet.valves, hplans.trans quiet.plans⟩

/-- R26 to R28, R115, R126: the command list and the continuation as the rules settle them, valves and plans as the plan engine leaves them,
where it enters nothing. -/
theorem Net.endExchange_settles (h : n.Polled l e z) (hcalm : z.calm e.function k) (hbare : ∀ p, k.bind ReplyKind.payload = some p → p.isBare)
    {b : Net} (hb : (n.listSettled l e (endingOf k)).handOutcome e.station (endingOutcome e (endingOf k)) = b)
    (hlines : b.lines = (n.listSettled l e (endingOf k)).lines) :
    let m := n.endExchange l (endingOf k)
    n.ExchangeEnded m l ∧ (m.line l).commands = settledCommands e (endingOf k) (n.line l).commands ∧
      (m.line l).continuation = settledContinuation e (endingOf k) (n.line l).continuation ∧ m.valves = b.valves ∧ m.plans = b.plans := by
  intro m
  have hm : m = n.endedExchange l e (endingOf k) := Net.endExchange_polled h k
  have hu : n.settleCommand l e (endingOf k) =
      b.setLine l (fun y => { y with continuation := settledContinuation e (endingOf k) y.continuation }) := by
    rw [← hb]
    rfl
  have hstation : (n.settleCommand l e (endingOf k)).stations[e.station]? = some z := by
    rw [(n.outcomeSide_settleCommand l e (endingOf k)).stations]
    exact h.station
  obtain ⟨hl, hvalves, hplans⟩ := Net.stationOutcome_calm hstation hcalm hbare
  have hbline : b.line l = { n.line l with commands := settledCommands e (endingOf k) (n.line l).commands } := by
    rw [Net.line, hlines]
    exact Net.line_setLine _ _ _
  have hline : m.line l = Line.endExchange n.now
      { n.line l with
        commands := settledCommands e (endingOf k) (n.line l).commands
        continuation := settledContinuation e (endingOf k) (n.line l).continuation } := by
    rw [hm, Net.line_endedExchange, Net.line, hl, hu]
    refine congrArg (Line.endExchange n.now) ((Net.line_setLine _ _ _).trans ?_)
    rw [hbline]
  obtain ⟨-, -, -, -, hcommands, hcontinuation, -⟩ := Line.endExchange_spec n.now
    { n.line l with
      commands := settledCommands e (endingOf k) (n.line l).commands
      continuation := settledContinuation e (endingOf k) (n.line l).continuation }
  refine ⟨hm ▸ Net.exchangeEnded_endedExchange h k, by rw [hline, hcommands], by rw [hline, hcontinuation], ?_, ?_⟩
  · rw [hm]
    unfold Net.endedExchange
    rw [Net.updateLine_eq]
    exact hvalves.trans (by rw [hu]; rfl)
  · rw [hm]
    unfold Net.endedExchange
    rw [Net.updateLine_eq]
    exact hplans.trans (by rw [hu]; rfl)

end

/-! ### The command list -/

section
variable {cs : List Listed} {st : Nat} {tag : Byte} {target : Nat}

/-- R26, R31: with nothing else listed for its station, a withdrawn STEP leaves the commands of the others. -/
theorem withdrawStep_only (h : ∀ c ∈ cs, c.station = st → c = { station := st, command := .step tag target }) :
    withdrawStep cs st tag = cs.filter (fun c => c.station ≠ st) := by
  refine List.filter_congr fun c hc => ?_
  by_cases hst : c.station = st
  · rw [h c hc hst]
    simp
  · cases c.command <;> simp [hst]

theorem listedCommand_only_stop (h : ∀ c ∈ cs, c.station = st → c = { station := st, command := .stop })
    (hany : cs.any (fun c => c.station = st) = true) : listedCommand cs st = some .stop := by
  unfold listedCommand
  cases hfind : cs.find? (fun c => c.station = st) with
  | none =>
    obtain ⟨c, hc, hst⟩ := List.any_eq_true.1 hany
    exact absurd hst (List.find?_eq_none.1 hfind c hc)
  | some c =>
    rw [h c (List.mem_of_find?_eq_some hfind) (by simpa using List.find?_some hfind)]
    rfl

end

section
variable {e : LineExchange} {x : Ending} {cs : List Listed} {tag : Byte} {target : Nat}

theorem endingOutcome_step (hf : e.function = .step tag target) (x : Ending) : endingOutcome e x = (stepEnding tag x).map (.step tag) := by
  unfold endingOutcome
  rw [hf]

theorem endingOutcome_stop (hf : e.function = .stop) (x : Ending) : endingOutcome e x = (stopEnding x).map .stop := by
  unfold endingOutcome
  rw [hf]

/-- R26: a STEP taken or refused leaves the list. -/
theorem settledCommands_step (hf : e.function = .step tag target) {o : StepOutcome} (ho : o = .taken ∨ o = .refused)
    (hending : stepEnding tag x = some o) (honly : ∀ c ∈ cs, c.station = e.station → c = { station := e.station, command := .step tag target }) :
    settledCommands e x cs = cs.filter (fun c => c.station ≠ e.station) := by
  unfold settledCommands
  rw [hf]
  dsimp only
  rw [hending]
  rcases ho with rfl | rfl
  · exact withdrawStep_only honly
  · exact withdrawStep_only honly

/-- R27: a STOP with an outcome leaves the list. -/
theorem settledCommands_stop (hf : e.function = .stop) {o : StopOutcome} (hending : stopEnding x = some o)
    (hany : cs.any (fun c => c.station = e.station) = true)
    (honly : ∀ c ∈ cs, c.station = e.station → c = { station := e.station, command := .stop }) :
    settledCommands e x cs = cs.filter (fun c => c.station ≠ e.station) := by
  unfold settledCommands
  rw [hf]
  exact if_pos ⟨by rw [hending]; rfl, listedCommand_only_stop honly hany⟩

end

/-! ### The plan engine -/

section
variable {n : Net} {r : Ref} {q : Plan} {i st v : Nat} {ent : PlanEntry} {x : Valve} {f : StepInFlight} {tag : Byte}

/-- R115: the outcome of a STEP that is the one in flight at its valve. -/
theorem Net.stepOutcome_inFlight (hv : n.stationValve st = some v) (hx : n.valves[v]? = some x) (hf : x.inFlight = some f) (htag : f.tag = tag)
    (hun : f.unverified = false) :
    n.stepOutcome st tag .taken = n.updateValveMarked v (fun x => { x with inFlight := some { f with accepted := some n.now } }) ∧
      n.stepOutcome st tag .refused = n.blockClaim v .stepRefused none := by
  unfold Net.stepOutcome
  rw [hv]
  dsimp only
  rw [hx, Option.bind_some, hf]
  dsimp only
  exact ⟨if_pos ⟨htag, hun⟩, if_pos ⟨htag, hun⟩⟩

/-- R115: a reply without the echo settles nothing. -/
theorem Net.stepOutcome_notTaken (st : Nat) (tag : Byte) (n : Net) : n.stepOutcome st tag .notTaken = n := by
  unfold Net.stepOutcome
  split
  · rfl
  · split
    · rfl
    · split <;> rfl

/-- R115, R121: the running entry of a plan blocked, for any reason. -/
theorem Net.blockPlan_running (h : n.RunningAt r q i ent x) (hs : q.state = .active ∨ q.state = .holding) (reason : BlockReason) :
    (n.blockPlan r.slot reason none).plans = putRecord n.plans r.slot (q.blockedBy i reason ent.valve) ∧
      (n.blockPlan r.slot reason none).valves = n.valvesRestaged q ent.valve x := by
  obtain ⟨sl, hsl, -, -, hrecord⟩ := slotRecord_of_findRecord h.plan
  have hentry : q.runningEntry = some ent := by
    unfold Plan.runningEntry
    rw [h.running, Option.bind_some, h.entry]
  have hblock : n.blockPlan r.slot reason none = ((n.setPlan r.slot (fun p =>
      { p.setEntry i (fun x => { x with state := .blocked }) with
        state := .blocked, block := some { reason := reason, valve := ent.valve } })).mark .urgent (.plan r.slot)).restage q ent.valve := by
    unfold Net.blockPlan
    rw [Net.slotRecord_of_running h]
    dsimp only
    rw [if_pos hs, h.running, hentry]
    rfl
  rw [hblock]
  refine ⟨?_, Net.restage_valves h.valve⟩
  rw [Net.restage_plans]
  exact modify_update_eq_putRecord _ hsl hrecord

/-- R115, R121: a refused STEP blocks its plan's running entry, the step staged again; nothing else is listed for its station to withdraw. -/
theorem Net.blockClaim_refused {l : Fin 4} (h : n.RunningAt r q i ent x) (hs : q.state = .active) (hf : x.inFlight = some f)
    (hl : n.valveLine ent.valve = some (l, st)) (hunlisted : n.Unlisted l st) :
    (n.blockClaim ent.valve .stepRefused none).lines = n.lines ∧
      (n.blockClaim ent.valve .stepRefused none).valves = n.valves.set ent.valve
        { x with inFlight := none, staged := some (f.again (((q.stepAt f.entry f.step).map (·.dwell)).getD 0)) } ∧
      (n.blockClaim ent.valve .stepRefused none).plans = putRecord n.plans r.slot (q.blockedBy i .stepRefused ent.valve) := by
  have hclaim : n.blockClaim ent.valve .stepRefused none = n.blockPlan r.slot .stepRefused none := by
    unfold Net.blockClaim
    rw [Net.claimPlan_of_running h]
  obtain ⟨hplans, hvalves⟩ := Net.blockPlan_running h (Or.inl hs) .stepRefused
  rw [hclaim]
  refine ⟨Net.blockPlan_lines .stepRefused none (fun p hp => ?_) hl hunlisted, hvalves.trans ?_, hplans⟩
  · rw [Net.slotRecord_of_running h] at hp
    cases hp
    exact Net.runs_of_running h
  · unfold Net.valvesRestaged
    rw [hf]
    rfl

/-- R126: a STOP settled at a valve of a BLOCKED plan: no step is entered, and no plan ends. -/
theorem Net.stopOutcome_blocked (h : n.RunningAt r q i ent x) (hv : n.stationValve st = some ent.valve) (hs : q.state = .blocked)
    (hpending : x.stopPending = true) {o : StopOutcome} (ho : o = .taken ∨ o = .refused) :
    (n.stopOutcome st o).lines = n.lines ∧
      (n.stopOutcome st o).valves = n.valves.set ent.valve { x with stopPending := false, settleNext := true } ∧
      (n.stopOutcome st o).plans = n.plans := by
  have hset : (n.setValve ent.valve (fun x =>
      { x with stopPending := false, settleNext := x.settleNext || decide (o = .taken ∨ o = .refused) })).valves = n.valves.set ent.valve { x with stopPending := false, settleNext := true } := by
    rw [Net.setValve_valves, List.modify_eq_set_of_getElem? _ h.valve]
    simp [ho]
  have hout : n.stopOutcome st o = (n.setValve ent.valve (fun x =>
      { x with stopPending := false, settleNext := x.settleNext || decide (o = .taken ∨ o = .refused) })).afterStop ent.valve := by
    unfold Net.stopOutcome
    rw [hv]
    exact if_pos (by rw [h.valve]; exact hpending)
  rw [hout]
  generalize hu : n.setValve ent.valve (fun x =>
      { x with stopPending := false, settleNext := x.settleNext || decide (o = .taken ∨ o = .refused) }) = u at *
  have hlt := (List.getElem?_eq_some_iff.1 h.valve).1
  have hrun : u.RunningAt r q i ent { x with stopPending := false, settleNext := true } := by
    refine ⟨?_, h.running, h.entry, ?_, h.claim⟩
    · rw [← hu]
      exact h.plan
    · rw [hset]
      exact List.getElem?_set_self hlt
  have hstay : u.afterStop ent.valve = u := by
    unfold Net.afterStop
    rw [Net.claimPlan_of_running hrun]
    dsimp only
    rw [if_neg (by rw [hs]; exact fun h => nomatch h.1)]
    unfold Net.finishAbandon
    rw [Net.slotRecord_of_running hrun]
    exact if_neg (by rw [hs]; exact fun h => nomatch h.1)
  rw [hstay]
  exact ⟨by rw [← hu]; rfl, hset, by rw [← hu]; rfl⟩

end

/-! ## The events that end an exchange -/

/-- Event `c` ends the exchange of line `l` with a reply of kind `k`, or in silence. -/
def State.EndsBy (s : State) (l : Fin 4) (c : Instr) (k : Option ReplyKind) : Prop :=
  ∃ t, exec c s = .next t ∧ s.OnlyNet t (s.net.endExchange l (endingOf k)).arbitrateAll

/-- Event `c` ends the exchange of line `l`, and leaves these commands and this continuation, these valves and plans. -/
def State.SettlesAs (s : State) (l : Fin 4) (c : Instr) (commands : List Listed) (continuation : Option Nat) (valves : List Valve)
    (plans : List (Slot Plan)) : Prop :=
  ∃ (t : State) (n : Net), exec c s = .next t ∧ s.OnlyNet t n.arbitrateAll ∧ s.net.ExchangeEnded n l ∧
    (n.line l).commands = commands ∧ (n.line l).continuation = continuation ∧ n.valves = valves ∧ n.plans = plans

section
variable {s : State} {l : Fin 4} {e : LineExchange} {z : Station} {w : Time}

/-- R23: a frame assembled on a MASTER line, then the choices of the lines. -/
theorem State.onlyNet_replyFrame (s : State) (l : Fin 4) (bytes : List Byte) :
    ∃ t, exec (.replyFrame l bytes) s = .next t ∧ s.OnlyNet t (s.net.takeFrame l bytes).arbitrateAll :=
  ⟨_, rfl, s.onlyNet_onNet (fun n => (n.takeFrame l bytes).arbitrateAll)⟩

theorem State.endsBy_reply (hx : (s.net.line l).exchange = some e) (hz : s.net.stations[e.station]? = some z)
    (hawait : (s.net.line l).awaitsReply = true) {k : ReplyKind} (hk : k.ok = true) :
    s.EndsBy l (.replyFrame l (ReplyFrame.bytes { address := z.address, kind := k })) (some k) := by
  obtain ⟨t, ht, only⟩ := s.onlyNet_replyFrame l (ReplyFrame.bytes { address := z.address, kind := k })
  rw [Net.takeFrame_ends hx hawait, Net.frameEnding_reply hz hk] at only
  exact ⟨t, ht, only⟩

theorem State.endsBy_otherFrame (hx : (s.net.line l).exchange = some e) (hz : s.net.stations[e.station]? = some z)
    (hawait : (s.net.line l).awaitsReply = true) {bytes : List Byte} (h : ∀ r, parseReply bytes = some r → r.address ≠ z.address) :
    s.EndsBy l (.replyFrame l bytes) none := by
  obtain ⟨t, ht, only⟩ := s.onlyNet_replyFrame l bytes
  rw [Net.takeFrame_ends hx hawait, Net.frameEnding_other hz h] at only
  exact ⟨t, ht, only⟩

theorem State.endsBy_window (hover : (s.net.line l).windowOver s.net.now = true) : s.EndsBy l (.responseWindowExpiry l) none :=
  ⟨_, rfl, (s.onlyNet_due ((s.net.line l).windowOver s.net.now) (fun n => (n.endExchange l .silent).arbitrateAll)).1 hover⟩

/-- R24: a window that is not over, or in which a frame has begun, ends nothing. -/
theorem State.window_ignored (hover : (s.net.line l).windowOver s.net.now = false) :
    ∃ t, exec (.responseWindowExpiry l) s = .next t ∧ s.OnlyNet t s.net :=
  ⟨_, rfl, (s.onlyNet_due ((s.net.line l).windowOver s.net.now) (fun n => (n.endExchange l .silent).arbitrateAll)).2 hover⟩

end

/-! ## What each ending settles -/

/-- R28: a command's exchange leaves the continuation, but for a PART reply. -/
theorem settledContinuation_command {e : LineExchange} (hf : e.function ≠ .continue_) {k : Option ReplyKind} (hk : ∀ p, k ≠ some (.part p))
    (c : Option Nat) : settledContinuation e (endingOf k) c = c := by
  rcases k with _ | (p | p | _ | _)
  · exact if_neg hf
  · exact if_neg hf
  · exact absurd rfl (hk p)
  · exact if_neg hf
  · exact if_neg hf

section
variable {s : State} {l : Fin 4} {e : LineExchange} {z : Station} (h : s.net.Polled l e z) {k : Option ReplyKind} {c : Instr}
  (hc : s.EndsBy l c k) (hcalm : z.calm e.function k) (hbare : ∀ p, k.bind ReplyKind.payload = some p → p.isBare)
include h hc hcalm hbare

/-- R25 to R28: an ending whose command outcome the plan engine takes without entering anything. -/
theorem State.settlesAs_of_handed {b : Net} (hb : (s.net.listSettled l e (endingOf k)).handOutcome e.station (endingOutcome e (endingOf k)) = b)
    (hlines : b.lines = (s.net.listSettled l e (endingOf k)).lines) {commands : List Listed} {continuation : Option Nat}
    (hcommands : settledCommands e (endingOf k) (s.net.line l).commands = commands)
    (hcontinuation : settledContinuation e (endingOf k) (s.net.line l).continuation = continuation) :
    s.SettlesAs l c commands continuation b.valves b.plans := by
  obtain ⟨t, ht, only⟩ := hc
  have settled := Net.endExchange_settles h hcalm hbare hb hlines
  rw [hcommands, hcontinuation] at settled
  exact ⟨t, _, ht, only, settled⟩

/-- R26 to R28: an ending that settles no command. -/
theorem State.settlesAs_none (hnone : endingOutcome e (endingOf k) = none) :
    s.SettlesAs l c (s.net.line l).commands (settledContinuation e (endingOf k) (s.net.line l).continuation) s.net.valves s.net.plans :=
  State.settlesAs_of_handed h hc hcalm hbare (b := s.net.listSettled l e (endingOf k)) (by rw [hnone]; rfl) rfl
    (settledCommands_of_none hnone _) rfl

section
variable {tag : Byte} {target : Nat} (hf : e.function = .step tag target)
include hf

/-- R26, R115: a reply to a STEP without its echo. -/
theorem State.settlesAs_notTaken (hending : stepEnding tag (endingOf k) = some .notTaken) :
    s.SettlesAs l c (s.net.line l).commands (settledContinuation e (endingOf k) (s.net.line l).continuation) s.net.valves s.net.plans := by
  have houtcome : endingOutcome e (endingOf k) = some (.step tag .notTaken) := by rw [endingOutcome_step hf, hending, Option.map_some]
  refine State.settlesAs_of_handed h hc hcalm hbare (b := s.net.listSettled l e (endingOf k)) ?_ rfl ?_ rfl
  · rw [houtcome]
    exact Net.stepOutcome_notTaken _ _ _
  · unfold settledCommands
    rw [hf]
    dsimp only
    rw [hending]

variable {r : Ref} {q : Plan} {i : Nat} {ent : PlanEntry} {v : Valve} {f : StepInFlight}
  (honly : ∀ d ∈ (s.net.line l).commands, d.station = e.station → d = { station := e.station, command := .step tag target })
  (hvalve : s.net.stationValve e.station = some ent.valve) (hrun : s.net.RunningAt r q i ent v) (hflight : v.inFlight = some f)
  (htag : f.tag = tag) (hverified : f.unverified = false)
include honly hvalve hrun hflight htag hverified

/-- R26, R115: a STEP taken leaves the list, its step in flight accepted. -/
theorem State.settlesAs_stepTaken (hending : stepEnding tag (endingOf k) = some .taken) :
    s.SettlesAs l c ((s.net.line l).commands.filter (fun d => d.station ≠ e.station))
      (settledContinuation e (endingOf k) (s.net.line l).continuation)
      (s.net.valves.set ent.valve { v with inFlight := some { f with accepted := some s.net.now } }) s.net.plans := by
  have houtcome : endingOutcome e (endingOf k) = some (.step tag .taken) := by rw [endingOutcome_step hf, hending, Option.map_some]
  have hcommands := settledCommands_step hf (Or.inl rfl) hending honly
  have htaken := (Net.stepOutcome_inFlight (n := s.net.listSettled l e (endingOf k)) hvalve hrun.valve hflight htag hverified).1
  have hhanded := (congrArg ((s.net.listSettled l e (endingOf k)).handOutcome e.station ·) houtcome).trans htaken
  have settled := State.settlesAs_of_handed h hc hcalm hbare hhanded rfl hcommands rfl
  rw [← List.modify_eq_set_of_getElem? (fun x => { x with inFlight := some { f with accepted := some s.net.now } }) hrun.valve]
  exact settled

/-- R26, R115, R121: a STEP refused leaves the list and blocks its plan, the step staged again. -/
theorem State.settlesAs_stepRefused (hline : s.net.valveLine ent.valve = some (l, e.station)) (hactive : q.state = .active)
    (hending : stepEnding tag (endingOf k) = some .refused) :
    s.SettlesAs l c ((s.net.line l).commands.filter (fun d => d.station ≠ e.station))
      (settledContinuation e (endingOf k) (s.net.line l).continuation)
      (s.net.valves.set ent.valve
        { v with inFlight := none, staged := some (f.again (((q.stepAt f.entry f.step).map (·.dwell)).getD 0)) })
      (putRecord s.net.plans r.slot (q.blockedBy i .stepRefused ent.valve)) := by
  have houtcome : endingOutcome e (endingOf k) = some (.step tag .refused) := by rw [endingOutcome_step hf, hending, Option.map_some]
  have hcommands := settledCommands_step hf (Or.inr rfl) hending honly
  have hrefused := (Net.stepOutcome_inFlight (n := s.net.listSettled l e (endingOf k)) hvalve hrun.valve hflight htag hverified).2
  have hunlisted : (s.net.listSettled l e (endingOf k)).Unlisted l e.station := by
    intro d hd
    rw [show (s.net.listSettled l e (endingOf k)).line l = _ from Net.line_setLine _ _ _] at hd
    dsimp only at hd
    rw [hcommands] at hd
    simpa using (List.mem_filter.1 hd).2
  obtain ⟨hlines, hvalves, hplans⟩ := Net.blockClaim_refused (n := s.net.listSettled l e (endingOf k))
    ⟨hrun.plan, hrun.running, hrun.entry, hrun.valve, hrun.claim⟩ hactive hflight hline hunlisted
  have settled := State.settlesAs_of_handed h hc hcalm hbare (by rw [houtcome]; exact hrefused) hlines hcommands rfl
  rw [hvalves, hplans] at settled
  exact settled

end

/-- R27, R126: a STOP settled leaves the list, its valve no STOP pending; the plan is BLOCKED, so nothing follows. -/
theorem State.settlesAs_stop (hf : e.function = .stop) {r : Ref} {q : Plan} {i : Nat} {ent : PlanEntry} {v : Valve}
    (hany : (s.net.line l).commands.any (fun d => d.station = e.station) = true)
    (honly : ∀ d ∈ (s.net.line l).commands, d.station = e.station → d = { station := e.station, command := .stop })
    (hvalve : s.net.stationValve e.station = some ent.valve) (hrun : s.net.RunningAt r q i ent v) (hblocked : q.state = .blocked)
    (hpending : v.stopPending = true) {o : StopOutcome} (ho : o = .taken ∨ o = .refused) (hending : stopEnding (endingOf k) = some o) :
    s.SettlesAs l c ((s.net.line l).commands.filter (fun d => d.station ≠ e.station))
      (settledContinuation e (endingOf k) (s.net.line l).continuation)
      (s.net.valves.set ent.valve { v with stopPending := false, settleNext := true }) s.net.plans := by
  have houtcome : endingOutcome e (endingOf k) = some (.stop o) := by rw [endingOutcome_stop hf, hending, Option.map_some]
  have hcommands := settledCommands_stop hf hending hany honly
  obtain ⟨hlines, hvalves, hplans⟩ := Net.stopOutcome_blocked (n := s.net.listSettled l e (endingOf k))
    ⟨hrun.plan, hrun.running, hrun.entry, hrun.valve, hrun.claim⟩ hvalve hblocked hpending ho
  have settled := State.settlesAs_of_handed h hc hcalm hbare (by rw [houtcome]; rfl) hlines hcommands rfl
  rw [hvalves, hplans] at settled
  exact settled

end

/-! ## The events and the obligation -/

/-- R22, R23: a poll sent starts the window, and a frame begun is noted, where they are due. -/
theorem State.poll_events (s : State) (l : Fin 4) :
    let x := s.net.line l
    (∃ t, exec (.pollSent l) s = .next t ∧
      (x.polls → x.windowSince = none → s.OnlyNet t { s.net with lines := s.net.lines.set l { x with windowSince := some s.net.now } }) ∧
      (¬ x.polls ∨ x.windowSince ≠ none → s.OnlyNet t s.net)) ∧
    (∃ t, exec (.replyFrameBegun l) s = .next t ∧
      (x.polls → x.windowSince ≠ none → s.OnlyNet t { s.net with lines := s.net.lines.set l { x with frameBegun := true } }) ∧
      (¬ x.polls ∨ x.windowSince = none → s.OnlyNet t s.net)) := by
  intro x
  obtain ⟨sent, unsent⟩ := s.onlyNet_due x.sendsPoll (fun n => n.setLine l (fun x => { x with windowSince := some n.now }))
  obtain ⟨begun, unbegun⟩ := s.onlyNet_due x.awaitsReply (Net.setLine l (fun x => { x with frameBegun := true }))
  refine ⟨⟨_, rfl, fun hp hw => sent (x.sendsPoll_iff.2 ⟨hp, hw⟩), fun h => unsent ?_⟩,
    ⟨_, rfl, fun hp hw => begun (x.awaitsReply_iff.2 ⟨hp, hw⟩), fun h => unbegun (x.awaitsReply_eq_false_iff.2 h)⟩⟩
  rw [← Bool.not_eq_true, x.sendsPoll_iff, not_and_or]
  exact h

/-- Settles O46: the exchange ended by each event, then what each ending settles, by the function polled and the kind of the reply. -/
theorem exchangeRunsToItsEnding : Obligations.ExchangeRunsToItsEnding := by
  unfold Obligations.ExchangeRunsToItsEnding
  intro s l x polling
  obtain ⟨sent, begun⟩ := s.poll_events l
  refine ⟨sent, begun, fun h => ?_, fun e z w hp hx hw hz hl hlimit hyoung => ?_⟩
  · have hignored := x.awaitsReply_eq_false_iff.2 h
    refine ⟨fun bytes => ?_, State.window_ignored ?_⟩
    · obtain ⟨t, ht, only⟩ := s.onlyNet_replyFrame l bytes
      rw [Net.takeFrame_ignored hignored] at only
      exact ⟨t, ht, only⟩
    · rw [← Bool.not_eq_true, Line.windowOver_iff]
      exact fun hover => nomatch hignored.symm.trans hover.1
  · have hawait : x.awaitsReply = true := x.awaitsReply_iff.2 ⟨hp, by rw [hw]; exact nofun⟩
    have polled : s.net.Polled l e z := ⟨hp.2.1, hx, hz, hl, hlimit, hyoung⟩
    have over_iff : x.windowOver s.net.now = true ↔ x.frameBegun = false ∧ w + 10 * x.params.window ≤ s.net.now := by
      rw [Line.windowOver_iff]
      simp [hawait, hw]
    have byReply {k : ReplyKind} (hk : k.ok = true) := State.endsBy_reply hx hz hawait hk
    have byWindow (hb : x.frameBegun = false) (ht : w + 10 * x.params.window ≤ s.net.now) := State.endsBy_window (over_iff.2 ⟨hb, ht⟩)
    intro ended
    have endedBy {k : Option ReplyKind} {c : Instr} (hc : s.EndsBy l c k) : ended k c := by
      obtain ⟨t, ht, only⟩ := hc
      exact ⟨t, _, ht, only, Net.endExchange_spec polled⟩
    refine ⟨fun k hk => endedBy (byReply hk), fun bytes h => endedBy (State.endsBy_otherFrame hx hz hawait h),
      fun hb ht => endedBy (byWindow hb ht), fun h => State.window_ignored ?_, ?_⟩
    · rw [← Bool.not_eq_true, over_iff]
      exact fun ⟨hb, ht⟩ => h.elim (fun k => nomatch hb.symm.trans k) (fun k => Nat.not_lt.2 ht k)
    · intro settles reply others owed bare
      have noPayload {k : Option ReplyKind} (hk : k.bind ReplyKind.payload = none) : ∀ p, k.bind ReplyKind.payload = some p → p.isBare :=
        fun p hp => nomatch hk.symm.trans hp
      have onePayload {k : Option ReplyKind} {p : Payload} (hk : k.bind ReplyKind.payload = some p) (hb : bare p) :
          ∀ p', k.bind ReplyKind.payload = some p' → p'.isBare := fun p' hp' => Option.some.inj (hk.symm.trans hp') ▸ hb
      have byData {p : Payload} (hb : bare p) := byReply (k := .data p) (Payload.isBare.ok hb)
      have byPart {p : Payload} (hb : bare p) := byReply (k := .part p) (Payload.isBare.ok hb)
      have none_of {k : Option ReplyKind} (hk : k = none ∨ k = some .busy) : endingOutcome e (endingOf k) = none := by
        unfold endingOutcome
        rcases hk with rfl | rfl <;> cases e.function <;> rfl
      refine ⟨fun hb ht hs => ?_, fun hs => ?_, fun hf => ?_, fun tag target hf => ?_, fun hf => ?_⟩
      · exact State.settlesAs_none polled (byWindow hb ht) hs (noPayload rfl) (none_of (Or.inl rfl))
      · exact State.settlesAs_none polled (byReply rfl) hs (noPayload rfl) (none_of (Or.inr rfl))
      · have hnone (y : Ending) : endingOutcome e y = none := by
          unfold endingOutcome
          rcases hf with hf | hf <;> rw [hf]
        exact ⟨fun p hb => State.settlesAs_none polled (byData hb) trivial (onePayload rfl hb) (hnone _),
          fun p hb => State.settlesAs_none polled (byPart hb) trivial (onePayload rfl hb) (hnone _)⟩
      · have hcommand : e.function ≠ .continue_ := by rw [hf]; exact nofun
        have dataKeeps (p : Payload) := settledContinuation_command hcommand (k := some (.data p)) (fun _ => nofun) x.continuation
        have refuseKeeps := settledContinuation_command hcommand (k := some .refuse) (fun _ => nofun) x.continuation
        have hrefusal : z.calm e.function (some .refuse) := by rw [hf]; exact ⟨nofun, nofun⟩
        refine ⟨fun p hb hecho => ?_, fun r q i ent v f honly hvalve hline hrun hactive hflight htag _ hverified => ⟨fun p hb hecho => ?_,
          fun p hb hecho => ?_, ?_⟩⟩
        · have settled := State.settlesAs_notTaken polled (byData hb) trivial (onePayload rfl hb) hf
            (show stepEnding tag (endingOf (some (.data p))) = some .notTaken from congrArg some (if_neg hecho))
          rwa [dataKeeps p] at settled
        · have settled := State.settlesAs_stepTaken polled (byData hb) trivial (onePayload rfl hb) hf honly hvalve hrun hflight htag hverified
            (show stepEnding tag (endingOf (some (.data p))) = some .taken from congrArg some (if_pos hecho))
          rwa [dataKeeps p] at settled
        · exact State.settlesAs_stepTaken polled (byPart hb) trivial (onePayload rfl hb) hf honly hvalve hrun hflight htag hverified
            (show stepEnding tag (endingOf (some (.part p))) = some .taken from congrArg some (if_pos hecho))
        · have settled := State.settlesAs_stepRefused polled (byReply (k := .refuse) rfl) hrefusal (noPayload rfl) hf honly hvalve hrun hflight
            htag hverified hline hactive rfl
          rwa [refuseKeeps] at settled
      · intro r q i ent v hany honly hvalve hrun hblocked hpending settledValves
        have hcommand : e.function ≠ .continue_ := by rw [hf]; exact nofun
        have dataKeeps (p : Payload) := settledContinuation_command hcommand (k := some (.data p)) (fun _ => nofun) x.continuation
        have refuseKeeps := settledContinuation_command hcommand (k := some .refuse) (fun _ => nofun) x.continuation
        have hrefusal : z.calm e.function (some .refuse) := by rw [hf]; exact ⟨nofun, nofun⟩
        refine ⟨fun p hb => ?_, fun p hb => ?_, ?_⟩
        · have settled := State.settlesAs_stop polled (byData hb) trivial (onePayload rfl hb) hf hany honly hvalve hrun hblocked hpending
            (Or.inl rfl) rfl
          rwa [dataKeeps p] at settled
        · exact State.settlesAs_stop polled (byPart hb) trivial (onePayload rfl hb) hf hany honly hvalve hrun hblocked hpending (Or.inl rfl) rfl
        · have settled := State.settlesAs_stop polled (byReply (k := .refuse) rfl) hrefusal (noPayload rfl) hf hany honly hvalve hrun hblocked
            hpending (Or.inr rfl) rfl
          rwa [refuseKeeps] at settled

end Sys2Proof.Machine
end

section
/-! The band of a point (R56, R57) and the limits a LIMITS order gives it (R58). -/

namespace Sys2Proof.Machine

/-! ## How a band moves (R57) -/

section
variable {now : Time} {s : Settings} {cand held : Band} {pb : Option PendingBand}

theorem moveBand_held : moveBand now s held held pb = (held, none) := if_pos rfl

/-- R57: a band that needs no confirmation is taken at once. -/
theorem moveBand_unconfirmed (hne : cand ≠ held) (h : cand = .lowlow ∨ cand = .highhigh ∨ cand = .normal ∨
    (cand = .low ∧ held = .lowlow) ∨ (cand = .high ∧ held = .highhigh)) : moveBand now s cand held pb = (cand, none) := by
  unfold moveBand
  rw [if_neg hne]
  rcases h with rfl | rfl | rfl | ⟨rfl, rfl⟩ | ⟨rfl, rfl⟩ <;> rfl

/-- R57: LOW and HIGH, entered from elsewhere than their extreme, are confirmed, NORMAL standing meanwhile. -/
theorem moveBand_confirmed (hne : cand ≠ held) (h : cand = .low ∧ held ≠ .lowlow ∨ cand = .high ∧ held ≠ .highhigh) :
    moveBand now s cand held pb = confirmEntry now s cand .normal pb := by
  unfold moveBand
  rw [if_neg hne]
  rcases h with ⟨rfl, hheld⟩ | ⟨rfl, hheld⟩
  · cases held with
    | lowlow => exact absurd rfl hheld
    | _ => rfl
  · cases held with
    | highhigh => exact absurd rfl hheld
    | _ => rfl

/-- R57: the entry already pending is made when its confirm delay is over. -/
theorem confirmEntry_pending {p : PendingBand} (h : p.band = cand) (b : Band) :
    confirmEntry now s cand b (some p) = if p.since + 1000 * s.confirm ≤ now then (cand, none) else (b, some p) := if_pos h

/-- R57: an entry not yet pending starts its delay, or is made at once when there is none. -/
theorem confirmEntry_fresh (h : ∀ p, pb = some p → p.band ≠ cand) (b : Band) :
    confirmEntry now s cand b pb = if s.confirm = 0 then (cand, none) else (b, some { band := cand, since := now }) := by
  cases pb with
  | none => rfl
  | some p => exact if_neg (h p rfl)

end

/-- Settles O55: the candidate band is R56's table, row by row; the movement by whether the candidate is held, taken at once or confirmed. -/
theorem bandsFollowTheReading : Obligations.BandsFollowTheReading := by
  unfold Obligations.BandsFollowTheReading
  refine ⟨fun s v => ⟨rfl, rfl, rfl, rfl, rfl⟩, fun now s cand held pb => ⟨?_, moveBand_unconfirmed, fun hne h => ⟨?_, ?_⟩⟩⟩
  · rintro rfl
    exact moveBand_held
  · rintro p rfl hp
    rw [moveBand_confirmed hne h, confirmEntry_pending hp]
  · intro hfresh
    rw [moveBand_confirmed hne h, confirmEntry_fresh hfresh]

/-! ## LIMITS (R58) -/

/-- R58: the point with the values of a LIMITS, a pending band's delay restarted. -/
def Point.withLimits (now : Time) (b : LimitsBody) (q : Point) : Point :=
  { q with settings := limitsSettings b, pendingBand := q.pendingBand.map (fun pb => { pb with since := now }) }

/-- R58: the net in which point `b.point` has taken the values, its stale age not yet judged. -/
def Net.withLimits (b : LimitsBody) (n : Net) : Net :=
  (n.setPoint b.point.toNat (Point.withLimits n.now b)).mark .ordinary (.point b.point.toNat)

/-- R58: the values in range and in order; HH is in range by its width. -/
theorem limitsSettings_ok_iff (b : LimitsBody) :
    (limitsSettings b).ok = true ↔ b.ll.toNat < b.l.toNat ∧ b.l.toNat < b.h.toNat ∧ b.h.toNat < b.hh.toNat ∧
      2 * b.deadband.toNat < b.h.toNat - b.l.toNat ∧ b.confirm.toNat ≤ 60 ∧ 10 ≤ b.stale.toNat ∧ b.stale.toNat ≤ 3600 := by
  have hhh : b.hh.toNat ≤ 65535 := Nat.le_of_lt_succ b.hh.isLt
  simp only [Settings.ok, limitsSettings, decide_eq_true_eq, hhh, true_and]

section
variable {s : State} {n : Net} {i : Nat} {p : Post} {b : LimitsBody} {q : Point} {a : Answer}

/-- R158: a ready LIMITS order is answered by the point unit. -/
theorem State.serves_limits (h : s.ready i p (.limits b) = true) (htake : s.net.takeLimits b = (n, a)) (hlen : a.body.length ≤ 240) :
    ∃ t, exec (.limits p b) s = .next t ∧ s.Serves t i p (.limits b) a n := by
  have hrun : (s.begun i p (.limits b)).runOrder i (.limits b) = ({ s.begun i p (.limits b) with net := n }, .answered a) := by
    change onNetAnswer (Net.takeLimits b) (s.begun i p (.limits b)) = _
    unfold onNetAnswer
    rw [show (s.begun i p (.limits b)).net = s.net from rfl, htake]
  obtain ⟨t, ht, took, hnet, htod, hunset⟩ := s.takeOrder_answered i p (.limits b) a h nofun (by rw [hrun]) hlen
  rw [hrun] at hnet htod hunset
  exact ⟨t, ht, took, hnet, htod, hunset⟩

/-- R58: an absent point. -/
theorem Net.takeLimits_absent (h : n.points.length ≤ b.point.toNat) : n.takeLimits b = (n, .plain .noSuch) := if_pos h

/-- R58: bad values for a point of the part. -/
theorem Net.takeLimits_bad (hq : n.points[b.point.toNat]? = some q) (h : ¬ (limitsSettings b).ok = true) :
    n.takeLimits b = (n, .plain .badForm) := by
  have hpresent : ¬ n.points.length ≤ b.point.toNat := Nat.not_le.2 (List.getElem?_eq_some_iff.1 hq).1
  unfold Net.takeLimits
  rw [if_neg hpresent, if_neg h]

/-- R58: good values for a point of the part. -/
theorem Net.takeLimits_good (hq : n.points[b.point.toNat]? = some q) (h : (limitsSettings b).ok = true) :
    n.takeLimits b = ((n.withLimits b).takeStale b.point.toNat, .plain .done) := by
  have hpresent : ¬ n.points.length ≤ b.point.toNat := Nat.not_le.2 (List.getElem?_eq_some_iff.1 hq).1
  unfold Net.takeLimits
  rw [if_neg hpresent, if_pos h]
  rfl

theorem Net.withLimits_points (hq : n.points[b.point.toNat]? = some q) :
    (n.withLimits b).points = n.points.set b.point.toNat (q.withLimits n.now b) := List.modify_eq_set_of_getElem? _ hq

theorem Net.withLimits_getElem? (hq : n.points[b.point.toNat]? = some q) :
    (n.withLimits b).points[b.point.toNat]? = some (q.withLimits n.now b) := by
  rw [Net.withLimits_points hq, List.getElem?_set_self (List.getElem?_eq_some_iff.1 hq).1]

theorem Net.withLimits_eq (hq : n.points[b.point.toNat]? = some q) :
    n.withLimits b =
      { n with
        points := n.points.set b.point.toNat (q.withLimits n.now b)
        marks := n.marks.add .ordinary (.point b.point.toNat) } := by
  rw [← Net.withLimits_points hq]
  rfl

/-- R55: a point whose stale age is judged hands nothing on, whether or not it becomes STALE. -/
theorem Net.quiet_takeStale (k : Nat) (n : Net) : Net.Quiet n (n.takeStale k) := by
  have hplace : ∀ q : Point, ({ q with quality := .stale, pendingBand := none } : Point).place = q.place := fun _ => rfl
  unfold Net.takeStale
  split
  · exact (n.quiet_updatePoint hplace k).trans (overEach_quiet (fun z m => m.quiet_recompute z) _ _)
  · exact .rfl

/-- R55: a point short of its stale age stays as it is. -/
theorem Net.takeStale_young {k : Nat} (h : ¬ n.staleDue k = true) : n.takeStale k = n := if_neg h

end

/-- Settles O48: by whether the point is absent, its values bad, or good; and then by whether its new stale age has passed. -/
theorem limitsGiveAPointNewValues : Obligations.LimitsGiveAPointNewValues := by
  unfold Obligations.LimitsGiveAPointNewValues
  intro s i p b hready
  refine ⟨fun habsent => State.serves_limits hready (Net.takeLimits_absent habsent) (Nat.zero_le _),
    fun q hq => ⟨fun hbad => ?_, fun hgood => ?_⟩⟩
  · exact State.serves_limits hready (Net.takeLimits_bad hq (mt (limitsSettings_ok_iff b).1 hbad)) (Nat.zero_le _)
  · have served := State.serves_limits hready (Net.takeLimits_good hq ((limitsSettings_ok_iff b).2 hgood)) (Nat.zero_le _)
    have hpoint := Net.withLimits_getElem? hq
    have hdue := Net.staleDue_iff hpoint
    refine ⟨fun hyoung => ?_, fun hstale => ?_⟩
    · rw [Net.takeStale_young (mt hdue.1 hyoung), Net.withLimits_eq hq] at served
      exact served
    · obtain ⟨t, ht, serves⟩ := served
      obtain ⟨hpoints, unit⟩ := Net.takeStale_due hpoint (hdue.2 hstale)
      refine ⟨t, _, ht, serves, ?_, unit.stations, unit.valves, unit.lines, (Net.quiet_takeStale _ _).survey,
        unit.marks.marked _ (Marks.mem_add_ordinary _ _)⟩
      rw [hpoints, Net.withLimits_points hq, List.set_set]
      rfl

end Sys2Proof.Machine
end

section
/-! Feed surveys and trials: the reachable set (R66), the inputs of a trial's prefixes (R73) and the start of a survey (R68, R69). -/

namespace Sys2Proof.Machine

/-! ## The reachable set (R66) -/

/-- The valves that satisfy a test, as edges: what a real survey joins nodes by. -/
theorem mem_passingEdges (n : Net) (e : Nat × Nat) :
    e ∈ (n.valves.filter (fun v => v.passing = .passing)).map Valve.ends ↔ ∃ v ∈ n.valves, v.passing = .passing ∧ v.ends = e := by
  simp only [List.mem_map, List.mem_filter, decide_eq_true_eq, and_assoc]

/-- R66: the nodes joined to the LIVE sources by the passing valves are those of the inductive set. -/
theorem Net.reach_iff_feeds (n : Net) (x : Nat) :
    Reach n.zones.length ((n.valves.filter (fun v => v.passing = .passing)).map Valve.ends)
      ((idsWhere n.sources (fun s => s.state = .live)).map sourceNode) x ↔ n.Feeds x := by
  constructor
  · intro h
    induction h with
    | start x hx =>
      obtain ⟨i, hi, rfl⟩ := List.mem_map.1 hx
      obtain ⟨s, hs, hlive⟩ := (Net.mem_idsWhere _ _ _).1 hi
      exact .source i s hs (of_decide_eq_true hlive)
    | along e he _ hz ih =>
      obtain ⟨v, hv, hp, rfl⟩ := (mem_passingEdges n e).1 he
      exact .along v hv hp ih hz
    | against e he _ hz ih =>
      obtain ⟨v, hv, hp, rfl⟩ := (mem_passingEdges n e).1 he
      exact .against v hv hp ih hz
  · intro h
    induction h with
    | source i s hs hlive =>
      exact .start _ (List.mem_map.2 ⟨i, (Net.mem_idsWhere _ _ _).2 ⟨s, hs, decide_eq_true hlive⟩, rfl⟩)
    | along v hv hp _ hz ih => exact .along v.ends ((mem_passingEdges n _).2 ⟨v, hv, hp, rfl⟩) ih hz
    | against v hv hp _ hz ih => exact .against v.ends ((mem_passingEdges n _).2 ⟨v, hv, hp, rfl⟩) ih hz

/-- Settles O34: the computed set is the smallest one closed under joining (`mem_reachedZones`), over the passing valves and LIVE sources. -/
theorem surveyReachesTheReachableSet : Obligations.SurveyReachesTheReachableSet := by
  unfold Obligations.SurveyReachesTheReachableSet
  intro n _ z
  rw [Net.realResult, mem_reachedZones, n.reach_iff_feeds]

/-! ## The final target of a valve (R73) -/

/-- R73: the last of some entries that names a valve, with the target of its last step. -/
theorem finalTarget_eq_some_iff (es : List PlanEntry) (v t : Nat) : finalTarget es v = some t ↔ FinalTarget es v t := by
  unfold finalTarget FinalTarget
  simp only [Option.bind_eq_some_iff, Option.map_eq_some_iff]
  constructor
  · rintro ⟨e, he, st, hst, rfl⟩
    obtain ⟨ys, hys⟩ := List.getLast?_eq_some_iff.1 he
    obtain ⟨before, rest, rfl, -, hrest⟩ := List.filter_eq_append_iff.1 hys
    obtain ⟨mid, after, rfl, -, hv, hafter⟩ := List.filter_eq_cons_iff.1 hrest
    refine ⟨before ++ mid, e, after, st, by simp, of_decide_eq_true hv, fun d hd => ?_, hst, rfl⟩
    simpa using List.filter_eq_nil_iff.1 hafter d hd
  · rintro ⟨before, e, after, st, rfl, hv, hafter, hst, rfl⟩
    have hnone : after.filter (fun d => d.valve = v) = [] := List.filter_eq_nil_iff.2 fun d hd => by simpa using hafter d hd
    refine ⟨e, ?_, st, hst, rfl⟩
    rw [List.filter_append, List.filter_cons_of_pos (by simpa using hv), hnone, List.getLast?_append]
    rfl

/-! ## What a trial counts (R73) -/

/-- R73: the first rule of a prefix: a target of the subject's own entries. -/
theorem Net.ownTarget_iff (n : Net) (sub : Subject) (k v t : Nat) :
    finalTarget (n.subjectEntries sub k) v = some t ↔ n.OwnTarget sub k v t := by
  have hnil : finalTarget [] v = none := rfl
  unfold Net.OwnTarget Net.subjectEntries
  cases sub with
  | source => simp [hnil]
  | plan r =>
    cases hq : findRecord n.plans r with
    | none => simp [hnil, hq]
    | some q => simp [finalTarget_eq_some_iff, hq]

theorem PlanState.live_iff (s : PlanState) : s.live = true ↔ s = .active ∨ s = .holding ∨ s = .blocked := by cases s <;> decide

/-- R73: the target another plan gives a valve it claims. -/
def Net.otherTarget (n : Net) (sub : Subject) (v : Nat) : Option Nat :=
  ((n.valves[v]?).bind (·.claim)).bind (fun r =>
    if sub = .plan r then none
    else (findRecord n.plans r).bind (fun p => if p.state.live then finalTarget p.entries v else none))

/-- R73: the second rule: a target of another live plan that claims the valve. -/
theorem Net.otherTarget_eq_some_iff (n : Net) (sub : Subject) (v t : Nat) : n.otherTarget sub v = some t ↔ n.LiveTarget sub v t := by
  simp only [Net.otherTarget, Net.LiveTarget, Option.bind_eq_some_iff, Option.ite_none_left_eq_some, Option.ite_none_right_eq_some,
    PlanState.live_iff, finalTarget_eq_some_iff]
  constructor
  · rintro ⟨r, ⟨x, hx, hr⟩, hsub, q, hq, hlive, ht⟩
    exact ⟨x, r, q, hx, hr, hsub, hq, hlive, ht⟩
  · rintro ⟨x, r, q, hx, hr, hsub, hq, hlive, ht⟩
    exact ⟨r, ⟨x, hx, hr⟩, hsub, q, hq, hlive, ht⟩

/-- The three rules of R73, the second and third under the names of their conditions. -/
theorem Net.trialPassing_eq (n : Net) (sub : Subject) (k v : Nat) :
    n.trialPassing sub k v = match finalTarget (n.subjectEntries sub k) v with
      | some t => decide (t ≠ 0)
      | none =>
        match n.otherTarget sub v with
        | some t => decide (t ≠ 0)
        | none => (n.valves[v]?).any (fun x => x.passing = .passing) := by
  rfl

/-- R73: whether a valve counts as passing, by the first of the three rules that applies. -/
theorem Net.trialPassing_iff (n : Net) (sub : Subject) (k v : Nat) : n.trialPassing sub k v = true ↔ n.CountsPassing sub k v := by
  rw [Net.trialPassing_eq]
  simp only [Net.CountsPassing, ← Net.ownTarget_iff, ← Net.otherTarget_eq_some_iff]
  cases finalTarget (n.subjectEntries sub k) v with
  | some t => simp
  | none =>
    cases n.otherTarget sub v with
    | some t => simp
    | none => simp [Option.any_eq_true]

/-- R73: the sources counted LIVE. -/
theorem Net.mem_trialLive (n : Net) (sub : Subject) (i : Nat) : i ∈ n.trialLive sub ↔ n.CountsLive sub i := by
  rw [Net.trialLive, List.mem_filter, List.mem_range, Net.CountsLive]
  cases hx : n.sources[i]? with
  | none => simp [List.getElem?_eq_none_iff.1 hx]
  | some x =>
    have present : i < n.sources.length := (List.getElem?_eq_some_iff.1 hx).1
    cases sub with
    | plan r => simp [present]
    | source j target o r f =>
      by_cases hij : i = j
      · subst hij
        constructor
        · rintro ⟨-, hlive⟩
          exact ⟨x, rfl, Or.inl ⟨target, o, r, f, rfl, by simpa using hlive⟩⟩
        · rintro ⟨_, -, ⟨_, _, _, _, hsub, hlive⟩ | ⟨hother, -⟩⟩
          · cases hsub
            exact ⟨present, by simpa using hlive⟩
          · exact absurd rfl (hother target o r f)
      · simp [hij, Ne.symm hij, present]

/-- The valves a prefix counts as passing, as edges. -/
theorem Net.mem_trialEdges (n : Net) (sub : Subject) (k : Nat) (e : Nat × Nat) :
    e ∈ ((List.range n.valves.length).filter (n.trialPassing sub k)).filterMap (fun v => (n.valves[v]?).map Valve.ends) ↔
      ∃ v x, n.valves[v]? = some x ∧ n.CountsPassing sub k v ∧ x.ends = e := by
  simp only [List.mem_filterMap, List.mem_filter, List.mem_range, Option.map_eq_some_iff, Net.trialPassing_iff]
  constructor
  · rintro ⟨v, ⟨-, hc⟩, x, hx, rfl⟩
    exact ⟨v, x, hx, hc, rfl⟩
  · rintro ⟨v, x, hx, hc, rfl⟩
    exact ⟨v, ⟨(List.getElem?_eq_some_iff.1 hx).1, hc⟩, x, hx, rfl⟩

/-- R66, R73: the nodes reached in a prefix are those of the inductive set. -/
theorem Net.reach_iff_trialFeeds (n : Net) (sub : Subject) (k x : Nat) :
    Reach n.zones.length
      (((List.range n.valves.length).filter (n.trialPassing sub k)).filterMap (fun v => (n.valves[v]?).map Valve.ends))
      ((n.trialLive sub).map sourceNode) x ↔ n.TrialFeeds sub k x := by
  constructor
  · intro h
    induction h with
    | start x hx =>
      obtain ⟨i, hi, rfl⟩ := List.mem_map.1 hx
      exact .source i ((n.mem_trialLive sub i).1 hi)
    | along e he _ hz ih =>
      obtain ⟨v, x, hx, hc, rfl⟩ := (n.mem_trialEdges sub k e).1 he
      exact .along v x hx hc ih hz
    | against e he _ hz ih =>
      obtain ⟨v, x, hx, hc, rfl⟩ := (n.mem_trialEdges sub k e).1 he
      exact .against v x hx hc ih hz
  · intro h
    induction h with
    | source i hi => exact .start _ (List.mem_map.2 ⟨i, (n.mem_trialLive sub i).2 hi, rfl⟩)
    | along v x hx hc _ hz ih => exact .along x.ends ((n.mem_trialEdges sub k _).2 ⟨v, x, hx, hc, rfl⟩) ih hz
    | against v x hx hc _ hz ih => exact .against x.ends ((n.mem_trialEdges sub k _).2 ⟨v, x, hx, hc, rfl⟩) ih hz

theorem Net.prefixCount_eq (n : Net) (sub : Subject) : n.prefixCount sub = n.prefixes sub := by cases sub <;> rfl

theorem Net.trialResult_length (n : Net) (sub : Subject) : (n.trialResult sub).length = n.prefixes sub := by
  rw [Net.trialResult, List.length_map, List.length_range, Net.prefixCount_eq]

/-- R73: the result of prefix `k`, counted from 0. -/
theorem Net.trialResult_getElem? {n : Net} {sub : Subject} {k : Nat} {reached : List Nat} (h : (n.trialResult sub)[k]? = some reached) :
    reached = n.trialPrefix sub (k + 1) := by
  rw [Net.trialResult, List.getElem?_map, Option.map_eq_some_iff] at h
  obtain ⟨j, hj, rfl⟩ := h
  rw [(List.getElem?_eq_some_iff.1 hj).2.symm, List.getElem_range]

theorem Net.mem_trialPrefix (n : Net) (sub : Subject) (k z : Nat) :
    z ∈ n.trialPrefix sub k ↔ z < n.zones.length ∧ n.TrialFeeds sub k z := by
  rw [Net.trialPrefix, mem_reachedZones, n.reach_iff_trialFeeds]

/-! ## The start of a survey (R68, R69) -/

/-- R68: an idle engine in a mode in which surveys start. -/
theorem Net.surveyFree_iff (n : Net) :
    n.surveyFree = true ↔ (n.mode = .running ∨ n.mode = .detached) ∧ n.survey.inFlight = none ∧ n.survey.held = none := by
  simp only [Net.surveyFree, Survey.idle, Mode.surveys, Bool.and_eq_true, Option.isNone_iff_eq_none, decide_eq_true_eq]
  exact and_comm

/-- Settles O35: the two starts by whether the engine is free and what is owed or queued; a prefix by what it counts. -/
theorem surveysStartInOrder : Obligations.SurveysStartInOrder := by
  unfold Obligations.SurveysStartInOrder
  refine ⟨fun s => ⟨_, _, rfl, rfl, ?_⟩, fun n sub => ⟨n.trialResult_length sub, fun _ k reached h z => ?_⟩⟩
  · have real := s.onlyNet_onNet Net.startReal
    have trial := s.onlyNet_onNet Net.startTrial
    simp only [← Net.surveyFree_iff]
    refine ⟨fun h => ?_, fun hfree howed => ⟨?_, ?_⟩, fun h => ?_, fun sub rest hfree howed hq => ?_⟩
    · rwa [Net.startReal, if_neg h] at real
    · rwa [Net.startReal, if_pos ⟨hfree, howed⟩] at real
    · rwa [Net.startTrial, if_neg (by simp [howed])] at trial
    · by_cases hstart : s.net.surveyFree = true ∧ s.net.survey.pendingReal = false
      · rw [Net.startTrial, if_pos hstart, h.resolve_left (not_not.2 hstart.1)] at trial
        exact trial
      · rwa [Net.startTrial, if_neg hstart] at trial
    · rw [Net.startTrial, if_pos ⟨hfree, howed⟩, hq] at trial
      exact trial
  · rw [Net.trialResult_getElem? h, Net.mem_trialPrefix]

end Sys2Proof.Machine
end

section
/-! The judgement of a trial, prefix by prefix (R74). -/

namespace Sys2Proof.Machine

/-- R74: the zones that lose feed in a prefix, as the judgement lists them. -/
theorem Net.losesFeed_eq (n : Net) (r : List Nat) : n.losesFeed r = n.losing r := by
  rw [Net.losesFeed, idsWhere, List.filter_filter, Net.losing]
  exact List.filter_congr fun z _ => by rw [Bool.and_comm]

theorem Net.zoneRestoring_eq (n : Net) (z : Nat) : n.zoneRestoring z = (n.zoneOutage z).any (fun q => q.2.state = .restoring) := by
  unfold Net.zoneRestoring Net.zoneOutage
  cases (n.zones[z]?).bind (·.outage) with
  | none => rfl
  | some r => cases hr : findRecord n.outages r <;> simp [hr]

/-- R74: the zones a prefix refeeds without being allowed, as the judgement lists them. -/
theorem Net.refed_eq (n : Net) (flag : Bool) (r : List Nat) :
    (n.gainsFeed r).filter (fun z => !(flag && n.zoneRestoring z)) = n.refedUnallowed flag r := by
  rw [Net.gainsFeed, idsWhere, List.filter_filter, List.filter_filter, Net.refedUnallowed]
  exact List.filter_congr fun z _ => by rw [Net.zoneRestoring_eq, Bool.and_comm, Bool.and_assoc, Bool.and_comm (decide (z ∈ r))]

/-- R74: one prefix judged, by what the statements say of it. -/
theorem Net.judge_cons (n : Net) (flags : Bool × Bool) (losses r : List Nat) (rest : List (List Nat)) :
    n.judge flags losses (r :: rest) =
      if n.losing r ≠ [] ∧ flags.1 = false then .wouldIsolate (n.losing r)
      else if n.refedUnallowed flags.2 r ≠ [] then .wouldRefeed (n.refedUnallowed flags.2 r)
      else n.judge flags (losses ++ n.losing r) rest := by
  rw [← Net.losesFeed_eq, ← Net.refed_eq]
  rfl

/-- R74: a prefix that does not offend adds its losses. -/
theorem Net.judge_passes {n : Net} {flags : Bool × Bool} {r : List Nat} (h : ¬ n.Offends flags r) (losses : List Nat)
    (rest : List (List Nat)) : n.judge flags losses (r :: rest) = n.judge flags (losses ++ n.losing r) rest := by
  obtain ⟨hlost, hrefed⟩ := not_or.1 h
  rw [Net.judge_cons, if_neg fun k => hlost k.symm, if_neg hrefed]

/-- R74: a prefix that offends ends the judgement, its losses named ahead of its gains. -/
theorem Net.judge_offends {n : Net} {flags : Bool × Bool} {r : List Nat} (h : n.Offends flags r) (losses : List Nat)
    (rest : List (List Nat)) : n.judge flags losses (r :: rest) =
      if flags.1 = false ∧ n.losing r ≠ [] then .wouldIsolate (n.losing r) else .wouldRefeed (n.refedUnallowed flags.2 r) := by
  rw [Net.judge_cons]
  by_cases hlost : flags.1 = false ∧ n.losing r ≠ []
  · rw [if_pos hlost, if_pos hlost.symm]
  · rw [if_neg hlost, if_neg fun k => hlost k.symm, if_pos (h.resolve_left hlost)]

/-- R74: with no prefix that offends, the trial is accepted with the losses gathered so far and those of every prefix. -/
theorem Net.judge_accepts {n : Net} {flags : Bool × Bool} (prefixes : List (List Nat)) (h : ∀ r ∈ prefixes, ¬ n.Offends flags r)
    (losses : List Nat) : n.judge flags losses prefixes =
      .accepted ((List.range n.zones.length).filter (fun z => decide (z ∈ losses) || prefixes.any (fun r => decide (z ∈ n.losing r)))) := by
  induction prefixes generalizing losses with
  | nil => simp [Net.judge]
  | cons r rest ih =>
    rw [Net.judge_passes (h r List.mem_cons_self), ih fun q hq => h q (List.mem_cons_of_mem _ hq)]
    exact congrArg _ (List.filter_congr fun z _ => by simp [Bool.or_assoc])

/-- R74: the prefixes ahead of the first that offends only add their losses. -/
theorem Net.judge_first_offence {n : Net} {flags : Bool × Bool} (before : List (List Nat)) {r : List Nat} (after : List (List Nat))
    (hbefore : ∀ q ∈ before, ¬ n.Offends flags q) (h : n.Offends flags r) (losses : List Nat) :
    n.judge flags losses (before ++ r :: after) =
      if flags.1 = false ∧ n.losing r ≠ [] then .wouldIsolate (n.losing r) else .wouldRefeed (n.refedUnallowed flags.2 r) := by
  induction before generalizing losses with
  | nil => exact Net.judge_offends h losses after
  | cons q rest ih =>
    rw [List.cons_append, Net.judge_passes (hbefore q List.mem_cons_self), ih fun p hp => hbefore p (List.mem_cons_of_mem _ hp)]

/-- Settles O37: by whether some prefix offends. -/
theorem trialJudgesPrefixesInOrder : Obligations.TrialJudgesPrefixesInOrder := by
  unfold Obligations.TrialJudgesPrefixesInOrder
  refine fun n flags prefixes => ⟨fun h => ?_, fun before r after e hbefore hr => ?_⟩
  · simpa using Net.judge_accepts prefixes h []
  · rw [e, Net.judge_first_offence before after hbefore hr]

end Sys2Proof.Machine
end

section
/-! The SOURCE order (R76): what the survey engine makes of it, and an order that stalls (R159). -/

namespace Sys2Proof.Machine

/-! ## An order that stalls (R159) -/

section
variable {s : State} {i : Nat} {p : Post} {o : Order}

/-- R158: a ready order other than a LEND is turned TAKEN and handed to its owner. -/
theorem State.serveFolio_begun (hreach : s.exch.reachable = true) (hL : o ≠ .lend) :
    ((s.hostPosts i p o).setExch (fun x => { x with lent := x.lent.filter (fun j => j ≠ i), cursor := some i })).serveFolio i (.order o) =
      State.settleOrder i ((s.begun i p o).runOrder i o) := by
  have hbegun : ((s.hostPosts i p o).setExch (fun x => { x with lent := x.lent.filter (fun j => j ≠ i), cursor := some i })).setTurn i
      turnTaken = s.begun i p o := if_pos hreach
  rw [← hbegun]
  cases o <;> first | exact absurd rfl hL | rfl

/-- R158: the host's header stands in a folio turned TAKEN. -/
theorem State.headerKept_begun {t : State} (ho : o.bytes.length ≤ 240) (hmem : t.mem = (s.begun i p o).mem)
    (hbase : t.exch.base = s.exch.base) :
    t.mem.read (t.folioAddr i) = 2 ∧ t.HeaderKept i p o ∧
      ∀ a, a < s.folioAddr i ∨ s.folioAddr i + Config.folioBytes ≤ a → t.mem.read a = s.mem.read a := by
  have haddr : t.folioAddr i = s.folioAddr i := by rw [State.folioAddr, hbase]; rfl
  obtain ⟨hturn, hkind, hflags, hlow, hhigh, hout⟩ := Memory.posted_bytes s.mem (s.folioAddr i) p o ho
  rw [haddr, hmem]
  refine ⟨hturn, ⟨?_, ?_, ?_⟩, hout⟩ <;> rw [haddr, hmem]
  · exact hkind
  · rw [show (s.begun i p o).mem.read (s.folioAddr i + 2) = _ from hflags]
    cases p.notify <;> rfl
  · calc leNat [(s.begun i p o).mem.read (s.folioAddr i + 4), (s.begun i p o).mem.read (s.folioAddr i + 4 + 1)]
        = leNat [p.link.extractLsb' 0 8, p.link.extractLsb' 8 8] := by
          rw [show (s.begun i p o).mem.read (s.folioAddr i + 4) = _ from hlow, show (s.begun i p o).mem.read (s.folioAddr i + 4 + 1) = _ from hhigh]
      _ = p.link.toNat := leNat_halfBytes p.link

theorem State.stallSweep_exch (st : Stalled) (s : State) : (s.stallSweep st).exch =
    { s.exch with
      stall := some st, sweep := none, sweepOwed := false, sweepTimer := some (s.net.now + s.exch.sweepInterval) } := rfl

/-- R159: a ready order whose owner finds no place for its trial. -/
theorem State.takeOrder_stalled {st : Stalled} (h : s.ready i p o = true) (hL : o ≠ .lend)
    (hst : ((s.begun i p o).runOrder i o).2 = .stalled st) (hnow : ((s.begun i p o).runOrder i o).1.net.now = s.net.now) :
    ∃ t, (s.takeOrder p o).concluded = .next t ∧ s.TookStalled t i p o st ∧ t.net = ((s.begun i p o).runOrder i o).1.net ∧
      t.tod = ((s.begun i p o).runOrder i o).1.tod ∧ t.timeUnset = ((s.begun i p o).runOrder i o).1.timeUnset := by
  have hstart := State.takeOrder_ready s i p o h
  unfold State.ready at h
  simp only [Bool.and_eq_true, decide_eq_true_eq] at h
  obtain ⟨⟨⟨⟨-, hreach, -, -⟩, -⟩, hbytes, hbody⟩, -⟩ := h
  obtain ⟨hmem, hexch, hreport, hpending⟩ := State.runOrder_owner i o (s.begun i p o)
  rw [State.serveFolio_begun hreach hL] at hstart
  generalize (s.begun i p o).runOrder i o = q at *
  obtain ⟨q, res⟩ := q
  cases hst
  dsimp only at hmem hexch hreport hpending hnow
  have htake : s.takeOrder p o = q.stallSweep st := hstart
  have judged := State.onlyNet_self (q.stallSweep st)
  refine ⟨(s.takeOrder p o).judgeStarved, rfl, ?_⟩
  rw [htake]
  have hexch' : (q.stallSweep st).judgeStarved.exch =
      { s.exch with
        lent := s.exch.lent.filter (fun j => j ≠ i), cursor := some i, stall := some st, sweep := none, sweepOwed := false
        sweepTimer := some (s.net.now + s.exch.sweepInterval), cause := causeAfter s (q.stallSweep st).judgeStarved false } := by
    rw [judged.exch, causeAfter, State.stallSweep_exch, hexch, hnow]
    rfl
  obtain ⟨hturn, hheader, hout⟩ := State.headerKept_begun (t := (q.stallSweep st).judgeStarved) (Nat.le_trans hbytes hbody)
    (judged.memory.trans hmem) (by rw [hexch'])
  exact ⟨⟨hexch', judged.report.trans hreport, judged.pending.trans hpending, hout, hturn, hheader⟩, judged.net, judged.clock.1, judged.clock.2⟩

end

/-- The body of a trial's answer: five bytes, and one for each zone. -/
theorem trialBody_length (slot entry : Nat) (serial : Half) (zs : List Nat) : (trialBody slot entry serial zs).length = 5 + zs.length := by
  have hzones : ((zs.map (out 1)).flatten).length = zs.length := by
    induction zs with
    | nil => rfl
    | cons z rest ih => rw [List.map_cons, List.flatten_cons, List.length_append, ih, List.length_cons, Nat.add_comm]; rfl
  unfold trialBody
  simp only [List.length_append, hzones]
  rfl

/-! ## SOURCE taken by the survey engine (R72, R76) -/

section
variable {n : Net} {b : SourceBody} {f : Nat} {x : Source}

/-- R76: the target state an order names, where it names one. -/
theorem SourceState.ofCode_eq (k : Nat) :
    SourceState.ofCode k = if 1 < k then none else some (if k = 0 then .live else .out) := by
  match k with
  | 0 | 1 => rfl
  | k + 2 => rw [if_pos (by omega)]; rfl

theorem Net.takeSource_badTarget (h : 1 < b.target.toNat) : n.takeSource b f = (n, .answered (.plain .badForm)) := by
  unfold Net.takeSource
  rw [SourceState.ofCode_eq, if_pos h]

theorem Net.takeSource_absent (h : b.target.toNat ≤ 1) (hx : n.sources.length ≤ b.source.toNat) :
    n.takeSource b f = (n, .answered (.plain .noSuch)) := by
  unfold Net.takeSource
  rw [SourceState.ofCode_eq, if_neg (Nat.not_lt.2 h), List.getElem?_eq_none hx]

/-- R76: the state a SOURCE order asks for. -/
def sourceTarget (b : SourceBody) : SourceState := if b.target.toNat = 0 then .live else .out

theorem Net.takeSource_held (h : b.target.toNat ≤ 1) (hx : n.sources[b.source.toNat]? = some x) (hs : x.state = sourceTarget b) :
    n.takeSource b f = (n, .answered (.withBody .accepted (trialBody b.source.toNat 0 0 []))) := by
  unfold Net.takeSource
  rw [SourceState.ofCode_eq, if_neg (Nat.not_lt.2 h), hx]
  exact if_pos hs

theorem Net.takeSource_offers (h : b.target.toNat ≤ 1) (hx : n.sources[b.source.toNat]? = some x) (hs : x.state ≠ sourceTarget b) :
    n.takeSource b f = n.offerSource b.source.toNat (sourceTarget b) (b.flags.getLsbD 0) (b.flags.getLsbD 1) f := by
  unfold Net.takeSource
  rw [SourceState.ofCode_eq, if_neg (Nat.not_lt.2 h), hx]
  exact if_neg hs

/-- R72: a trial queued at the tail while there are fewer than 4. -/
theorem Net.offerTrial_room {sub : Subject} (h : n.survey.queue.length < 4) :
    n.offerTrial sub = some { n with survey := { n.survey with queue := n.survey.queue ++ [sub] } } := if_pos h

theorem Net.offerTrial_full {sub : Subject} (h : 4 ≤ n.survey.queue.length) : n.offerTrial sub = none := if_neg (Nat.not_lt.2 h)

end

/-! ## The order's event -/

section
variable {s : State} {i : Nat} {p : Post} {b : SourceBody} {n : Net}

theorem State.runOrder_source (s : State) (i : Nat) (p : Post) (b : SourceBody) {n : Net} {r : OrderResult}
    (h : s.net.takeSource b i = (n, r)) :
    (s.begun i p (.source b)).runOrder i (.source b) = ({ s.begun i p (.source b) with net := n }, r) := by
  change onNetResult (Net.takeSource b i) (s.begun i p (.source b)) = _
  unfold onNetResult
  rw [show (s.begun i p (.source b)).net = s.net from rfl, h]

/-- R76: a SOURCE order answered at once changes nothing. -/
theorem State.refuses_source {a : Answer} (h : s.ready i p (.source b) = true) (htake : s.net.takeSource b i = (s.net, .answered a))
    (hlen : a.body.length ≤ 240) : ∃ t, exec (.source p b) s = .next t ∧ s.Refuses t i p (.source b) a := by
  have hrun := s.runOrder_source i p b htake
  obtain ⟨t, ht, took, hnet, htod, hunset⟩ := s.takeOrder_answered i p (.source b) a h nofun (by rw [hrun]) hlen
  rw [hrun] at hnet htod hunset
  exact ⟨t, ht, took, hnet, htod, hunset⟩

end

/-- Settles O33: by the target, the source, the state it is in, and the room in the trial queue. -/
theorem sourceOrderQueuesATrial : Obligations.SourceOrderQueuesATrial := by
  unfold Obligations.SourceOrderQueuesATrial
  intro s i p b hready
  refine ⟨fun hbad => ?_, fun hgood habsent => ?_, fun x hgood hx => ⟨fun hheld => ?_, fun hother hroom => ?_, fun hother hfull => ?_⟩⟩
  · exact State.refuses_source hready (Net.takeSource_badTarget hbad) (Nat.zero_le _)
  · exact State.refuses_source hready (Net.takeSource_absent hgood habsent) (Nat.zero_le _)
  · exact State.refuses_source hready (Net.takeSource_held hgood hx hheld) (by rw [Answer.withBody, trialBody_length]; decide)
  · have htake := Net.takeSource_offers (f := i) hgood hx hother
    rw [Net.offerSource, Net.offerTrial_room hroom] at htake
    have hrun := s.runOrder_source i p b htake
    obtain ⟨t, ht, took, hnet, htod, hunset⟩ := s.takeOrder_pending i p (.source b) hready nofun (by rw [hrun])
    rw [hrun] at hnet htod hunset
    exact ⟨t, ht, took, ⟨htod, hunset⟩, hnet⟩
  · have htake := Net.takeSource_offers (f := i) hgood hx hother
    rw [Net.offerSource, Net.offerTrial_full hfull] at htake
    have hrun := s.runOrder_source i p b htake
    obtain ⟨t, ht, took, hnet, htod, hunset⟩ := State.takeOrder_stalled hready nofun (congrArg Prod.snd hrun) (by rw [hrun])
    rw [hrun] at hnet htod hunset
    exact ⟨t, ht, hnet, ⟨htod, hunset⟩, took⟩

end Sys2Proof.Machine
end

section
/-! Every command answers a next state and leaves the queue; a zone's fed-state changes only where a survey's completion is applied or a start
builds or discards the network (R65, R70, R71). One relation says both (`State.Leaves`), for each operation of the state once. -/

namespace Sys2Proof.Machine

/-! ## The fed-states under operations of the net -/

/-- R65: every zone as fed as it was. -/
structure Net.SameFed (a b : Net) : Prop where
  fed : b.zones.map Zone.fed = a.zones.map Zone.fed

theorem Net.SameFed.rfl {a : Net} : a.SameFed a := ⟨Eq.refl _⟩

theorem Net.SameFed.trans {a b c : Net} (h : a.SameFed b) (k : b.SameFed c) : a.SameFed c := ⟨k.fed.trans h.fed⟩

/-- An operation that leaves the zones alone. -/
theorem Net.SameFed.of_zones {a b : Net} (h : b.zones = a.zones) : a.SameFed b := ⟨congrArg (List.map Zone.fed) h⟩

/-- A frame with the zones keeps their fed-states. -/
theorem Net.Frame.sameFed {a b : Net} (h : Net.Frame true a b) : a.SameFed b := by
  refine ⟨?_⟩
  simpa [Function.comp_def, Zone.ground] using congrArg (List.map Prod.fst) (h.zones (Eq.refl _))

theorem Net.sameFed_setZone {f : Zone → Zone} (hf : ∀ x, (f x).fed = x.fed) (z : Nat) (n : Net) : n.SameFed (n.setZone z f) :=
  ⟨List.map_modify_of_view Zone.fed n.zones z f hf⟩

theorem overEach_sameFed {α : Type} {f : α → Net → Net} (hf : ∀ x n, Net.SameFed n (f x n)) (xs : List α) (n : Net) :
    n.SameFed (overEach f xs n) := by
  unfold overEach
  induction xs generalizing n with
  | nil => exact .rfl
  | cons x xs ih => exact (hf x n).trans (ih (f x n))

theorem Net.sameFed_supplyZone (z : Nat) (n : Net) : n.SameFed (n.supplyZone z) := by
  have set := n.sameFed_setZone (f := fun x => { x with supply := .supplied, outage := none }) (fun _ => rfl) z
  unfold Net.supplyZone
  dsimp only
  split <;> exact ⟨set.fed⟩

theorem Net.sameFed_repressurise (z : Nat) (n : Net) : n.SameFed (n.repressurise z) := by
  have set := n.sameFed_setZone (f := fun x => { x with supply := .repressurised }) (fun _ => rfl) z
  unfold Net.repressurise
  dsimp only
  split
  · exact set.trans (Net.sameFed_supplyZone z _)
  · exact set

/-- R141: a RESTORE changes supply states only. -/
theorem Net.sameFed_takeRestore (r : Ref) (n : Net) : n.SameFed (n.takeRestore r).1 := by
  have restored (o : Outage) : n.SameFed (n.restoreOutage r.slot o) := by
    unfold Net.restoreOutage
    dsimp only
    refine .trans (b := overEach (fun z n => (n.repressurise z).mark .ordinary (.zone z)) _ _) ?_
      (overEach_frame (fun _ _ k => Net.judgeSupplied_frame k) .rfl).sameFed
    exact ⟨(overEach_sameFed (f := fun z m => (m.repressurise z).mark .ordinary (.zone z)) (fun z m => ⟨(m.sameFed_repressurise z).fed⟩) _
      _).fed⟩
  unfold Net.takeRestore
  split
  · exact .rfl
  · split
    · exact restored _
    · exact .rfl

/-- R143: a RELIGHT changes supply states only. -/
theorem Net.sameFed_takeRelight (b : RelightBody) (n : Net) : n.SameFed (n.takeRelight b).1 := by
  have counted (z count : Nat) (x : Zone) : n.SameFed (n.relight z count x) := by
    have supplied (m : Net) (hm : m.zones = n.zones) : n.SameFed ((m.supplyZone z).judgeSupplied z) :=
      (Net.SameFed.of_zones hm).trans ((m.sameFed_supplyZone z).trans (Net.judgeSupplied_frame .rfl).sameFed)
    unfold Net.relight
    dsimp only
    split
    · exact supplied _ (by split <;> rfl)
    · split <;> exact .of_zones rfl
  unfold Net.takeRelight
  dsimp only
  split
  · exact .rfl
  · split
    · exact .rfl
    · split
      · exact .rfl
      · exact counted _ _ _

/-! ## What an operation of the state leaves -/

/-- The queue stands; and, where `keeps` says so, every zone's fed-state. -/
structure State.Leaves (keeps : Bool) (s t : State) : Prop where
  pending : t.pending = s.pending
  fed : keeps = true → s.net.SameFed t.net

section
variable {keeps : Bool} {s t u : State}

theorem State.Leaves.rfl : s.Leaves keeps s := ⟨Eq.refl _, fun _ => .rfl⟩

theorem State.Leaves.trans (h : s.Leaves keeps t) (k : t.Leaves keeps u) : s.Leaves keeps u :=
  ⟨k.pending.trans h.pending, fun e => (h.fed e).trans (k.fed e)⟩

theorem State.Leaves.ite {c : Prop} [Decidable c] (h : s.Leaves keeps t) (k : s.Leaves keeps u) : s.Leaves keeps (if c then t else u) := by
  split
  · exact h
  · exact k

/-- An operation that leaves the net alone. -/
theorem State.leaves_of_net (hp : t.pending = s.pending) (hn : t.net = s.net) : s.Leaves keeps t := ⟨hp, fun _ => by rw [hn]; exact .rfl⟩

theorem State.leaves_onNet {f : Net → Net} (h : s.net.SameFed (f s.net)) : s.Leaves keeps (s.onNet f) := ⟨Eq.refl _, fun _ => h⟩

/-- An operation of the net that keeps every zone's ground fields. -/
theorem State.leaves_frame {f : Net → Net} (h : Net.Frame true s.net (f s.net)) : s.Leaves keeps (s.onNet f) := State.leaves_onNet h.sameFed

theorem State.leaves_setExch (f : Exchange → Exchange) (s : State) : s.Leaves keeps (s.setExch f) := State.leaves_of_net (Eq.refl _) (Eq.refl _)

theorem State.leaves_setReport (f : ReportUnit → ReportUnit) (s : State) : s.Leaves keeps (s.setReport f) :=
  State.leaves_of_net (Eq.refl _) (Eq.refl _)

theorem State.leaves_latch (c : Cause) (s : State) : s.Leaves keeps (s.latch c) := State.leaves_of_net (Eq.refl _) (Eq.refl _)

theorem State.leaves_store (stores : List HostStore) (s : State) : s.Leaves keeps (s.store stores) := State.leaves_of_net (Eq.refl _) (Eq.refl _)

theorem State.leaves_put (a : Nat) (bs : List OutByte) (s : State) : s.Leaves keeps (s.put a bs) := by
  unfold State.put
  exact .ite (State.leaves_of_net (Eq.refl _) (Eq.refl _)) .rfl

theorem State.put_net (a : Nat) (bs : List OutByte) (s : State) : (s.put a bs).net = s.net := by unfold State.put; split <;> exact Eq.refl _

theorem State.setTurn_net (i turn : Nat) (s : State) : (s.setTurn i turn).net = s.net := State.put_net _ _ s

theorem State.writeReturned_net (i count : Nat) (s : State) : (s.writeReturned i count).net = s.net :=
  (State.setTurn_net _ _ _).trans (State.put_net _ _ s)

theorem State.writeAnswer_net (r : Reply) (s : State) : (s.writeAnswer r).net = s.net := by
  unfold State.writeAnswer
  dsimp only
  split
  · split <;> exact (State.setTurn_net _ _ _).trans (State.put_net _ _ s)
  · exact Eq.refl _

theorem State.leaves_setTurn (i turn : Nat) (s : State) : s.Leaves keeps (s.setTurn i turn) := State.leaves_put _ _ s

theorem State.leaves_judgeStarved (s : State) : s.Leaves keeps s.judgeStarved := by
  unfold State.judgeStarved
  exact .ite (State.leaves_latch _ s) .rfl

theorem overEach_leaves {α : Type} {f : α → State → State} (hf : ∀ (x : α) (s : State), s.Leaves keeps (f x s)) (xs : List α) (s : State) :
    s.Leaves keeps (overEach f xs s) := by
  unfold overEach
  induction xs generalizing s with
  | nil => exact .rfl
  | cons x xs ih => exact (hf x s).trans (ih (f x s))

/-! ### Answers and the folio being filled -/

theorem State.leaves_writeAnswer (r : Reply) (s : State) : s.Leaves keeps (s.writeAnswer r) := by
  have written (bs : List OutByte) :
      s.Leaves keeps ((s.put (s.folioAddr r.folio + 2) bs).setTurn r.folio turnAnswered) :=
    (State.leaves_put _ _ s).trans (State.leaves_setTurn _ _ _)
  unfold State.writeAnswer
  dsimp only
  exact .ite (.ite ((written _).trans (State.leaves_latch _ _)) (written _)) .rfl

theorem State.leaves_endInProgress (s : State) : s.Leaves keeps s.endInProgress := by
  unfold State.endInProgress
  split
  · exact (State.leaves_setReport _ s).trans (State.leaves_frame (Net.mark_frame .rfl))
  · exact .rfl

theorem State.leaves_loseFolio (s : State) : s.Leaves keeps s.loseFolio := by
  unfold State.loseFolio
  split
  · exact .rfl
  · refine .trans (.trans (.trans (State.leaves_frame ?_) (State.leaves_endInProgress _)) (State.leaves_frame ?_)) (State.leaves_setReport _ _)
    · exact overEach_frame (fun _ _ h => Net.mark_frame h) .rfl
    · exact overEach_frame (fun _ _ h => Net.unretire_frame h) .rfl

theorem State.leaves_takeLent (s : State) : s.Leaves keeps s.takeLent := by
  unfold State.takeLent
  split
  · exact (State.leaves_setExch _ s).trans (State.leaves_setReport _ _)
  · exact .rfl

theorem State.leaves_writeShare (f : Nat) (p : ReportInProgress) (s : State) : s.Leaves keeps (s.writeShare f p) := by
  have shared (g : ReportUnit → ReportUnit) (a : Nat) (bs : List OutByte) : s.Leaves keeps ((s.put a bs).setReport g) :=
    (State.leaves_put a bs s).trans (State.leaves_setReport g _)
  have unmarked (g : ReportUnit → ReportUnit) (a : Nat) (bs : List OutByte) :
      s.Leaves keeps (if s.report.inProgress.isSome then (s.put a bs).setReport g
        else ((s.put a bs).setReport g).onNet (fun n => { n with marks := n.marks.remove p.record })) :=
    .ite (shared _ _ _) ((shared _ _ _).trans (State.leaves_onNet (.of_zones rfl)))
  unfold State.writeShare
  dsimp only
  exact .ite ((unmarked _ _ _).trans (State.leaves_frame (Net.retire_frame .rfl))) (unmarked _ _ _)

theorem State.leaves_writeNext (e : s.writeNext = some t) : s.Leaves keeps t := by
  unfold State.writeNext at e
  split at e
  · split at e <;> cases e <;> exact State.leaves_writeShare _ _ s
  · cases e
    exact .rfl

theorem State.leaves_writeReturned (i count : Nat) (s : State) : s.Leaves keeps (s.writeReturned i count) :=
  (State.leaves_put _ _ s).trans (State.leaves_setTurn _ _ _)

theorem Net.vacate_survey (r : RecordName) (n : Net) : (n.vacate r).survey = n.survey := by unfold Net.vacate; split <;> exact Eq.refl _

/-- An operation repeated over a list keeps a view of the net that it keeps once. -/
theorem overEach_view {α β : Type} (g : Net → β) {f : α → Net → Net} (hf : ∀ x n, g (f x n) = g n) (xs : List α) (n : Net) :
    g (overEach f xs n) = g n := by
  unfold overEach
  induction xs generalizing n with
  | nil => exact Eq.refl _
  | cons x xs ih => exact (ih (f x n)).trans (hf x n)

/-- R71, R145: with no completion held a freed outage slot lets nothing be applied. -/
theorem Net.sameFed_freeRetired (rs : List Retiring) {n : Net} (h : n.survey.held = none) : n.SameFed (n.freeRetired rs) := by
  have vacated : Net.Frame true n (overEach (fun (r : Retiring) n => n.vacate r.record) rs n) :=
    overEach_frame (fun _ _ k => Net.vacate_frame k) .rfl
  have held : (overEach (fun (r : Retiring) n => n.vacate r.record) rs n).survey = n.survey :=
    overEach_view Net.survey (fun r m => m.vacate_survey r.record) rs n
  unfold Net.freeRetired
  dsimp only
  split
  · unfold Net.outageSlotFreed
    rw [held, h]
    exact vacated.sameFed
  · exact vacated.sameFed

theorem State.leaves_freeRetired (rs : List Retiring) (h : keeps = true → s.net.survey.held = none) :
    s.Leaves keeps (s.onNet (Net.freeRetired rs)) :=
  ⟨Eq.refl _, fun hk => Net.sameFed_freeRetired rs (h hk)⟩

/-- R171: a folio returned; a completion held may then be applied (R71). -/
theorem State.leaves_returnFolio (h : keeps = true → s.net.survey.held = none) : s.Leaves keeps s.returnFolio := by
  unfold State.returnFolio
  split
  · exact .rfl
  · next f _ =>
    have latched : s.Leaves keeps ((s.writeReturned f s.report.count).latch .return_) :=
      (State.leaves_writeReturned _ _ s).trans (State.leaves_latch _ _)
    dsimp only
    refine .trans (.trans (.ite (latched.trans (State.leaves_latch _ _)) latched) (State.leaves_setReport _ _))
      (State.leaves_freeRetired _ fun hk => ?_)
    have hnet : (s.writeReturned f s.report.count).net = s.net := State.writeReturned_net f s.report.count s
    rw [State.setReport_net]
    split <;> exact (congrArg (fun n => n.survey.held) hnet).trans (h hk)

/-- R175: the drain; a completion held may be applied with the folio it returns. -/
theorem State.leaves_returnLent (is : List Nat) (s : State) : s.Leaves keeps (State.returnLent is s) := by
  induction is generalizing s with
  | nil => exact State.leaves_setExch _ s
  | cons i rest ih => exact ((State.leaves_writeReturned i 0 s).trans (State.leaves_latch _ _)).trans (ih _)

theorem State.leaves_drain (h : keeps = true → s.net.survey.held = none) : s.Leaves keeps s.drain := by
  unfold State.drain State.finishDrain
  exact .ite ((((State.leaves_returnFolio h).trans (State.leaves_endInProgress _)).trans (State.leaves_returnLent _ _)).trans
    (State.leaves_setReport _ _)) .rfl

theorem State.leaves_drainedBefore (k : Nat) (s : State) : s.Leaves false (s.drainedBefore k) := by
  unfold State.drainedBefore State.finishedBefore
  refine .ite ?_ .rfl
  split
  · exact .rfl
  · exact ((State.leaves_returnFolio (keeps := false) nofun).trans (State.leaves_endInProgress _)).trans (State.leaves_returnLent _ _)
  · exact (State.leaves_endInProgress s).trans (State.leaves_returnLent _ _)

theorem State.leaves_returnedBefore (due : Bool) (k : Nat) (s : State) : s.Leaves false (s.returnedBefore due k) := by
  unfold State.returnedBefore
  split
  · exact .rfl
  · exact (State.leaves_returnFolio (keeps := false) nofun).trans (State.leaves_drainedBefore _ _)
  · exact State.leaves_drainedBefore _ _

theorem State.leaves_writtenBefore (k : Nat) (s : State) : s.Leaves false (s.writtenBefore k) := by
  unfold State.writtenBefore
  split
  · next e => exact ((State.leaves_takeLent s).trans (State.leaves_writeNext e)).trans (State.leaves_returnedBefore _ _ _)
  · exact (State.leaves_takeLent s).trans (State.leaves_returnedBefore _ _ _)

/-- R169 to R171: a write of a report, with the return that may follow. -/
theorem State.leaves_writeReport (s : State) : s.Leaves false s.writeReport := by
  unfold State.writeReport
  refine .ite ?_ .rfl
  split
  · next e =>
    have written : s.Leaves false _ := (State.leaves_takeLent s).trans (State.leaves_writeNext e)
    exact .ite (written.trans (State.leaves_returnFolio nofun)) written
  · exact (State.leaves_takeLent s).trans (State.leaves_returnFolio nofun)

/-! ### Orders -/

theorem State.leaves_runOrder (i : Nat) (o : Order) (s : State) : s.Leaves keeps (s.runOrder i o).1 := by
  refine ⟨(State.runOrder_owner i o s).pending, fun _ => ?_⟩
  unfold State.runOrder onNetAnswer onNetAnswerLines onNetResult
  cases o with dsimp only
  | call b => exact (Net.takeCall_frame .rfl).sameFed
  | act b => exact (Net.takeAct_frame .rfl).sameFed
  | plan b => exact (Net.takePlan_frame .rfl).sameFed
  | proceed b => exact (Net.arbitrateAll_frame (Net.takeProceed_frame .rfl)).sameFed
  | abandon b => exact (Net.arbitrateAll_frame (Net.takeAbandon_frame .rfl)).sameFed
  | restore b => exact Net.sameFed_takeRestore _ _
  | relight b => exact Net.sameFed_takeRelight _ _
  | valveNote b => exact (Net.takeNote_frame .rfl).sameFed
  | source b => exact (Net.takeSource_frame .rfl).sameFed
  | line b => exact (Net.arbitrateAll_frame (Net.takeLine_frame .rfl)).sameFed
  | limits b => exact (Net.takeLimits_frame .rfl).sameFed
  | clock b =>
    unfold State.takeClock
    split <;> exact .rfl
  | lend | query => exact .rfl

theorem State.leaves_reclaim (i : Nat) (s : State) : s.Leaves keeps (s.reclaim i) := by
  have cleared : s.Leaves keeps (s.setExch (fun x => { x with lent := x.lent.filter (fun j => j ≠ i), cursor := some i })) :=
    State.leaves_setExch _ s
  unfold State.reclaim
  exact .trans (.ite (cleared.trans (State.leaves_loseFolio _)) cleared) (State.leaves_frame (Net.loseOrderFolio_frame .rfl))

theorem State.leaves_settleOrder (i : Nat) (q : State × OrderResult) : q.1.Leaves keeps (State.settleOrder i q) := by
  unfold State.settleOrder
  split
  · exact State.leaves_writeAnswer _ _
  · exact .rfl
  · exact State.leaves_of_net (Eq.refl _) (Eq.refl _)

theorem State.leaves_serveFolio (i : Nat) (o : PostedOrder) (s : State) : s.Leaves keeps (s.serveFolio i o) := by
  unfold State.serveFolio
  split
  · exact State.leaves_writeAnswer _ s
  · exact (State.leaves_setTurn i turnTaken s).trans (State.leaves_settleOrder i (_, _))
  · unfold State.lend
    exact .ite ((State.leaves_setTurn i turnLent s).trans (State.leaves_setExch _ _)) (State.leaves_writeAnswer _ s)
  · exact ((State.leaves_setTurn i turnTaken s).trans (State.leaves_runOrder i _ _)).trans (State.leaves_settleOrder i _)

/-! ### Exchange faults and sweeps -/

theorem State.leaves_dropStall (s : State) : s.Leaves keeps s.dropStall := by
  unfold State.dropStall
  refine .trans ?_ (State.leaves_setExch _ _)
  split
  · split
    · exact State.leaves_frame (Net.freePlan_frame .rfl)
    · exact .rfl
  · exact .rfl

theorem State.leaves_exchangeFault (c : FaultCode) (s : State) : s.Leaves keeps (s.exchangeFault c) := by
  have common : s.Leaves keeps (s.faultCommon c) :=
    ((State.leaves_setExch _ s).trans (State.leaves_latch _ _)).trans (State.leaves_loseFolio _)
  unfold State.exchangeFault
  split
  · exact (common.trans (State.leaves_dropStall _)).trans (State.leaves_onNet (.of_zones rfl))
  · exact .ite ((common.trans (State.leaves_endInProgress _)).trans (State.leaves_setReport _ _)) .rfl
  all_goals exact .rfl

theorem State.leaves_memoryFault (before s : State) : s.Leaves keeps (State.memoryFault before s) :=
  (State.leaves_setExch _ s).trans (State.leaves_exchangeFault _ _)

theorem State.leaves_walk (i : Nat) (s : State) : s.Leaves keeps (s.walk i) := by
  unfold State.walk
  exact .ite (State.leaves_exchangeFault _ s) (.ite (State.leaves_setExch _ s) (.ite (State.leaves_exchangeFault _ s) (State.leaves_setExch _ s)))

theorem State.leaves_beginSweep (s : State) : s.Leaves keeps s.beginSweep := by
  unfold State.beginSweep
  split
  · exact State.leaves_setExch _ s
  · exact State.leaves_walk _ s

theorem State.leaves_askSweep (s : State) : s.Leaves keeps s.askSweep := by
  unfold State.askSweep
  exact .ite (.ite (State.leaves_setExch _ s) (State.leaves_beginSweep s)) .rfl

theorem State.leaves_endSweep (s : State) : s.Leaves keeps s.endSweep := by
  unfold State.endSweep
  exact .trans (State.leaves_setExch _ s) (.ite (State.leaves_beginSweep _) (State.leaves_setExch _ _))

theorem State.leaves_takeFolio (i : Nat) (o : PostedOrder) (s : State) : s.Leaves keeps (s.takeFolio i o) := by
  have served : s.Leaves keeps ((s.reclaim i).serveFolio i o) := (State.leaves_reclaim i s).trans (State.leaves_serveFolio i o _)
  unfold State.takeFolio
  exact .ite served (served.trans (State.leaves_walk i _))

theorem State.leaves_sweepTake (s : State) : s.Leaves keeps s.sweepTake := by
  unfold State.sweepTake
  split
  · exact State.leaves_takeFolio _ _ s
  · exact .rfl

theorem State.leaves_takeOrder (p : Post) (o : Order) (s : State) : s.Leaves keeps (s.takeOrder p o) := by
  have posted (i : Nat) : s.Leaves keeps (s.hostPosts i p o) := State.leaves_of_net (Eq.refl _) (Eq.refl _)
  unfold State.takeOrder
  split
  · exact .ite ((posted _).trans (State.leaves_takeFolio _ _ _)) .rfl
  · exact .rfl

theorem State.leaves_freePlace (s : State) : s.Leaves keeps s.freePlace := by
  unfold State.freePlace
  split
  · exact .rfl
  · split
    · exact .rfl
    · next n e =>
      have offered : s.Leaves keeps (({ s with net := n } : State).setExch (fun x => { x with stall := none })) :=
        ⟨Eq.refl _, fun _ => (Net.reoffer_frame .rfl e).sameFed⟩
      exact .ite (offered.trans (State.leaves_beginSweep _)) offered

theorem State.leaves_endTrial (s : State) : s.Leaves keeps s.endTrial := by
  have judged : s.Leaves keeps { s with net := s.net.completeTrial.net.arbitrateAll } :=
    ⟨Eq.refl _, fun _ => (Net.arbitrateAll_frame (Net.completeTrial_frame .rfl)).sameFed⟩
  have answered : s.Leaves keeps (match s.net.completeTrial.reply with
      | some r => State.writeAnswer r { s with net := s.net.completeTrial.net.arbitrateAll }
      | none => { s with net := s.net.completeTrial.net.arbitrateAll }) := by
    split
    · exact judged.trans (State.leaves_writeAnswer _ _)
    · exact judged
  unfold State.endTrial
  exact .ite (answered.trans (State.leaves_freePlace _)) answered

/-! ### Start, halt and resume -/

theorem State.leaves_startFault (f : StartFault) (s : State) : s.Leaves keeps (s.startFault f) :=
  ((State.leaves_setExch _ s).trans (State.leaves_onNet (.of_zones rfl))).trans (State.leaves_latch _ _)

theorem State.leaves_failWarm (code : FaultCode) (mode : Mode) (cursor : Option Nat) (base : Nat) (s : State) :
    s.Leaves keeps (s.failWarm code mode cursor base) :=
  ((State.leaves_setExch _ s).trans (State.leaves_onNet (.of_zones rfl))).trans (State.leaves_latch _ _)

/-- R179: a RUN-COLD discards the network. -/
theorem State.leaves_runCold (s : State) : s.Leaves false s.runCold := by
  unfold State.runCold
  exact .ite ⟨Eq.refl _, nofun⟩ .rfl

theorem State.leaves_runWarm (s : State) : s.Leaves keeps s.runWarm := by
  unfold State.runWarm
  exact .ite ((State.leaves_setExch _ s).trans (State.leaves_onNet (.of_zones rfl))) .rfl

/-- R181: a start that succeeds builds the network. -/
theorem State.leaves_endStarting (s : State) : s.Leaves false s.endStarting := by
  have built (c : Charter) (g : Images) : s.Leaves false (s.startRun c g) :=
    .trans (t := ((s.setExch (fun x => { x.takeCharter c with reachable := true, startOp := none })).setReport (fun r =>
      { r with flushInterval := c.flushInterval })).onNet (buildNet c g)) ⟨Eq.refl _, nofun⟩ (State.leaves_beginSweep _)
  unfold State.endStarting
  refine .ite ?_ .rfl
  split
  · exact State.leaves_startFault _ s
  · exact built _ _

theorem State.leaves_readWarmCharter (s : State) : s.Leaves keeps s.readWarmCharter := by
  unfold State.readWarmCharter
  split
  · split
    · exact State.leaves_failWarm _ _ _ _ s
    · exact ((State.leaves_setExch _ s).trans (State.leaves_setReport _ _)).trans (State.leaves_frame (Net.warmCharter_frame .rfl))
  · exact .rfl

/-- R184: resuming touches no zone. -/
theorem Net.sameFed_resumeRun (n : Net) : n.SameFed n.resumeRun := ⟨n.resumeRun_frame.sameFed.fed⟩

theorem State.leaves_endWarm (s : State) : s.Leaves keeps s.endWarm := by
  unfold State.endWarm
  exact .ite (((State.leaves_onNet s.net.sameFed_resumeRun).trans (State.leaves_setExch _ _)).trans (State.leaves_beginSweep _)) .rfl

theorem Net.sameFed_enterHalting (n : Net) : n.SameFed n.enterHalting :=
  ⟨(Net.holdLines_frame (.rfl (a := { n with mode := .halting, survey := n.survey.halt }))).sameFed.fed⟩

theorem Net.sameFed_haltOrders (stall : Option Stalled) (n : Net) : n.SameFed (n.haltOrders stall).1 :=
  (Net.haltOrders_frame .rfl).sameFed

theorem State.leaves_enterHaltWith (written : List Reply) (s : State) : s.Leaves keeps (s.enterHaltWith written) := by
  have fed := (s.net.sameFed_haltOrders s.exch.stall).trans (Net.sameFed_enterHalting _)
  have halting : s.Leaves keeps (s.onNet fun n => (n.haltOrders s.exch.stall).1.enterHalting) := State.leaves_onNet fed
  unfold State.enterHaltWith
  exact ((halting.trans (State.leaves_setExch _ _)).trans (overEach_leaves State.leaves_writeAnswer _ _)).trans
    (State.leaves_setReport _ _)

theorem Net.enterHalting_survey (n : Net) : n.enterHalting.survey = n.survey.halt := by
  unfold Net.enterHalting Net.holdLines
  rw [overEach_view Net.survey fun l m => ?_]
  unfold Net.updateLine
  rw [Net.markIf_survey]
  rfl

/-- R77: a HALT discards a completion held. -/
theorem State.held_enterHaltWith (written : List Reply) (s : State) : (s.enterHaltWith written).net.survey.held = none := by
  have answers (rs : List Reply) (v : State) : (overEach State.writeAnswer rs v).net = v.net := by
    unfold overEach
    induction rs generalizing v with
    | nil => exact Eq.refl _
    | cons r rs ih => exact (ih (v.writeAnswer r)).trans (State.writeAnswer_net r v)
  unfold State.enterHaltWith
  rw [State.setReport_net, answers, State.setExch_net]
  rw [Net.enterHalting_survey]
  rfl

theorem State.leaves_haltRun (s : State) : s.Leaves keeps s.haltRun := by
  unfold State.haltRun
  exact .ite ((State.leaves_enterHaltWith _ s).trans (State.leaves_drain fun _ => State.held_enterHaltWith _ s)) .rfl

theorem State.leaves_endHalting (s : State) : s.Leaves keeps s.endHalting := by
  unfold State.endHalting
  exact .ite (((State.leaves_setExch _ s).trans (State.leaves_onNet (.of_zones rfl))).trans (State.leaves_latch _ _)) .rfl

/-- R150: a MODE write that carries no RUN-COLD. -/
theorem State.leaves_writeMode (v : Word) (s : State) : s.Leaves (decide (v.toNat % 256 ≠ 1)) (s.writeMode v) := by
  unfold State.writeMode
  split
  · next h =>
    rw [h]
    exact State.leaves_runCold s
  · exact State.leaves_runWarm s
  · exact State.leaves_haltRun s
  · exact .rfl

/-! ### Bus errors -/

theorem State.leaves_cutOff (s : State) : s.Leaves keeps s.cutOff := State.leaves_setExch _ s

theorem State.leaves_cutOffTrial (s : State) : s.Leaves keeps s.cutOffTrial :=
  ⟨Eq.refl _, fun _ => (Net.arbitrateAll_frame (Net.completeTrial_frame .rfl)).sameFed⟩

theorem State.leaves_writeTaken (i : Nat) (o : PostedOrder) (s : State) : s.Leaves keeps (s.writeTaken i o) := by
  unfold State.writeTaken
  exact .ite (State.leaves_setTurn _ _ s) .rfl

theorem State.leaves_failTaken (s : State) : s.Leaves keeps s.failTaken := by
  unfold State.failTaken
  split
  · exact .ite ((((State.leaves_cutOff s).trans (State.leaves_reclaim _ _)).trans (State.leaves_serveFolio _ _ _)).trans
      (State.leaves_memoryFault _ _)) (State.leaves_exchangeFault _ s)
  · exact State.leaves_exchangeFault _ s

theorem State.leaves_failAnswer (s : State) : s.Leaves keeps s.failAnswer := by
  unfold State.failAnswer
  split
  · exact .ite (((((State.leaves_writeTaken _ _ s).trans (State.leaves_cutOff _)).trans (State.leaves_reclaim _ _)).trans
      (State.leaves_serveFolio _ _ _)).trans (State.leaves_memoryFault _ _)) (State.leaves_exchangeFault _ s)
  · exact State.leaves_exchangeFault _ s

theorem State.leaves_failHalted (k : Nat) (s : State) : s.Leaves keeps (s.failHalted k) := by
  unfold State.failHalted
  exact .ite ((State.leaves_enterHaltWith _ s).trans (State.leaves_exchangeFault _ _)) (State.leaves_exchangeFault _ s)

theorem State.leaves_writeNext_getD (s : State) : s.Leaves keeps (s.writeNext.getD s) := by
  cases e : s.writeNext with
  | none => exact .rfl
  | some t => exact State.leaves_writeNext e

/-- R163: whether a bus error leaves the fed-states: a returned folio may let a completion held be applied before the error. -/
def busAccessKeepsFed : BusAccess → Bool
  | .folioReturn _ _ => false
  | _ => true

theorem State.leaves_exchangeError (a : BusAccess) (s : State) : s.Leaves (busAccessKeepsFed a) (s.exchangeError a) := by
  unfold State.exchangeError
  split
  case h_1 => exact State.leaves_failTaken s
  case h_2 => exact State.leaves_failAnswer s
  case h_3 => exact (State.leaves_cutOffTrial s).trans (State.leaves_memoryFault _ _)
  case h_4 =>
    exact .ite ((((State.leaves_cutOff s).trans (State.leaves_takeLent _)).trans (State.leaves_writeNext_getD _)).trans
      (State.leaves_memoryFault _ _)) (State.leaves_exchangeFault _ s)
  case h_5 => exact State.leaves_failHalted _ s
  case h_6 => exact .trans (.ite (State.leaves_writtenBefore _ s) .rfl) (State.leaves_exchangeFault _ _)
  case h_7 => exact .trans (.ite (State.leaves_returnedBefore _ _ s) .rfl) (State.leaves_exchangeFault _ _)
  case h_8 =>
    exact .trans (.ite ((State.leaves_enterHaltWith _ s).trans (State.leaves_drainedBefore _ _)) .rfl) (State.leaves_exchangeFault _ _)
  all_goals exact State.leaves_exchangeFault _ s

theorem State.leaves_busError (a : BusAccess) (s : State) : s.Leaves (busAccessKeepsFed a) (s.busError a) := by
  unfold State.busError
  split
  · exact State.leaves_startFault _ s
  · exact State.leaves_startFault _ s
  · exact (State.leaves_cutOffTrial s).trans (State.leaves_failWarm _ _ _ _ _)
  · exact State.leaves_failWarm _ _ _ _ s
  · exact (State.leaves_cutOffTrial s).trans (State.leaves_failWarm _ _ _ _ _)
  · exact .rfl
  · exact State.leaves_exchangeError _ s

end

/-! ## Every command -/

/-- R65, R70, R71: whether a command leaves the fed-states. -/
def commandKeepsFed : Instr → Bool
  | .hardwareReset _ | .startingEnd _ | .realSurveyCompletion | .reportWrite | .flushTimerExpiry => false
  | .runCold v | .runWarm v | .halt v => decide (v.toNat % 256 ≠ 1)
  | .memoryFault a _ => busAccessKeepsFed a
  | _ => true

/-- An event ends with STARVED judged. -/
theorem State.Leaves.concluded {keeps : Bool} {s t : State} (h : s.Leaves keeps t) :
    ∃ u, t.concluded = .next u ∧ s.Leaves keeps u := ⟨_, Eq.refl _, h.trans (State.leaves_judgeStarved t)⟩

/-- An event of the net alone that keeps the zones' ground fields. -/
theorem State.leaves_netEvent {f : Net → Net} {s : State} (h : Net.Frame true s.net (f s.net)) :
    ∃ t, (s.onNet f).concluded = .next t ∧ s.Leaves true t := (State.leaves_frame h).concluded

/-- The same under a condition. -/
theorem State.leaves_netEvent_ite {f : Net → Net} {s : State} {c : Prop} [Decidable c] (h : Net.Frame true s.net (f s.net)) :
    ∃ t, (if c then s.onNet f else s).concluded = .next t ∧ s.Leaves true t := (State.Leaves.ite (State.leaves_frame h) .rfl).concluded

theorem exec_leaves (c : Instr) (s : State) : ∃ t, exec c s = .next t ∧ s.Leaves (commandKeepsFed c) t := by
  have stored {keeps : Bool} {t : State} (stores : List HostStore) (h : (s.store stores).Leaves keeps t) : s.Leaves keeps t :=
    (State.leaves_store stores s).trans h
  cases c with
  | hardwareReset straps => exact ⟨_, rfl, rfl, nofun⟩
  | timeOfDayPowerOn => exact ⟨_, rfl, State.leaves_of_net rfl rfl⟩
  | timeOfDayRollover => exact ⟨_, rfl, .ite (State.leaves_of_net rfl rfl) .rfl⟩
  | xbaseWrite v => exact ⟨_, rfl, .ite (State.leaves_setExch _ s) .rfl⟩
  | identWrite v => exact ⟨_, rfl, .rfl⟩
  | causeWrite v => exact (State.leaves_setExch _ s).concluded
  | causeenWrite v => exact ⟨_, rfl, State.leaves_setExch _ s⟩
  | runCold v | runWarm v | halt v => exact (State.leaves_writeMode v s).concluded
  | look v stores => exact (stored stores (State.leaves_askSweep _)).concluded
  | startingEnd stores => exact (stored stores (State.leaves_endStarting _)).concluded
  | warmCharterRead stores => exact (stored stores (State.leaves_readWarmCharter _)).concluded
  | warmStartEnd stores => exact (stored stores (State.leaves_endWarm _)).concluded
  | haltingEnd => exact (State.leaves_endHalting s).concluded
  | sweepTimerExpiry stores =>
    exact (stored stores (.ite ((State.leaves_setExch _ _).trans (State.leaves_askSweep _)) .rfl)).concluded
  | sweepEnd stores => exact (stored stores (.ite (State.leaves_endSweep _) .rfl)).concluded
  | folioTaken stores => exact (stored stores (State.leaves_sweepTake _)).concluded
  | memoryFault a stores => exact (stored stores (State.leaves_busError a _)).concluded
  | call p | attend p | safe p | close p | reclass p | ack p | plan p | proceed p | abandon p | restore p | relight p | valveNote p | source p
  | hold p | release p | configure p | role p | limits p | lend p | query p | clock p => exact (State.leaves_takeOrder p _ s).concluded
  | gapExpiry l | idleWaitExpiry l => exact State.leaves_netEvent_ite (Net.arbitrate_frame (Net.setLine_frame .rfl))
  | settlingExpiry l => exact State.leaves_netEvent_ite (Net.arbitrate_frame (Net.enterIdle_frame .rfl))
  | pollSent l | replyFrameBegun l => exact State.leaves_netEvent_ite (Net.setLine_frame .rfl)
  | replyFrame l bytes => exact State.leaves_netEvent (Net.arbitrateAll_frame (Net.takeFrame_frame .rfl))
  | responseWindowExpiry l => exact State.leaves_netEvent_ite (Net.arbitrateAll_frame (Net.endExchange_frame .rfl))
  | listenFrame l bytes => exact State.leaves_netEvent (Net.arbitrateAll_frame (Net.hear_frame .rfl))
  | listenLost st => exact State.leaves_netEvent (Net.arbitrateAll_frame (Net.takeListenLost_frame .rfl))
  | replyAgeExpiry st => exact State.leaves_netEvent (Net.arbitrateAll_frame (Net.takeReplyAge_frame .rfl))
  | travelLimitExpiry v => exact State.leaves_netEvent (Net.arbitrateAll_frame (Net.takeTravelLimit_frame .rfl))
  | dwellEnd v => exact State.leaves_netEvent (Net.arbitrateAll_frame (Net.takeDwellEnd_frame .rfl))
  | staleExpiry i => exact State.leaves_netEvent_ite (Net.takeStale_frame .rfl)
  | deadlineExpiry i => exact State.leaves_netEvent_ite (Net.expireIfDue_frame .rfl)
  | realSurveyStart => exact State.leaves_netEvent (Net.startReal_frame .rfl)
  | realSurveyCompletion => exact State.Leaves.concluded (keeps := false) ⟨rfl, nofun⟩
  | trialStart => exact State.leaves_netEvent (Net.startTrial_frame .rfl)
  | trialCompletion stores => exact (stored stores (State.leaves_endTrial _)).concluded
  | reportWrite => exact ((State.leaves_writeReport s).trans (State.leaves_drain nofun)).concluded
  | flushTimerExpiry =>
    exact (State.Leaves.ite ((State.leaves_returnFolio (keeps := false) nofun).trans (State.leaves_drain nofun)) .rfl).concluded

/-- Settles O57: `exec_leaves`, whose exceptions are the commands the statement names. -/
theorem everyCommandAnswersNext : Obligations.EveryCommandAnswersNext := by
  unfold Obligations.EveryCommandAnswersNext
  intro c s
  obtain ⟨t, ht, hpending, hfed⟩ := exec_leaves c s
  refine ⟨t, ht, hpending, fun hreset hcold hstart hreal hwrite hflush hreturn => (hfed ?_).fed⟩
  cases c with
  | hardwareReset straps => exact absurd rfl (hreset straps)
  | startingEnd stores => exact absurd rfl (hstart stores)
  | realSurveyCompletion => exact absurd rfl hreal
  | reportWrite => exact absurd rfl hwrite
  | flushTimerExpiry => exact absurd rfl hflush
  | runCold v => exact decide_eq_true (hcold v (Or.inl rfl))
  | runWarm v => exact decide_eq_true (hcold v (Or.inr (Or.inl rfl)))
  | halt v => exact decide_eq_true (hcold v (Or.inr (Or.inr rfl)))
  | memoryFault a stores =>
    cases a with
    | folioReturn event done => exact absurd rfl (hreturn event done stores)
    | _ => rfl
  | _ => rfl

end Sys2Proof.Machine
end

section
/-! The end of a trial (R75): the answer due to its folio (R158), written in an event that takes none. -/

namespace Sys2Proof.Machine

/-! ## An answer written late (R158, R164) -/

/-- R158: an answer written into a folio in reach: the bytes, and ANSWER latched by the notify flag. -/
theorem State.writeAnswer_reached {v : State} (f : Nat) (a : Answer) (h : v.exch.reachable = true) :
    v.writeAnswer ⟨f, a⟩ =
      { v with
        mem := (v.mem.writeOut (v.folioAddr f + 2) (answerBytes (v.stampedFlags f) v.stamp a)).writeOut (v.folioAddr f) (out 1 3)
        exch := { v.exch with
          cause := v.exch.cause ||| if (v.mem.read (v.folioAddr f + 2)).getLsbD 0 then Cause.answer.bit else 0 } } := by
  have hput : (v.put (v.folioAddr f + 2) (answerBytes (v.stampedFlags f) v.stamp a)).setTurn f turnAnswered =
      { v with
        mem := (v.mem.writeOut (v.folioAddr f + 2) (answerBytes (v.stampedFlags f) v.stamp a)).writeOut (v.folioAddr f) (out 1 3) } := by
    unfold State.setTurn State.put
    rw [if_pos h, if_pos (by exact h)]
    rfl
  unfold State.writeAnswer
  rw [if_pos h]
  dsimp only
  rw [hput]
  cases (v.mem.read (v.folioAddr f + 2)).getLsbD 0
  · rw [if_neg nofun, if_neg nofun]; simp
  · rfl

/-- R158: what an answer written into a folio leaves of host memory. -/
structure State.AnswerWritten (v t : State) (f : Nat) (a : Answer) : Prop where
  answered : t.Answered f a
  turn : t.turnOf f = 3
  link : t.linkOf f = v.linkOf f
  outside : ∀ b, b < v.folioAddr f ∨ v.folioAddr f + Config.folioBytes ≤ b → t.mem.read b = v.mem.read b

/-- R158: the answer in memory, whatever became of the net and of the latched causes. -/
theorem State.answerWritten {v t : State} {f : Nat} {a : Answer}
    (hmem : t.mem = (v.mem.writeOut (v.folioAddr f + 2) (answerBytes (v.stampedFlags f) v.stamp a)).writeOut (v.folioAddr f) (out 1 3))
    (hbase : t.exch.base = v.exch.base) (htod : t.tod = v.tod) (hunset : t.timeUnset = v.timeUnset) (hnow : t.net.now = v.net.now)
    (hlen : a.body.length ≤ 240) : v.AnswerWritten t f a := by
  obtain ⟨hturn, -, hflags, hcode, hlow, hhigh, hbodyLen, hportions, hstamp, hbody, hout⟩ :=
    Memory.answered_bytes v.mem (v.folioAddr f) (v.stampedFlags f) v.stamp a hlen
  rw [← hmem] at hturn hflags hcode hlow hhigh hbodyLen hportions hstamp hbody hout
  have haddr : t.folioAddr f = v.folioAddr f := by rw [State.folioAddr, hbase]; rfl
  have hstampAt : t.stamp = v.stamp := by rw [State.stamp, htod, hnow, hunset]; rfl
  refine ⟨⟨?_, ?_, ?_, ?_, ?_, ?_, ?_⟩, ?_, ?_, hout⟩
  · rw [haddr, hturn]
  · rw [haddr, hcode]
  · rw [haddr, hbodyLen]
  · rwa [haddr]
  · rw [haddr, hflags, hunset]
    unfold State.stampedFlags
    cases v.timeUnset <;> cases (v.mem.read (v.folioAddr f + 2)).getLsbD 0 <;> simp
  · rw [haddr, Memory.number, hstamp, leNat_leBytes, hstampAt]
    rfl
  · rwa [haddr]
  · rw [State.turnOf, haddr, hturn]; rfl
  · rw [State.linkOf, State.linkOf, haddr]
    exact congrArg₂ (fun x y => leNat [x, y]) hlow hhigh

/-- R158: what an answer written into a folio in reach, the event concluded, leaves of the state. -/
theorem State.answersLate {v : State} (f : Nat) {a : Answer} (h : v.exch.reachable = true) (hlen : a.body.length ≤ 240) :
    v.AnswersLate (v.writeAnswer ⟨f, a⟩).judgeStarved f a v.net := by
  obtain ⟨hnet, hexch, hreport, hpending, hmem, htod, hunset⟩ := State.onlyNet_self (v.writeAnswer ⟨f, a⟩)
  have hwritten := State.writeAnswer_reached f a h
  generalize (v.writeAnswer ⟨f, a⟩).judgeStarved = t at *
  rw [hwritten] at hnet hexch hreport hpending hmem htod hunset
  have done := State.answerWritten (v := v) (f := f) hmem (by rw [hexch]) htod hunset (congrArg Net.now hnet) hlen
  refine ⟨hnet, ?_, hreport, hpending, ⟨htod, hunset⟩, done.answered, done.outside⟩
  simp [hexch, causeAfter]

/-- R158, R164: the net handed on, the answer written where the exchange is in reach. -/
theorem State.endsLate {v : State} (n : Net) (f : Nat) {a : Answer} (hlen : a.body.length ≤ 240) :
    v.EndsLate (({ v with net := n } : State).writeAnswer ⟨f, a⟩).judgeStarved f a n := by
  refine ⟨(State.onlyNet_self _).net.trans (State.writeAnswer_net _ _), fun hreach => ?_, fun hlost => ?_⟩
  · obtain ⟨hnet, hexch, hreport, hpending, hclock, hanswered, hout⟩ := State.answersLate (v := { v with net := n }) f hreach hlen
    exact ⟨hnet, hexch, hreport, hpending, hclock, hanswered, hout⟩
  · rw [State.writeAnswer_out _ { v with net := n } hlost]
    exact State.onlyNet_onNet (fun _ => n) v

/-! ## The zones an answer names -/

/-- R74: a verdict names zones of the network, each once. -/
theorem Net.judge_zones_le (n : Net) (flags : Bool × Bool) (losses : List Nat) (prefixes : List (List Nat)) :
    match n.judge flags losses prefixes with
    | .accepted zs | .wouldIsolate zs | .wouldRefeed zs => zs.length ≤ n.zones.length := by
  have filtered (p : Nat → Bool) : ((List.range n.zones.length).filter p).length ≤ n.zones.length :=
    (List.length_filter_le _ _).trans_eq List.length_range
  induction prefixes generalizing losses with
  | nil => exact filtered _
  | cons r rest ih =>
    rw [Net.judge_cons]
    by_cases hlost : n.losing r ≠ [] ∧ flags.1 = false
    · rw [if_pos hlost]; exact filtered _
    · rw [if_neg hlost]
      by_cases hrefed : n.refedUnallowed flags.2 r ≠ []
      · rw [if_pos hrefed]; exact filtered _
      · rw [if_neg hrefed]; exact ih _

/-- R1, R74: the zones of a verdict fit in the body of an answer. -/
theorem trialBody_fits {n : Net} (hfit : n.zonesFit = true) {zs : List Nat} (h : zs.length ≤ n.zones.length) (slot entry : Nat)
    (serial : Half) : (trialBody slot entry serial zs).length ≤ 240 := by
  have hmax : n.zones.length ≤ Config.zoneMax := of_decide_eq_true hfit
  rw [trialBody_length]
  have : Config.zoneMax ≤ 235 := by decide
  omega

end Sys2Proof.Machine
end

section
/-! The plans that wait for their trial (CHECKING, R112), through the choices of the lines: a choice may make a station LOST (R45, R51), which
blocks running plans and may end one being abandoned, and leaves those that wait. -/

namespace Sys2Proof.Machine

/-- R159: a plan's slot as a stalled order finds it: the serial, and the folio of a plan in CHECKING. -/
def waitingPlan (sl : Slot Plan) : Half × Option Nat := (sl.serial, sl.record.bind (fun p => if p.state = .checking then p.folio else none))

/-- Every plan that waits for its trial waits still, and no other does. -/
structure Net.WaitingKept (a b : Net) : Prop where
  waiting : b.plans.map waitingPlan = a.plans.map waitingPlan

namespace Net.WaitingKept

theorem refl (n : Net) : n.WaitingKept n := ⟨rfl⟩

theorem trans {a b c : Net} (h : a.WaitingKept b) (k : b.WaitingKept c) : a.WaitingKept c := ⟨k.waiting.trans h.waiting⟩

theorem of_plans {a b : Net} (h : b.plans = a.plans) : a.WaitingKept b := ⟨congrArg (List.map waitingPlan) h⟩

theorem markIf (c : Bool) (r : RecordName) (n : Net) : n.WaitingKept (n.markIf c r) := .of_plans (Net.markIf_plans c r n)

theorem updateValve (v : Nat) (f : Valve → Valve) (n : Net) : n.WaitingKept (n.updateValve v f) :=
  .trans (b := n.setValve v f) (.of_plans rfl) (markIf _ _ _)

/-- A plan that is not in CHECKING, before and after. -/
theorem setPlan {n : Net} {i : Nat} {p : Plan} (f : Plan → Plan) (hp : slotRecord n.plans i = some p) (hbefore : p.state ≠ .checking)
    (hafter : (f p).state ≠ .checking) : n.WaitingKept (n.setPlan i f) := by
  refine ⟨List.ext_getElem? fun j => ?_⟩
  rw [Net.setPlan_plans, List.getElem?_map, List.getElem?_map, List.getElem?_modify]
  by_cases hj : i = j
  · subst hj
    obtain ⟨sl, hsl, hrecord⟩ := Option.bind_eq_some_iff.1 hp
    simp [hsl, Slot.update, waitingPlan, hrecord, hbefore, hafter]
  · simp [hj]

theorem overEach {α : Type} {f : α → Net → Net} (hf : ∀ x n, Net.WaitingKept n (f x n)) (xs : List α) (n : Net) :
    n.WaitingKept (Machine.overEach f xs n) := by
  unfold Machine.overEach
  induction xs generalizing n with
  | nil => exact refl n
  | cons x xs ih => exact (hf x n).trans (ih (f x n))

/-! ## The plan engine (R115, R121, R126) -/

theorem blockPlan (slot : Nat) (reason : BlockReason) (moved : Option Nat) (n : Net) : n.WaitingKept (n.blockPlan slot reason moved) := by
  unfold Net.blockPlan
  split
  · exact refl n
  · next p hp =>
    split
    · next hstate =>
      split
      · next e ent _ _ =>
        have blocked := setPlan (n := n) (fun p : Plan =>
          { p.setEntry e (fun x => { x with state := .blocked }) with
            state := .blocked, block := some { reason := reason, valve := moved.getD ent.valve } }) hp
          (by rcases hstate with h | h <;> simp [h]) nofun
        exact .trans (c := (Net.mark .urgent (.plan slot) (n.setPlan slot _)).restage p ent.valve) blocked
          (.of_plans (Net.restage_plans _ _))
      · exact refl n
    · exact refl n

theorem blockClaim (v : Nat) (reason : BlockReason) (moved : Option Nat) (n : Net) : n.WaitingKept (n.blockClaim v reason moved) := by
  unfold Net.blockClaim
  split
  · exact blockPlan _ _ _ n
  · exact refl n

theorem stepOutcome (st : Nat) (tag : Byte) (o : StepOutcome) (n : Net) : n.WaitingKept (n.stepOutcome st tag o) := by
  unfold Net.stepOutcome
  split
  · exact refl n
  · split
    · exact refl n
    · split
      · cases o with dsimp only
        | taken => exact .of_plans rfl
        | notTaken => exact refl n
        | refused | stationLost | lineUnavailable => exact blockClaim _ _ _ n
        | notListed =>
          split
          · exact updateValve _ _ n
          · exact refl n
      · exact refl n

theorem enterStep (l : Fin 4) (st target : Nat) (n : Net) : n.WaitingKept (n.enterStep l st target).1 := by
  rcases n.enterStep_cases l st target with h | h <;> exact .of_plans (by rw [h]; rfl)

theorem enterStaged (slot v : Nat) (n : Net) : n.WaitingKept (n.enterStaged slot v) := by
  unfold Net.enterStaged
  split
  · split
    · exact refl n
    · split
      · exact blockPlan _ _ _ n
      · split
        · exact refl n
        · have entered (l : Fin 4) (st target : Nat) (f : Valve → Valve) := (enterStep l st target n).trans (updateValve v f _)
          dsimp only
          split
          · exact (entered _ _ _ _).trans (stepOutcome _ _ _ _)
          · exact entered _ _ _ _
  · exact refl n

theorem releaseClaims (r : Ref) (n : Net) : n.WaitingKept (n.releaseClaims r) :=
  .trans (b := Machine.overEach _ (n.claimedBy r) n) (overEach (fun v m => updateValve v _ m) _ n) (.of_plans rfl)

/-- R126: only an ABANDONING plan is finished. -/
theorem finishAbandon (slot : Nat) (n : Net) : n.WaitingKept (n.finishAbandon slot) := by
  unfold Net.finishAbandon
  split
  · next p hp =>
    split
    · next hstate =>
      have ended := setPlan (n := n) (fun p => { p with state := .abandoned, running := none, endedTime := some n.now }) hp
        (by simp [hstate.1]) nofun
      exact .trans (c := Net.endPlan slot .abandoned n) (.trans ended (.of_plans (b := Net.mark .ordinary (.plan slot) _) rfl))
        (releaseClaims _ _)
    · exact refl n
  · exact refl n

theorem afterStop (v : Nat) (n : Net) : n.WaitingKept (n.afterStop v) := by
  unfold Net.afterStop
  split
  · exact refl n
  · split
    · exact enterStaged _ _ n
    · exact finishAbandon _ n

theorem commandOutcome (st : Nat) (o : CommandOutcome) (n : Net) : n.WaitingKept (n.commandOutcome st o) := by
  cases o with
  | step tag o => exact stepOutcome st tag o n
  | stop o =>
    change n.WaitingKept (n.stopOutcome st o)
    unfold Net.stopOutcome
    split
    · exact refl n
    · split
      · exact .trans (b := n.setValve _ _) (.of_plans rfl) (afterStop _ _)
      · exact refl n

theorem stationNotice (st : Nat) (status : Status) (n : Net) : n.WaitingKept (n.stationNotice st status) := by
  unfold Net.stationNotice
  split
  · split
    · exact refl n
    · split
      · split
        · exact blockPlan _ _ _ n
        · exact refl n
      · exact refl n
  · exact refl n

/-! ## The choices of the lines (R21, R45) -/

theorem tellLine (l : Fin 4) (st : Nat) (old new : Status) (n : Net) : n.WaitingKept (n.tellLine l st old new) := by
  have removed : n.WaitingKept (n.removeStation l st).1 := .of_plans rfl
  unfold Net.tellLine
  split
  · dsimp only
    split
    · exact removed.trans (commandOutcome _ _ _)
    · exact removed
  · exact refl n

theorem updateStation (st : Nat) (f : Station → Station) (n : Net) : n.WaitingKept (n.updateStation st f) := by
  unfold Net.updateStation
  split
  · exact refl n
  · dsimp only
    split
    · exact .of_plans rfl
    · have told (l : Fin 4) (old new : Status) : n.WaitingKept (((n.setStation st f).tellLine l st old new).stationNotice st new) :=
        .trans (b := n.setStation st f) (.of_plans rfl) ((tellLine l st old new _).trans (stationNotice st new _))
      exact (told _ _ _).trans (.of_plans (Net.quiet_changePoints _ _ _ _).plans)

theorem choose (l : Fin 4) (k : Nat) (n : Net) : n.WaitingKept (n.choose l k) := by
  induction k generalizing n with
  | zero => exact refl n
  | succ k ih =>
    unfold Net.choose
    split
    · exact .of_plans rfl
    · split
      · exact refl n
      · split
        · exact .of_plans rfl
        · have closed : n.WaitingKept (n.closeCycle l) :=
            .trans (b := n.setLine l _) (.of_plans rfl) (overEach (fun st m => updateStation st _ m) _ _)
          exact closed.trans (ih _)

theorem arbitrateAll (n : Net) : n.WaitingKept n.arbitrateAll := by
  refine overEach (fun l m => ?_) allLines n
  unfold Net.arbitrate
  split
  · exact choose l 3 m
  · exact refl m

end Net.WaitingKept

/-- R159: the CHECKING plan of a folio, as its slot is read. -/
theorem Net.planOfFolio_eq (n : Net) (f : Nat) : n.planOfFolio f = (n.plans.map waitingPlan).findIdx? (fun q => q.2 = some f) := by
  rw [List.findIdx?_map]
  refine congrArg (List.findIdx? · n.plans) (funext fun sl => ?_)
  cases hr : sl.record with
  | none => simp [waitingPlan, hr]
  | some p => by_cases hs : p.state = .checking <;> simp [waitingPlan, hr, hs]

end Sys2Proof.Machine
end

section
/-! The completion of a trial (R75): what it hands on, the answer, and the place that comes free (R159). -/

namespace Sys2Proof.Machine

/-! ## A trial completed -/

section
variable {s : State} {n : Net} {f : Nat} {a : Answer} {freed : Bool}

theorem State.writeAnswer_exch (r : Reply) (s : State) : (s.writeAnswer r).exch = { s.exch with cause := (s.writeAnswer r).exch.cause } := by
  cases h : s.exch.reachable
  · rw [State.writeAnswer_out r s h]
  · rw [State.writeAnswer_reached r.folio r.answer h]

theorem State.freePlace_noStall (h : s.exch.stall = none) : s.freePlace = s := by
  unfold State.freePlace
  rw [h]

/-- R75, R158: a trial completed while no order is stalled, its answer due. -/
theorem State.endTrial_endsLate (hstall : s.exch.stall = none) (he : s.net.completeTrial = ⟨n, some ⟨f, a⟩, freed⟩)
    (hlen : a.body.length ≤ 240) : s.EndsLate s.endTrial.judgeStarved f a n.arbitrateAll := by
  have hno : (({ s with net := n.arbitrateAll } : State).writeAnswer ⟨f, a⟩).exch.stall = none := by rw [State.writeAnswer_exch]; exact hstall
  have hend : s.endTrial = ({ s with net := n.arbitrateAll } : State).writeAnswer ⟨f, a⟩ := by
    unfold State.endTrial
    dsimp only
    rw [he]
    dsimp only
    rw [State.freePlace_noStall hno, ite_self]
  rw [hend]
  exact State.endsLate _ f hlen

/-- R75: a trial overtaken by a change. -/
theorem State.endTrial_onlyNet (he : s.net.completeTrial = ⟨n, none, false⟩) : s.OnlyNet s.endTrial.judgeStarved n.arbitrateAll := by
  have hend : s.endTrial = s.onNet (fun _ => n.arbitrateAll) := by
    unfold State.endTrial
    dsimp only
    rw [he]
    rfl
  rw [hend]
  exact State.onlyNet_onNet (fun _ => n.arbitrateAll) s

/-- R75: a trial during which the generation moved stays where it is. -/
theorem Net.completeTrial_overtaken {start : BitVec 32} {result : List (List Nat)} {sub : Subject} {rest : List Subject}
    (hflight : n.survey.inFlight = some (.trial start result)) (hqueue : n.survey.queue = sub :: rest) (hgen : n.survey.generation ≠ start) :
    n.completeTrial = ⟨{ n with survey := { n.survey with inFlight := none } }, none, false⟩ := by
  unfold Net.completeTrial
  rw [hflight, hqueue]
  exact if_neg hgen

/-- R75: a trial that stands leaves the queue, and its verdict goes to its owner. -/
theorem Net.completeTrial_stands {start : BitVec 32} {result : List (List Nat)} {sub : Subject} {rest : List Subject}
    (hflight : n.survey.inFlight = some (.trial start result)) (hqueue : n.survey.queue = sub :: rest) (hgen : n.survey.generation = start) :
    n.completeTrial =
      ⟨(Net.handVerdict sub (n.judge (n.subjectFlags sub) [] result)
          { n with survey := { n.survey with inFlight := none, queue := rest } }).1,
        (Net.handVerdict sub (n.judge (n.subjectFlags sub) [] result)
          { n with survey := { n.survey with inFlight := none, queue := rest } }).2, true⟩ := by
  unfold Net.completeTrial
  rw [hflight, hqueue]
  exact if_pos hgen

end

/-! ## A place comes free (R159) -/

/-- R159: a trial offered again is queued at the tail. -/
theorem Net.WaitingKept.reoffer {a b : Net} {st : Stalled} {sub : Subject} (hk : a.WaitingKept b) (hoff : a.OffersAgain st sub)
    (hroom : b.survey.queue.length < 4) :
    b.reoffer st = some { b with survey := { b.survey with queue := b.survey.queue ++ [sub] } } := by
  cases st with
  | source g id target o r =>
    obtain rfl : sub = _ := hoff
    exact Net.offerTrial_room hroom
  | plan g =>
    obtain ⟨j, sl, q, hj, hq, hstate, hfolio, rfl, hfirst⟩ := hoff
    have hplan : b.planOfFolio g = some j := by
      rw [Net.planOfFolio_eq, hk.waiting, ← Net.planOfFolio_eq, Net.planOfFolio, List.findIdx?_eq_some_iff_getElem]
      obtain ⟨hlt, hget⟩ := List.getElem?_eq_some_iff.1 hj
      refine ⟨hlt, by simp [hget, hq, hstate, hfolio], fun i hi hany => ?_⟩
      obtain ⟨w, hw, hwaits⟩ := (Option.any_eq_true _ _).1 hany
      simp only [decide_eq_true_eq] at hwaits
      refine absurd (hfirst i w ?_ hwaits.1 hwaits.2) (Nat.ne_of_lt hi)
      rw [slotRecord, List.getElem?_eq_getElem (hi.trans hlt)]
      exact hw
    have hserial : slotRef b.plans j = { slot := j, serial := sl.serial } := by
      have hserials : b.plans.map Slot.serial = a.plans.map Slot.serial := by
        simpa [Function.comp_def, waitingPlan] using congrArg (List.map Prod.fst) hk.waiting
      have hget : (b.plans[j]?).map Slot.serial = some sl.serial := by
        rw [← List.getElem?_map, hserials, List.getElem?_map, hj]
        rfl
      rw [slotRef, hget]
      rfl
    change (b.planOfFolio g).bind (fun i => b.offerTrial (.plan (slotRef b.plans i))) = _
    rw [hplan, Option.bind_some, hserial]
    exact Net.offerTrial_room hroom

/-- What stands of a state, other than the mode, while a sweep begins, or fails to. -/
structure State.SweepSide (s t : State) : Prop where
  mem : t.mem = s.mem
  base : t.exch.base = s.exch.base
  clock : s.SameClock t
  survey : t.net.survey = s.net.survey
  now : t.net.now = s.net.now
  stall : s.exch.stall = none → t.exch.stall = none

namespace State.SweepSide

variable {s t u : State}

theorem trans (h : s.SweepSide t) (k : t.SweepSide u) : s.SweepSide u :=
  ⟨k.mem.trans h.mem, k.base.trans h.base, ⟨k.clock.1.trans h.clock.1, k.clock.2.trans h.clock.2⟩, k.survey.trans h.survey,
    k.now.trans h.now, fun e => k.stall (h.stall e)⟩

theorem refl (s : State) : s.SweepSide s := ⟨rfl, rfl, ⟨rfl, rfl⟩, rfl, rfl, id⟩

theorem setExch {f : Exchange → Exchange} (hbase : (f s.exch).base = s.exch.base) (hstall : (f s.exch).stall = s.exch.stall) :
    s.SweepSide (s.setExch f) := ⟨rfl, hbase, ⟨rfl, rfl⟩, rfl, rfl, hstall.trans⟩

theorem onNet {f : Net → Net} (hsurvey : (f s.net).survey = s.net.survey) (hnow : (f s.net).now = s.net.now) : s.SweepSide (s.onNet f) :=
  ⟨rfl, rfl, ⟨rfl, rfl⟩, hsurvey, hnow, id⟩

theorem endInProgress (s : State) : s.SweepSide s.endInProgress := by
  unfold State.endInProgress
  split
  · exact ⟨rfl, rfl, ⟨rfl, rfl⟩, rfl, rfl, id⟩
  · exact refl s

theorem loseFolio (s : State) : s.SweepSide s.loseFolio := by
  unfold State.loseFolio
  split
  · exact refl s
  · have marked : s.SweepSide (s.onNet (overEach (fun (c : ContentsEntry) n => n.mark c.list c.record) s.report.contents)) :=
      onNet (overEach_view (f := fun (c : ContentsEntry) n => n.mark c.list c.record) Net.survey (fun _ _ => rfl) _ _)
        (overEach_view (f := fun (c : ContentsEntry) n => n.mark c.list c.record) Net.now (fun _ _ => rfl) _ _)
    have unretired (rs : List Retiring) (w : State) : w.SweepSide (w.onNet (overEach (fun (r : Retiring) n => n.unretire r.record) rs)) := by
      refine onNet (overEach_view Net.survey (fun r n => ?_) _ _) (overEach_view Net.now (fun r n => ?_) _ _) <;>
      · unfold Net.unretire
        split <;> rfl
    exact ((marked.trans (endInProgress _)).trans (unretired _ _)).trans ⟨rfl, rfl, ⟨rfl, rfl⟩, rfl, rfl, id⟩

/-- R163: an exchange fault while no order is stalled. -/
theorem exchangeFault (c : FaultCode) (hstall : s.exch.stall = none) : s.SweepSide (s.exchangeFault c) := by
  have common : s.SweepSide (s.faultCommon c) := .trans (t := State.latch .fault (s.setExch _)) ⟨rfl, rfl, ⟨rfl, rfl⟩, rfl, rfl, id⟩ (loseFolio _)
  have hdrop {w : State} (hw : w.exch.stall = none) : w.dropStall = w.setExch (fun x => { x with stall := none }) := by
    unfold State.dropStall
    rw [hw]
  unfold State.exchangeFault
  split
  · rw [hdrop (common.stall hstall)]
    exact common.trans ⟨rfl, rfl, ⟨rfl, rfl⟩, rfl, rfl, fun _ => rfl⟩
  · split
    · exact (common.trans (endInProgress _)).trans ⟨rfl, rfl, ⟨rfl, rfl⟩, rfl, rfl, id⟩
    · exact refl s
  all_goals exact refl s

theorem beginSweep (hstall : s.exch.stall = none) : s.SweepSide s.beginSweep := by
  unfold State.beginSweep
  split
  · exact setExch rfl rfl
  · unfold State.walk
    split
    · exact exchangeFault _ hstall
    · split
      · exact setExch rfl rfl
      · split
        · exact exchangeFault _ hstall
        · exact setExch rfl rfl

end State.SweepSide

/-- R157: a sweep begins at a cursor folio that can be read. -/
theorem State.beginSweep_readable {s : State} (h : s.chainReadable) : s.beginSweep = s.setExch (fun x => { x with sweep := some s.firstPhase }) := by
  unfold State.beginSweep State.firstPhase
  cases hc : s.exch.cursor with
  | none => rfl
  | some c =>
    obtain ⟨hturn, hlink⟩ := h c hc
    exact State.walk_on s c _ hturn rfl hlink

/-- R157, R158: an answer written leaves the header of a cursor folio readable, and its link. -/
theorem State.writeAnswer_readable {s : State} (f : Nat) {a : Answer} (hlen : a.body.length ≤ 240) (h : s.chainReadable) :
    (s.writeAnswer ⟨f, a⟩).chainReadable ∧ (s.writeAnswer ⟨f, a⟩).firstPhase = s.firstPhase := by
  cases hreach : s.exch.reachable with
  | false => rw [State.writeAnswer_out _ s hreach]; exact ⟨h, rfl⟩
  | true =>
    have hwritten := State.writeAnswer_reached f a hreach
    generalize s.writeAnswer ⟨f, a⟩ = t at *
    have done : s.AnswerWritten t f a := State.answerWritten (by rw [hwritten]) (by rw [hwritten]) (by rw [hwritten]) (by rw [hwritten])
      (by rw [hwritten]) hlen
    have haddr (i : Nat) : t.folioAddr i = s.folioAddr i := by rw [hwritten]; rfl
    have hcursor : t.exch.cursor = s.exch.cursor := by rw [hwritten]
    have hcount : t.exch.folioCount = s.exch.folioCount := by rw [hwritten]
    have header (c : Nat) (hc : 1 < s.turnOf c) : 1 < t.turnOf c ∧ t.linkOf c = s.linkOf c := by
      by_cases hcf : c = f
      · rw [hcf, done.turn]
        exact ⟨by decide, done.link⟩
      · have kept (k : Nat) (hk : k < 256) : t.mem.read (s.folioAddr c + k) = s.mem.read (s.folioAddr c + k) := by
          refine done.outside _ ?_
          change _ + 256 * c + k < _ + 256 * f ∨ _ + 256 * f + 256 ≤ _ + 256 * c + k
          omega
        refine ⟨?_, ?_⟩
        · rw [State.turnOf, haddr, show t.mem.read (s.folioAddr c) = _ from kept 0 (by decide)]
          exact hc
        · rw [State.linkOf, State.linkOf, haddr]
          exact congrArg₂ (fun x y => leNat [x, y]) (kept 4 (by decide)) (kept 5 (by decide))
    refine ⟨fun c hc => ?_, ?_⟩
    · rw [hcursor] at hc
      obtain ⟨hturn, hlink⟩ := h c hc
      obtain ⟨hturn', hlink'⟩ := header c hturn
      exact ⟨hturn', by rwa [hlink', hcount]⟩
    · unfold State.firstPhase
      rw [hcursor]
      cases hc : s.exch.cursor with
      | none => rfl
      | some c => exact congrArg phaseAfter (header c (h c hc).1).2

/-- R159: the stall flag cleared, its order's trial queued in the net `n`. -/
def State.unstalled (n : Net) (s : State) : State := ({ s with net := n } : State).setExch (fun x => { x with stall := none })

theorem State.freePlace_offered {s : State} {n : Net} {st : Stalled} (hstall : s.exch.stall = some st) (hoffered : s.net.reoffer st = some n) :
    s.freePlace = if s.net.mode = .running then (s.unstalled n).beginSweep else s.unstalled n := by
  unfold State.freePlace
  rw [hstall]
  dsimp only
  rw [hoffered]
  rfl

/-- What the end of a trial leaves when the place goes to a stalled order. -/
structure State.TrialOffered (s t : State) (f : Nat) (a : Answer) (n : Net) : Prop where
  stall : t.exch.stall = none
  answered : s.exch.reachable = true → t.Answered f a
  survey : t.net.survey = n.survey
  running : s.net.mode = .running → s.chainReadable → t.net = n ∧ t.exch.sweep = some s.firstPhase ∧ t.exch.cursor = s.exch.cursor
  other : s.net.mode ≠ .running → t.net = n ∧ t.exch.sweep = s.exch.sweep ∧ t.exch.cursor = s.exch.cursor

/-- R158, R159: an answer written, then the place given to the stalled order. -/
theorem State.trialOffered {s : State} {offered : Net} {f : Nat} {a : Answer} {st : Stalled} (hstall : s.exch.stall = some st)
    (hoffered : s.net.reoffer st = some offered) (hnow : offered.now = s.net.now) (hlen : a.body.length ≤ 240) :
    s.TrialOffered (s.writeAnswer ⟨f, a⟩).freePlace.judgeStarved f a offered := by
  have hexch := State.writeAnswer_exch ⟨f, a⟩ s
  have hnet := State.writeAnswer_net ⟨f, a⟩ s
  have hreadable := State.writeAnswer_readable (s := s) f hlen
  have hwritten := State.writeAnswer_reached (v := s) f a
  generalize s.writeAnswer ⟨f, a⟩ = w at *
  have hfree := State.freePlace_offered (s := w) (by rw [hexch]; exact hstall) (by rw [hnet]; exact hoffered)
  rw [hnet] at hfree
  have side : (w.unstalled offered).SweepSide w.freePlace := by
    rw [hfree]
    split
    · exact .beginSweep rfl
    · exact .refl _
  have judged := State.onlyNet_self w.freePlace
  generalize w.freePlace.judgeStarved = t at *
  have hcursor : w.exch.cursor = s.exch.cursor := by rw [hexch]
  have hsweep : w.exch.sweep = s.exch.sweep := by rw [hexch]
  have hmem : t.mem = w.mem := judged.memory.trans side.mem
  have hbase : t.exch.base = w.exch.base := by rw [judged.exch]; exact side.base
  have htod : t.tod = w.tod := judged.clock.1.trans side.clock.1
  have hunset : t.timeUnset = w.timeUnset := judged.clock.2.trans side.clock.2
  have hnow' : t.net.now = s.net.now := (congrArg Net.now judged.net).trans (side.now.trans hnow)
  refine ⟨by rw [judged.exch]; exact side.stall rfl, fun hreach => ?_, by rw [judged.net]; exact side.survey, fun hrun hchain => ?_, fun hother => ?_⟩
  · rw [hwritten hreach] at hmem hbase htod hunset
    exact (State.answerWritten hmem hbase htod hunset hnow' hlen).answered
  · obtain ⟨hread, hphase⟩ := hreadable hchain
    have hbegun := State.beginSweep_readable (s := w.unstalled offered) hread
    rw [if_pos hrun, hbegun] at hfree
    rw [judged.net, judged.exch, hfree]
    exact ⟨rfl, congrArg some hphase, hcursor⟩
  · rw [if_neg hother] at hfree
    rw [judged.net, judged.exch, hfree]
    exact ⟨rfl, hsweep, hcursor⟩

/-- R75, R159: a trial completed while an order is stalled: the place it leaves takes that order's trial, and in RUNNING a sweep begins. -/
theorem State.endTrial_offers {s : State} {n : Net} {f : Nat} {a : Answer} {st : Stalled} {sub : Subject} (hstall : s.exch.stall = some st)
    (he : s.net.completeTrial = ⟨n, some ⟨f, a⟩, true⟩) (hlen : a.body.length ≤ 240) (hwait : s.net.WaitingKept n)
    (hmode : n.mode = s.net.mode) (hoff : s.net.OffersAgain st sub) (hroom : n.arbitrateAll.survey.queue.length < 4) :
    s.TrialOffered s.endTrial.judgeStarved f a
      { n.arbitrateAll with survey := { n.arbitrateAll.survey with queue := n.arbitrateAll.survey.queue ++ [sub] } } := by
  have hend : s.endTrial = (({ s with net := n.arbitrateAll } : State).writeAnswer ⟨f, a⟩).freePlace := by
    unfold State.endTrial
    dsimp only
    rw [he]
    rfl
  have hoffered := (hwait.trans (.arbitrateAll n)).reoffer hoff hroom
  have frame : Net.Frame true n n.arbitrateAll := Net.arbitrateAll_frame .rfl
  have hkept : n.arbitrateAll.mode = s.net.mode := frame.mode.trans hmode
  rw [hend]
  obtain ⟨hstalled, hanswered, hsurvey, hrunning, hother⟩ :=
    State.trialOffered (s := { s with net := n.arbitrateAll }) (f := f) (a := a) hstall hoffered rfl hlen
  exact ⟨hstalled, hanswered, hsurvey, fun h => hrunning (hkept.trans h), fun h => hother fun e => h (hkept.symm.trans e)⟩

/-! ## SOURCE trials (R76) -/

section
variable {n : Net} {id f : Nat} {target : SourceState} {x : Source}

/-- R76: an accepted SOURCE trial with a folio. -/
theorem Net.handVerdict_source_accepted {o r : Bool} {zs : List Nat} : n.handVerdict (.source id target o r (some f)) (.accepted zs) =
    (n.setSourceState id target, some ⟨f, .withBody .accepted (trialBody id 0 0 zs)⟩) := rfl

/-- R76: a SOURCE trial with a folio, refused. -/
theorem Net.handVerdict_source_isolates {o r : Bool} {zs : List Nat} : n.handVerdict (.source id target o r (some f)) (.wouldIsolate zs) =
    (n, some ⟨f, .withBody .wouldIsolate (trialBody id 0 0 zs)⟩) := rfl

theorem Net.handVerdict_source_refeeds {o r : Bool} {zs : List Nat} : n.handVerdict (.source id target o r (some f)) (.wouldRefeed zs) =
    (n, some ⟨f, .withBody .wouldRefeed (trialBody id 0 0 zs)⟩) := rfl

/-- R76: a source in the target state already. -/
theorem Net.setSourceState_same (hx : n.sources[id]? = some x) (h : x.state = target) : n.setSourceState id target = n := by
  unfold Net.setSourceState
  rw [hx]
  exact if_neg (by simp [h])

/-- R76: a source takes the target state, is marked, and is in the change set. -/
theorem Net.setSourceState_other (hx : n.sources[id]? = some x) (h : x.state ≠ target) : n.setSourceState id target =
    { n with
      sources := n.sources.set id { x with state := target }
      marks := n.marks.add .ordinary (.source id)
      survey :=
        { n.survey with
          generation := n.survey.generation + 1, pendingReal := true, changeSources := noteSource n.survey.changeSources id } } := by
  unfold Net.setSourceState
  rw [hx, if_pos (by simp [h]), Net.setSource, List.modify_eq_set_of_getElem? _ hx]
  rfl

end

/-- Settles O38: by the generation, then by the verdict; a stalled order takes the place the trial leaves. -/
theorem sourceTrialCompletes : Obligations.SourceTrialCompletes := by
  unfold Obligations.SourceTrialCompletes
  intro stores s start result id target o r f rest x hflight hqueue hx hfit u popped refused
  have hcomplete (hgen : s.net.survey.generation = start) := Net.completeTrial_stands hflight hqueue hgen
  have hzones := Net.judge_zones_le s.net (o, r) [] result
  have fits {zs : List Nat} (h : zs.length ≤ s.net.zones.length) : (trialBody id 0 0 zs).length ≤ 240 := trialBody_fits hfit h id 0 0
  refine ⟨u.endTrial.judgeStarved, rfl, fun hgen => ?_, fun zs hgen hstall => ⟨fun hv => ?_, fun hv => ?_, fun hv hsame => ?_, fun hv hother => ?_⟩,
    fun zs st sub hgen hv hstall hoff hroom => ?_⟩
  · exact State.endTrial_onlyNet (s := u) (Net.completeTrial_overtaken hflight hqueue hgen)
  all_goals
    have he := hcomplete hgen
    rw [show s.net.subjectFlags (.source id target o r (some f)) = (o, r) from rfl, hv] at he
    rw [hv] at hzones
  · rw [Net.handVerdict_source_isolates] at he
    exact State.endTrial_endsLate (s := u) hstall he (fits hzones)
  · rw [Net.handVerdict_source_refeeds] at he
    exact State.endTrial_endsLate (s := u) hstall he (fits hzones)
  · rw [Net.handVerdict_source_accepted, Net.setSourceState_same (n := { s.net with survey := popped }) hx hsame] at he
    exact State.endTrial_endsLate (s := u) hstall he (fits hzones)
  · rw [Net.handVerdict_source_accepted, Net.setSourceState_other (n := { s.net with survey := popped }) hx hother] at he
    exact State.endTrial_endsLate (s := u) hstall he (fits hzones)
  · rw [Net.handVerdict_source_isolates] at he
    have hwait : s.net.WaitingKept { s.net with survey := popped } := .of_plans rfl
    obtain ⟨hstalled, hanswered, hsurvey, hrunning, hother⟩ :=
      State.endTrial_offers (s := u) (n := { s.net with survey := popped }) hstall he (fits hzones) hwait rfl hoff hroom
    exact ⟨hstalled, hanswered, hsurvey, hrunning, hother⟩

end Sys2Proof.Machine
end

section
/-! The completion of a PLAN trial (R112): the plan freed, or accepted and its first entry started (R113, R114). -/

namespace Sys2Proof.Machine

/-! ## What the start of an entry leaves -/

/-- A plan whose entries run: ACTIVE, HOLDING or BLOCKED. -/
def Plan.begun (p : Plan) : Prop := p.state = .active ∨ p.state = .holding ∨ p.state = .blocked

/-- One change of a plan under way: the fields its acceptance wrote stand, and it stays under way. -/
structure Plan.CarriedOn (p q : Plan) : Prop where
  running : q.running = p.running
  losses : q.expectedLosses = p.expectedLosses
  accepted : q.acceptedTime = p.acceptedTime
  folio : q.folio = p.folio
  begun : p.begun → q.begun

/-- The survey engine and the claims stand, and the plan that `k` names is carried on. -/
structure Net.EntrySide (k : Ref) (a b : Net) : Prop where
  survey : b.survey = a.survey
  claims : b.valves.map Valve.claim = a.valves.map Valve.claim
  plan : ∀ p, findRecord a.plans k = some p → ∃ q, findRecord b.plans k = some q ∧ p.CarriedOn q

theorem findRecord_modify {α : Type} {slots : List (Slot α)} {k : Ref} {x : α} (h : findRecord slots k = some x) (i : Nat) (f : α → α) :
    findRecord (slots.modify i (Slot.update f)) k = some (if i = k.slot then f x else x) := by
  obtain ⟨sl, hsl, hfree, hserial, hrecord⟩ := slotRecord_of_findRecord h
  unfold findRecord
  rw [List.getElem?_modify, hsl]
  by_cases hi : i = k.slot
  · simp [hi, Slot.update, hfree, hserial, hrecord]
  · simp [hi, hfree, hserial, hrecord]

namespace Net.EntrySide

variable {k : Ref}

theorem of_eq {a b : Net} (hs : b.survey = a.survey) (hv : b.valves.map Valve.claim = a.valves.map Valve.claim) (hp : b.plans = a.plans) :
    a.EntrySide k b := ⟨hs, hv, fun p h => ⟨p, by rw [hp]; exact h, rfl, rfl, rfl, rfl, id⟩⟩

theorem refl (n : Net) : n.EntrySide k n := of_eq rfl rfl rfl

theorem trans {a b c : Net} (h : a.EntrySide k b) (g : b.EntrySide k c) : a.EntrySide k c := by
  refine ⟨g.survey.trans h.survey, g.claims.trans h.claims, fun p hp => ?_⟩
  obtain ⟨q, hq, hpq⟩ := h.plan p hp
  obtain ⟨r, hr, hqr⟩ := g.plan q hq
  exact ⟨r, hr, hqr.running.trans hpq.running, hqr.losses.trans hpq.losses, hqr.accepted.trans hpq.accepted, hqr.folio.trans hpq.folio,
    fun e => hqr.begun (hpq.begun e)⟩

theorem mark (c : MarkKind) (r : RecordName) (n : Net) : n.EntrySide k (n.mark c r) := of_eq rfl rfl rfl

theorem markIf (c : Bool) (r : RecordName) (n : Net) : n.EntrySide k (n.markIf c r) := by
  cases c
  · exact refl n
  · exact mark _ _ n

theorem setValve (v : Nat) (n : Net) {f : Valve → Valve} (hf : ∀ x, (f x).claim = x.claim := by intro _; rfl) :
    n.EntrySide k (n.setValve v f) :=
  of_eq rfl (List.map_modify_of_view Valve.claim n.valves v f hf) rfl

theorem updateValve (v : Nat) (n : Net) {f : Valve → Valve} (hf : ∀ x, (f x).claim = x.claim := by intro _; rfl) :
    n.EntrySide k (n.updateValve v f) :=
  (setValve v n hf).trans (markIf _ _ _)

theorem updateValveMarked (v : Nat) (n : Net) {f : Valve → Valve} (hf : ∀ x, (f x).claim = x.claim := by intro _; rfl) :
    n.EntrySide k (n.updateValveMarked v f) := (setValve v n hf).trans (mark _ _ _)

theorem setPlan (i : Nat) (n : Net) {f : Plan → Plan} (hf : ∀ p, Plan.CarriedOn p (f p)) :
    n.EntrySide k (n.setPlan i f) := by
  refine ⟨rfl, rfl, fun p hp => ⟨_, findRecord_modify hp i f, ?_⟩⟩
  split
  · exact hf p
  · exact ⟨rfl, rfl, rfl, rfl, id⟩

theorem updatePlan (i : Nat) (n : Net) {f : Plan → Plan} (hf : ∀ p, Plan.CarriedOn p (f p)) :
    n.EntrySide k (n.updatePlan i f) :=
  (setPlan i n hf).trans (markIf _ _ _)

theorem restage (p : Plan) (v : Nat) (n : Net) : n.EntrySide k (n.restage p v) := by
  unfold Net.restage
  split
  · exact refl n
  · dsimp only
    split
    · split
      · exact (updateValve v n).trans (of_eq rfl rfl rfl)
      · exact updateValve v n
    · exact updateValve v n

theorem blockPlan (slot : Nat) (reason : BlockReason) (moved : Option Nat) (n : Net) : n.EntrySide k (n.blockPlan slot reason moved) := by
  unfold Net.blockPlan
  split
  · exact refl n
  · split
    · split
      · refine .trans (.trans (setPlan slot n ?_) (mark _ _ _)) (restage _ _ _)
        exact fun p => ⟨rfl, rfl, rfl, rfl, fun _ => Or.inr (Or.inr rfl)⟩
      · exact refl n
    · exact refl n

theorem blockClaim (v : Nat) (reason : BlockReason) (moved : Option Nat) (n : Net) : n.EntrySide k (n.blockClaim v reason moved) := by
  unfold Net.blockClaim
  split
  · exact blockPlan _ _ _ n
  · exact refl n

theorem stepOutcome (st : Nat) (tag : Byte) (o : StepOutcome) (n : Net) : n.EntrySide k (n.stepOutcome st tag o) := by
  unfold Net.stepOutcome
  split
  · exact refl n
  · split
    · exact refl n
    · split
      · cases o with dsimp only
        | taken => exact updateValveMarked _ n
        | notTaken => exact refl n
        | refused | stationLost | lineUnavailable => exact blockClaim _ _ _ n
        | notListed =>
          split
          · exact updateValve _ n
          · exact refl n
      · exact refl n

theorem enterStep (l : Fin 4) (st target : Nat) (n : Net) : n.EntrySide k (n.enterStep l st target).1 := by
  rcases n.enterStep_cases l st target with h | h <;>
  · rw [h]
    exact of_eq rfl rfl rfl

theorem enterStaged (slot v : Nat) (n : Net) : n.EntrySide k (n.enterStaged slot v) := by
  unfold Net.enterStaged
  split
  · split
    · exact refl n
    · split
      · exact blockPlan _ _ _ n
      · split
        · exact refl n
        · have entered (l : Fin 4) (st target : Nat) {f : Valve → Valve} (hf : ∀ x, (f x).claim = x.claim := by intro _; rfl) :=
            (enterStep (k := k) l st target n).trans (updateValve v _ hf)
          dsimp only
          split
          · exact (entered _ _ _).trans (stepOutcome _ _ _ _)
          · exact entered _ _ _
  · exact refl n

theorem stageStep (slot e : Nat) (n : Net) : n.EntrySide k (n.stageStep slot e) := by
  unfold Net.stageStep
  split
  · exact refl n
  · split
    · exact refl n
    · split
      · dsimp only
        split
        · have held (v : Nat) {f : Valve → Valve} (hf : ∀ x, (f x).claim = x.claim := by intro _; rfl) :=
            (updateValveMarked (k := k) v n hf).trans (updatePlan slot _ (f := fun p => { p.setEntry e (fun y => { y with state := .hold }) with
              state := .holding }) (fun _ => ⟨rfl, rfl, rfl, rfl, fun _ => Or.inr (Or.inl rfl)⟩))
          split
          · exact (held _).trans (blockPlan _ _ _ _)
          · exact held _
        · exact (updateValveMarked _ n).trans (enterStaged _ _ _)
      · exact refl n

end Net.EntrySide

end Sys2Proof.Machine
end

section
/-! The first step of an accepted plan (R113, R114): staged, then held for PROCEED, entered, or blocked. -/

namespace Sys2Proof.Machine

/-! ## The conditions of R114 -/

section
variable {n : Net} {v st : Nat} {l : Fin 4} {x : Valve} {reason : BlockReason}

theorem Net.stepCondition_unplaced (hl : n.valveLine v = none) : n.stepCondition v = none := by
  unfold Net.stepCondition
  rw [hl]

theorem Net.stepCondition_mayEnter (hx : n.valves[v]? = some x) (h : n.MayEnter v x l st) : n.stepCondition v = none := by
  obtain ⟨-, hplace, hmaster, ⟨hlost, hsite⟩, hselector⟩ := h
  have hreach : (n.statusOf st).unreachable = false := by
    unfold Status.unreachable
    cases hs : n.statusOf st <;> simp_all
  unfold Net.stepCondition
  rw [hplace]
  dsimp only
  rw [if_neg (by rw [hmaster]; decide), if_neg (by rw [hreach]; decide), hx, if_neg (by simpa using hselector)]

theorem Net.stepCondition_fails (hx : n.valves[v]? = some x) (hl : n.valveLine v = some (l, st)) (h : n.EntryFails x l st reason) :
    n.stepCondition v = some reason := by
  have hout : (n.statusOf st).unreachable = true ↔ n.statusOf st = .lost ∨ n.statusOf st = .siteOut := by
    unfold Status.unreachable
    cases n.statusOf st <;> simp
  unfold Net.stepCondition
  rw [hl]
  dsimp only
  rcases h with ⟨hlisten, rfl⟩ | ⟨hmaster, hlost, rfl⟩ | ⟨hmaster, hreach, hsite, rfl⟩
  · rw [if_pos hlisten]
  · rw [if_neg (by rw [hmaster]; decide), if_pos (hout.2 hlost)]
  · rw [if_neg (by rw [hmaster]; decide), if_neg fun e => hreach (hout.1 e), hx, if_pos (by simpa using hsite)]

/-- R114: the conditions are of the valve's line and station and of its selector. -/
theorem Net.stepCondition_congr {a b : Net} {x y : Valve} (hlines : b.lines = a.lines) (hstations : b.stations = a.stations)
    (hx : a.valves[v]? = some x) (hy : b.valves[v]? = some y) (hstation : y.station = x.station) (hselector : y.selector = x.selector) :
    b.stepCondition v = a.stepCondition v := by
  have hplace : b.valveLine v = a.valveLine v := by
    unfold Net.valveLine
    rw [hx, hy, hstations]
    exact congrArg (Option.bind · _) hstation
  unfold Net.stepCondition
  rw [hplace]
  unfold Net.statusOf Net.line
  rw [hlines, hstations, hx, hy, Option.any_some, Option.any_some, hselector]

/-- R32, R36, R114: a command entered while the conditions hold is not removed at entry. -/
theorem Net.entryRemoval_of_stepCondition (hl : n.valveLine v = some (l, st)) (h : n.stepCondition v = none) : n.entryRemoval l st = none := by
  unfold Net.stepCondition at h
  rw [hl] at h
  dsimp only at h
  unfold Net.entryRemoval
  split at h
  · exact nomatch h
  · next hrole =>
    rw [if_neg hrole]
    split at h
    · exact nomatch h
    · next hreach => rw [if_neg hreach]

end

/-! ## The step staged -/

/-- R113: the first step of the first entry, staged. -/
def firstStaged (nx : PlanStep) (awaiting : Bool) : Staged :=
  { entry := 0, step := 0, target := nx.target, dwell := nx.dwell, awaiting := awaiting }

/-- R113: the valve at which the first step is staged. -/
def Valve.stagedFirst (nx : PlanStep) (awaiting : Bool) (x : Valve) : Valve :=
  { x with movedUnplanned := false, staged := some (firstStaged nx awaiting) }

/-- R113: the net in which the first step is staged. -/
def Net.stagedFirst (v : Nat) (nx : PlanStep) (awaiting : Bool) (n : Net) : Net := n.updateValveMarked v (Valve.stagedFirst nx awaiting)

/-- R113: a plan that awaits PROCEED for its first step. -/
def Plan.heldFirst (p : Plan) : Plan := { p.setEntry 0 (fun y => { y with state := .hold }) with state := .holding }

/-- A plan as `k` names it, and a valve, as they stand. -/
structure Net.Stands (n : Net) (k : Ref) (v : Nat) (q : Plan) (y : Valve) : Prop where
  plan : findRecord n.plans k = some q
  valve : n.valves[v]? = some y

section
variable {m : Net} {k : Ref} {p : Plan} {ent : PlanEntry} {x : Valve} {nx : PlanStep} {awaiting : Bool} {reason : BlockReason}

theorem Net.getElem?_setValve {v : Nat} (hx : m.valves[v]? = some x) (f : Valve → Valve) : (m.valves.modify v f)[v]? = some (f x) := by
  rw [List.getElem?_modify, hx]
  simp

theorem Net.RunningAt.stagedFirst (h : m.RunningAt k p 0 ent x) (nx : PlanStep) (awaiting : Bool) :
    (m.stagedFirst ent.valve nx awaiting).RunningAt k p 0 ent (x.stagedFirst nx awaiting) :=
  ⟨h.plan, h.running, h.entry, Net.getElem?_setValve h.valve _, h.claim⟩

theorem Net.RunningAt.heldFirst (h : m.RunningAt k p 0 ent x) :
    (m.updatePlan k.slot Plan.heldFirst).RunningAt k p.heldFirst 0 { ent with state := .hold } x := by
  refine ⟨?_, h.running, ?_, ?_, h.claim⟩
  · rw [Net.updatePlan, Net.markIf_plans, Net.setPlan_plans, findRecord_modify h.plan, if_pos rfl]
  · change (p.entries.modify 0 _)[0]? = _
    rw [List.getElem?_modify, h.entry]
    rfl
  · rw [Net.updatePlan, Net.markIf_valves]
    exact h.valve

theorem Net.RunningAt.stands (h : m.RunningAt k p 0 ent x) : m.Stands k ent.valve p x := ⟨h.plan, h.valve⟩

/-- R121: a running entry blocked while no step of it is in flight. -/
theorem Net.RunningAt.blocked (h : m.RunningAt k p 0 ent x) (hs : p.state = .active ∨ p.state = .holding) (hf : x.inFlight = none)
    (reason : BlockReason) : (m.blockPlan k.slot reason none).Stands k ent.valve (p.blockedBy 0 reason ent.valve) x := by
  obtain ⟨hplans, hvalves⟩ := Net.blockPlan_running h hs reason
  refine ⟨by rw [hplans, findRecord_putRecord h.plan], ?_⟩
  rw [hvalves, Net.valvesRestaged, hf]
  exact h.valve

/-- R113: the first step staged, then held for PROCEED or entered. -/
theorem Net.stageStep_first (h : m.RunningAt k p 0 ent x) (hcurrent : ent.current = 0) (hnx : ent.steps[0]? = some nx)
    (haw : awaiting = (nx.hold || decide (x.kind = .manual))) :
    m.stageStep k.slot 0 =
      if awaiting then
        match ((m.stagedFirst ent.valve nx awaiting).updatePlan k.slot Plan.heldFirst).stepCondition ent.valve with
        | some reason => ((m.stagedFirst ent.valve nx awaiting).updatePlan k.slot Plan.heldFirst).blockPlan k.slot reason none
        | none => (m.stagedFirst ent.valve nx awaiting).updatePlan k.slot Plan.heldFirst
      else (m.stagedFirst ent.valve nx awaiting).enterStaged k.slot ent.valve := by
  unfold Net.stageStep
  rw [Net.slotRecord_of_running h]
  dsimp only
  rw [h.entry]
  dsimp only
  rw [hcurrent, hnx, h.valve]
  dsimp only
  rw [← haw]
  rfl

theorem Net.stepCondition_stagedFirst (h : m.RunningAt k p 0 ent x) (nx : PlanStep) (awaiting : Bool) :
    (m.stagedFirst ent.valve nx awaiting).stepCondition ent.valve = m.stepCondition ent.valve :=
  Net.stepCondition_congr rfl rfl h.valve (h.stagedFirst nx awaiting).valve rfl rfl

theorem Net.stepCondition_heldFirst (h : m.RunningAt k p 0 ent x) (nx : PlanStep) (awaiting : Bool) :
    ((m.stagedFirst ent.valve nx awaiting).updatePlan k.slot Plan.heldFirst).stepCondition ent.valve = m.stepCondition ent.valve :=
  Net.stepCondition_congr (by simp only [Net.updatePlan, Net.markIf_lines]; rfl) (by simp only [Net.updatePlan, Net.markIf_stations]; rfl) h.valve
    (h.stagedFirst nx awaiting).heldFirst.valve rfl rfl

/-- R113: the first step awaits PROCEED. -/
theorem Net.stageStep_holds (h : m.RunningAt k p 0 ent x) (hcurrent : ent.current = 0) (hnx : ent.steps[0]? = some nx)
    (haw : (nx.hold || decide (x.kind = .manual)) = true) (hcond : m.stepCondition ent.valve = none) :
    (m.stageStep k.slot 0).Stands k ent.valve p.heldFirst (x.stagedFirst nx true) := by
  rw [Net.stageStep_first h hcurrent hnx haw.symm, if_pos rfl, Net.stepCondition_heldFirst h, hcond]
  exact (h.stagedFirst nx true).heldFirst.stands

/-- R114: a condition fails for a first step that awaits PROCEED. -/
theorem Net.stageStep_holdFails (h : m.RunningAt k p 0 ent x) (hcurrent : ent.current = 0) (hnx : ent.steps[0]? = some nx)
    (haw : (nx.hold || decide (x.kind = .manual)) = true) (hf : x.inFlight = none) (hcond : m.stepCondition ent.valve = some reason) :
    (m.stageStep k.slot 0).Stands k ent.valve (p.heldFirst.blockedBy 0 reason ent.valve) (x.stagedFirst nx true) := by
  rw [Net.stageStep_first h hcurrent hnx haw.symm, if_pos rfl, Net.stepCondition_heldFirst h, hcond]
  exact (h.stagedFirst nx true).heldFirst.blocked (Or.inr rfl) hf reason

/-- R114: a condition fails for a first step to be entered. -/
theorem Net.stageStep_entryFails (h : m.RunningAt k p 0 ent x) (hcurrent : ent.current = 0) (hnx : ent.steps[0]? = some nx)
    (haw : (nx.hold || decide (x.kind = .manual)) = false) (hs : p.state = .active) (hf : x.inFlight = none)
    (hcond : m.stepCondition ent.valve = some reason) :
    (m.stageStep k.slot 0).Stands k ent.valve (p.blockedBy 0 reason ent.valve) (x.stagedFirst nx false) := by
  have hplaced : ∃ q, (m.stagedFirst ent.valve nx false).valveLine ent.valve = some q := by
    cases hl : (m.stagedFirst ent.valve nx false).valveLine ent.valve with
    | some q => exact ⟨q, rfl⟩
    | none =>
      have := Net.stepCondition_unplaced hl
      rw [Net.stepCondition_stagedFirst h, hcond] at this
      exact nomatch this
  obtain ⟨⟨l, st⟩, hl⟩ := hplaced
  have hentered : (m.stagedFirst ent.valve nx false).enterStaged k.slot ent.valve =
      (m.stagedFirst ent.valve nx false).blockPlan k.slot reason none := by
    unfold Net.enterStaged
    rw [(h.stagedFirst nx false).valve, hl]
    dsimp only [Valve.stagedFirst]
    rw [Net.stepCondition_stagedFirst h, hcond]
  rw [Net.stageStep_first h hcurrent hnx haw.symm, if_neg Bool.false_ne_true, hentered]
  exact (h.stagedFirst nx false).blocked (Or.inl hs) hf reason

/-- R114: a first step with no line to enter it on, or behind a STOP that is pending, stays staged. -/
theorem Net.stageStep_waits (h : m.RunningAt k p 0 ent x) (hcurrent : ent.current = 0) (hnx : ent.steps[0]? = some nx)
    (haw : (nx.hold || decide (x.kind = .manual)) = false) (hcond : m.stepCondition ent.valve = none)
    (hwait : m.valveLine ent.valve = none ∨ x.stopPending = true) :
    (m.stageStep k.slot 0).Stands k ent.valve p (x.stagedFirst nx false) := by
  have side : m.PlanSide (m.stagedFirst ent.valve nx false) := m.planSide_updateValveMarked _
  have hentered : (m.stagedFirst ent.valve nx false).enterStaged k.slot ent.valve = m.stagedFirst ent.valve nx false := by
    unfold Net.enterStaged
    rw [(h.stagedFirst nx false).valve, side.valveLine]
    cases hl : m.valveLine ent.valve with
    | none => rfl
    | some q =>
      obtain ⟨l, st⟩ := q
      dsimp only [Valve.stagedFirst]
      rw [Net.stepCondition_stagedFirst h, hcond]
      exact if_pos (hwait.resolve_left (by rw [hl]; nofun))
  rw [Net.stageStep_first h hcurrent hnx haw.symm, if_neg Bool.false_ne_true, hentered]
  exact (h.stagedFirst nx false).stands

/-! ## The step entered (R29) -/

/-- R115: the first step in flight, with the tag it was entered under. -/
def firstInFlight (nx : PlanStep) (tag : Byte) : StepInFlight :=
  { entry := 0, step := 0, tag := tag, target := nx.target, accepted := none, unverified := false }

/-- R114: the net in which the first step is entered on line `l` for station `st`. -/
def Net.enteredFirst (v : Nat) (nx : PlanStep) (l : Fin 4) (st : Nat) (n : Net) : Net :=
  (n.setLine l (Line.enterStep st nx.target)).updateValve v
    (fun x => { x with staged := none, inFlight := some (firstInFlight nx (n.line l).tagCounter) })

theorem Net.RunningAt.enteredFirst (h : m.RunningAt k p 0 ent x) (nx : PlanStep) (l : Fin 4) (st : Nat) :
    (m.enteredFirst ent.valve nx l st).RunningAt k p 0 ent
      { x with staged := none, inFlight := some (firstInFlight nx (m.line l).tagCounter) } := by
  refine ⟨?_, h.running, h.entry, ?_, h.claim⟩
  · rw [Net.enteredFirst, Net.updateValve, Net.markIf_plans]
    exact h.plan
  · rw [Net.enteredFirst, Net.updateValve, Net.markIf_valves]
    exact Net.getElem?_setValve h.valve _

/-- R114, R115: the first step entered; behind a STOP it is not listed, and its outcome is handed on at once. -/
theorem Net.stageStep_enters (h : m.RunningAt k p 0 ent x) (hcurrent : ent.current = 0) (hnx : ent.steps[0]? = some nx)
    (haw : (nx.hold || decide (x.kind = .manual)) = false) {l : Fin 4} {st : Nat} (hl : m.valveLine ent.valve = some (l, st))
    (hcond : m.stepCondition ent.valve = none) (hstop : x.stopPending = false) :
    m.stageStep k.slot 0 =
      if listedCommand (m.line l).commands st = some .stop then
        ((m.stagedFirst ent.valve nx false).enteredFirst ent.valve nx l st).stepOutcome st (m.line l).tagCounter .notListed
      else (m.stagedFirst ent.valve nx false).enteredFirst ent.valve nx l st := by
  have side : m.PlanSide (m.stagedFirst ent.valve nx false) := m.planSide_updateValveMarked _
  have hcond' := (Net.stepCondition_stagedFirst h nx false).trans hcond
  have hl' := (side.valveLine ent.valve).trans hl
  have hline : (m.stagedFirst ent.valve nx false).line l = m.line l := rfl
  rw [Net.stageStep_first h hcurrent hnx haw.symm, if_neg Bool.false_ne_true]
  unfold Net.enterStaged
  rw [(h.stagedFirst nx false).valve, hl']
  dsimp only [Valve.stagedFirst]
  rw [hcond']
  dsimp only
  rw [hstop, if_neg Bool.false_ne_true]
  unfold Net.enterStep
  rw [hline, Net.entryRemoval_of_stepCondition hl' hcond']
  by_cases hlisted : listedCommand (m.line l).commands st = some .stop
  · rw [if_pos hlisted, if_pos hlisted]
    rfl
  · rw [if_neg hlisted, if_neg hlisted]
    rfl

/-- R29, R114: the first step entered and listed. -/
theorem Net.stageStep_listed (h : m.RunningAt k p 0 ent x) (hcurrent : ent.current = 0) (hnx : ent.steps[0]? = some nx)
    (haw : (nx.hold || decide (x.kind = .manual)) = false) {l : Fin 4} {st : Nat} (hl : m.valveLine ent.valve = some (l, st))
    (hcond : m.stepCondition ent.valve = none) (hstop : x.stopPending = false) (hlisted : listedCommand (m.line l).commands st ≠ some .stop) :
    (m.stageStep k.slot 0).Stands k ent.valve p
        { x.stagedFirst nx false with staged := none, inFlight := some (firstInFlight nx (m.line l).tagCounter) } ∧
      ((m.stageStep k.slot 0).line l).commands = stepEntered (m.line l).commands st (m.line l).tagCounter nx.target := by
  rw [Net.stageStep_enters h hcurrent hnx haw hl hcond hstop, if_neg hlisted]
  refine ⟨((h.stagedFirst nx false).enteredFirst nx l st).stands, ?_⟩
  rw [Net.enteredFirst, Net.updateValve, Net.line, Net.markIf_lines]
  change (((m.setLine l (Line.enterStep st nx.target)).line l).commands) = _
  rw [Net.line_setLine]
  exact if_neg hlisted

/-- R115: a STEP that a STOP keeps from being listed changes one valve at most: it is staged again where its plan is found. -/
theorem Net.stepOutcome_notListed_cases (st : Nat) (tag : Byte) (n : Net) :
    n.stepOutcome st tag .notListed = n ∨
      ∃ v f, n.stationValve st = some v ∧ n.stepOutcome st tag .notListed = n.updateValve v f := by
  unfold Net.stepOutcome
  split
  · exact Or.inl rfl
  · next v hv =>
    split
    · exact Or.inl rfl
    · split
      · dsimp only
        split
        · exact Or.inr ⟨v, _, hv, rfl⟩
        · exact Or.inl rfl
      · exact Or.inl rfl

/-- R115: the first step, kept from being listed, is staged again at its own valve. -/
theorem Net.RunningAt.notListed (h : m.RunningAt k p 0 ent x) (hnx : ent.steps[0]? = some nx) {st : Nat} {tag : Byte}
    (hown : m.stationValve st = some ent.valve) (hf : x.inFlight = some (firstInFlight nx tag)) :
    (m.stepOutcome st tag .notListed).Stands k ent.valve p { x with inFlight := none, staged := some (firstStaged nx false) } := by
  have hrestaged : restaged p (firstInFlight nx tag) = firstStaged nx false := by
    unfold restaged firstInFlight firstStaged Plan.stepAt
    simp only [h.entry, Option.bind_some, hnx, Option.map_some, Option.getD_some]
  have hout : m.stepOutcome st tag .notListed =
      m.updateValve ent.valve (fun x => { x with inFlight := none, staged := some (restaged p (firstInFlight nx tag)) }) := by
    unfold Net.stepOutcome
    rw [hown]
    dsimp only
    rw [h.valve, Option.bind_some, hf]
    dsimp only
    rw [if_pos ⟨rfl, rfl⟩, Net.claimPlan_of_running h]
  rw [hout, hrestaged, Net.updateValve]
  refine ⟨by rw [Net.markIf_plans]; exact h.plan, ?_⟩
  rw [Net.markIf_valves]
  exact Net.getElem?_setValve h.valve _

/-- R115: the first step kept from being listed by the STOP of its own station. -/
theorem Net.stageStep_behindStop (h : m.RunningAt k p 0 ent x) (hcurrent : ent.current = 0) (hnx : ent.steps[0]? = some nx)
    (haw : (nx.hold || decide (x.kind = .manual)) = false) (hf : x.inFlight = none) {l : Fin 4} {st : Nat}
    (hl : m.valveLine ent.valve = some (l, st)) (hcond : m.stepCondition ent.valve = none) (hstop : x.stopPending = false)
    (hlisted : listedCommand (m.line l).commands st = some .stop) (hown : m.stationValve st = some ent.valve) :
    (m.stageStep k.slot 0).Stands k ent.valve p (x.stagedFirst nx false) := by
  have entered := (h.stagedFirst nx false).enteredFirst nx l st
  have hstation : ((m.stagedFirst ent.valve nx false).enteredFirst ent.valve nx l st).stationValve st = some ent.valve := by
    rw [Net.enteredFirst, Net.updateValve, Net.stationValve, Net.markIf_stations]
    exact hown
  have hvalve : ({ x.stagedFirst nx false with inFlight := none, staged := some (firstStaged nx false) } : Valve) = x.stagedFirst nx false := by
    unfold Valve.stagedFirst
    rw [hf]
  rw [Net.stageStep_enters h hcurrent hnx haw hl hcond hstop, if_pos hlisted, ← hvalve]
  exact entered.notListed hnx hstation rfl

/-- R115: a STOP listed for a station that is not the valve's own leaves the first step in flight. -/
theorem Net.stageStep_otherStop (h : m.RunningAt k p 0 ent x) (hcurrent : ent.current = 0) (hnx : ent.steps[0]? = some nx)
    (haw : (nx.hold || decide (x.kind = .manual)) = false) {l : Fin 4} {st : Nat} (hl : m.valveLine ent.valve = some (l, st))
    (hcond : m.stepCondition ent.valve = none) (hstop : x.stopPending = false)
    (hlisted : listedCommand (m.line l).commands st = some .stop) (hother : m.stationValve st ≠ some ent.valve) :
    (m.stageStep k.slot 0).Stands k ent.valve p
      { x.stagedFirst nx false with staged := none, inFlight := some (firstInFlight nx (m.line l).tagCounter) } := by
  have entered := ((h.stagedFirst nx false).enteredFirst nx l st).stands
  have hstation : ((m.stagedFirst ent.valve nx false).enteredFirst ent.valve nx l st).stationValve st = m.stationValve st := by
    rw [Net.enteredFirst, Net.updateValve, Net.stationValve, Net.markIf_stations]
    rfl
  rw [Net.stageStep_enters h hcurrent hnx haw hl hcond hstop, if_pos hlisted]
  rcases Net.stepOutcome_notListed_cases st (m.line l).tagCounter ((m.stagedFirst ent.valve nx false).enteredFirst ent.valve nx l st) with
    hsame | ⟨v, f, hv, hout⟩
  · rw [hsame]
    exact entered
  · rw [hstation] at hv
    have hne : v ≠ ent.valve := fun e => hother (e ▸ hv)
    rw [hout, Net.updateValve]
    refine ⟨by rw [Net.markIf_plans]; exact entered.plan, ?_⟩
    rw [Net.markIf_valves, Net.setValve_valves]
    refine Eq.trans ?_ entered.valve
    simp [hne]

end

end Sys2Proof.Machine
end

section
/-! The acceptance of a plan (R112), and what the end of its trial leaves (R75). -/

namespace Sys2Proof.Machine

/-! ## A plan accepted -/

/-- R112, R113: a plan accepted at `now` with the zones expected to lose feed, its first entry RUNNING. -/
def Plan.acceptedAt (zs : List Nat) (now : Time) (q : Plan) : Plan :=
  { q with
    state := .active, expectedLosses := zs, folio := none, acceptedTime := some now, entries := q.entryState 0 .running, running := some 0 }

/-- R112: valve `v` claimed for plan `q`, named by `k`, where an entry names it. -/
def Valve.claimedFor (k : Ref) (q : Plan) (v : Nat) (y : Valve) : Valve :=
  { y with claim := if q.entries.any (fun e => e.valve = v) then some k else y.claim }

/-- R112: the valves of plan `q` claimed for it. -/
def Net.claimFor (k : Ref) (q : Plan) (n : Net) : Net :=
  overEach (fun v n => n.updateValve v (fun x => { x with claim := some k }))
    ((List.range n.valves.length).filter (fun v => q.entries.any (fun e => e.valve = v))) n

/-- R112, R113: the net in which plan `q`, named by `k`, is accepted and its first entry RUNNING, no step of it staged yet. -/
def Net.accepting (k : Ref) (q : Plan) (zs : List Nat) (n : Net) : Net :=
  (((n.updatePlan k.slot (fun p =>
      { p with state := .active, expectedLosses := zs, folio := none, acceptedTime := some n.now })).claimFor k q).claimsChanged.linkPlan
    q.incident k).updatePlan k.slot (fun p => { p.setEntry 0 (fun y => { y with state := .running }) with state := .active, running := some 0 })

/-- What the acceptance leaves before the first step is staged. -/
structure Net.Accepted (n m : Net) (k : Ref) (q : Plan) (zs : List Nat) : Prop where
  plan : findRecord m.plans k = some (q.acceptedAt zs n.now)
  valves : ∀ v, m.valves[v]? = (n.valves[v]?).map (Valve.claimedFor k q v)
  lines : m.lines = n.lines
  stations : m.stations = n.stations
  incident : ∀ x, findRecord n.incidents q.incident = some x →
    findRecord m.incidents q.incident = some { x with reservations := x.reservations - 1, plans := x.plans ++ [k] }

section
variable {n m : Net} {k : Ref} {q : Plan} {zs : List Nat}

@[simp] theorem Net.updatePlan_valves (i : Nat) (f : Plan → Plan) (n : Net) : (n.updatePlan i f).valves = n.valves :=
  Net.markIf_valves _ _ _

theorem Net.findRecord_updatePlan {p : Plan} (h : findRecord n.plans k = some p) (f : Plan → Plan) :
    findRecord (n.updatePlan k.slot f).plans k = some (f p) := by
  rw [Net.updatePlan, Net.markIf_plans, Net.setPlan_plans, findRecord_modify h, if_pos rfl]

theorem Net.acceptPlan_eq (hq : findRecord n.plans k = some q) : n.acceptPlan k zs = (n.accepting k q zs).stageStep k.slot 0 := by
  unfold Net.acceptPlan Net.accepting Net.claimFor
  rw [hq, Net.updatePlan_valves]
  rfl

/-- An update that may be repeated, of a list of valves. -/
theorem overEach_updateValve_getElem? {f : Valve → Valve} (hf : ∀ x, f (f x) = f x) (vs : List Nat) (n : Net) (v : Nat) :
    (overEach (fun v n => n.updateValve v f) vs n).valves[v]? = (n.valves[v]?).map (fun x => if v ∈ vs then f x else x) := by
  unfold overEach
  induction vs generalizing n with
  | nil => simp
  | cons w vs ih =>
    rw [List.foldl_cons, ih]
    change Option.map _ ((n.updateValve w f).valves[v]?) = _
    rw [Net.updateValve, Net.markIf_valves, Net.setValve_valves, List.getElem?_modify]
    cases n.valves[v]? with
    | none => rfl
    | some x =>
      by_cases hv : v ∈ vs
      · by_cases hw : w = v <;> simp [hv, hw, hf]
      · by_cases hw : w = v
        · simp [hv, hw]
        · simp [hv, hw, Ne.symm hw]

theorem Net.claimFor_valves (k : Ref) (q : Plan) (n : Net) (v : Nat) :
    (n.claimFor k q).valves[v]? = (n.valves[v]?).map (Valve.claimedFor k q v) := by
  rw [Net.claimFor, overEach_updateValve_getElem? (f := fun x => { x with claim := some k }) (fun _ => rfl)]
  cases hx : n.valves[v]? with
  | none => rfl
  | some x =>
    have hlt := (List.getElem?_eq_some_iff.1 hx).1
    have hmem : v ∈ (List.range n.valves.length).filter (fun v => q.entries.any (fun e => e.valve = v)) ↔
        q.entries.any (fun e => e.valve = v) = true := by rw [List.mem_filter, List.mem_range]; exact and_iff_right hlt
    simp only [Option.map_some, Valve.claimedFor, hmem]
    split <;> rfl

/-- R112: claiming valves leaves everything else but the marks. -/
theorem Net.claimFor_only (k : Ref) (q : Plan) (n : Net) :
    (n.claimFor k q).plans = n.plans ∧ (n.claimFor k q).lines = n.lines ∧ (n.claimFor k q).stations = n.stations ∧
      (n.claimFor k q).survey = n.survey ∧ (n.claimFor k q).incidents = n.incidents := by
  have view {β : Type} (g : Net → β) (hg : ∀ v m, g (Net.updateValve v (fun x => { x with claim := some k }) m) = g m) :
      g (n.claimFor k q) = g n := overEach_view g hg _ n
  refine ⟨view Net.plans ?_, view Net.lines ?_, view Net.stations ?_, view Net.survey ?_, view Net.incidents ?_⟩ <;>
  · intro v m
    simp [Net.updateValve]

/-- R100: linking a plan writes its incident. -/
theorem Net.linkPlan_only (r p : Ref) (n : Net) :
    (n.linkPlan r p).plans = n.plans ∧ (n.linkPlan r p).valves = n.valves ∧ (n.linkPlan r p).lines = n.lines ∧
      (n.linkPlan r p).stations = n.stations ∧ (n.linkPlan r p).survey = n.survey := by
  unfold Net.linkPlan
  split
  · simp [Net.updateIncident]
  · exact ⟨rfl, rfl, rfl, rfl, rfl⟩

theorem Net.findRecord_linkPlan {r : Ref} {x : Incident} (p : Ref) (h : findRecord n.incidents r = some x) :
    findRecord (n.linkPlan r p).incidents r = some { x with reservations := x.reservations - 1, plans := x.plans ++ [p] } := by
  unfold Net.linkPlan
  rw [if_pos (by rw [h]; rfl), Net.updateIncident, Net.markIf_incidents, Net.setIncident_incidents, findRecord_modify h, if_pos rfl]

/-- R112: what the acceptance of a plan writes. -/
theorem Net.accepted_accepting (hq : findRecord n.plans k = some q) (zs : List Nat) : n.Accepted (n.accepting k q zs) k q zs ∧
    (n.accepting k q zs).survey = { n.survey with generation := n.survey.generation + 1 } := by
  unfold Net.accepting
  generalize hfirst : n.updatePlan k.slot _ = first
  have hplan : findRecord first.plans k = some { q with state := .active, expectedLosses := zs, folio := none, acceptedTime := some n.now } := by
    rw [← hfirst, Net.findRecord_updatePlan hq]
  have hfirstOnly : first.valves = n.valves ∧ first.lines = n.lines ∧ first.stations = n.stations ∧ first.survey = n.survey ∧
      first.incidents = n.incidents := by
    rw [← hfirst]
    simp [Net.updatePlan]
  obtain ⟨hvalves1, hlines1, hstations1, hsurvey1, hincidents1⟩ := hfirstOnly
  obtain ⟨hplans2, hlines2, hstations2, hsurvey2, hincidents2⟩ := Net.claimFor_only k q first
  obtain ⟨hplans3, hvalves3, hlines3, hstations3, hsurvey3⟩ := Net.linkPlan_only q.incident k (first.claimFor k q).claimsChanged
  refine ⟨⟨?_, fun v => ?_, ?_, ?_, fun x hx => ?_⟩, ?_⟩
  · refine Net.findRecord_updatePlan (p := { q with state := .active, expectedLosses := zs, folio := none, acceptedTime := some n.now }) ?_ _
    rw [hplans3]
    exact (congrArg (findRecord · k) hplans2).trans hplan
  · rw [Net.updatePlan_valves, hvalves3, ← hvalves1]
    exact Net.claimFor_valves k q first v
  · rw [Net.updatePlan, Net.markIf_lines]
    exact hlines3.trans (hlines2.trans hlines1)
  · rw [Net.updatePlan, Net.markIf_stations]
    exact hstations3.trans (hstations2.trans hstations1)
  · rw [Net.updatePlan, Net.markIf_incidents, Net.setPlan_incidents]
    refine Net.findRecord_linkPlan k ?_
    rw [← hx, ← hincidents1, ← hincidents2]
    rfl
  · rw [Net.updatePlan, Net.markIf_survey, Net.setPlan_survey, hsurvey3]
    change { (first.claimFor k q).survey with generation := (first.claimFor k q).survey.generation + 1 } = _
    rw [hsurvey2, hsurvey1]

end

/-! ## The first entry started -/

section
variable {n m : Net} {k : Ref} {q q1 : Plan} {zs : List Nat}

theorem Net.Accepted.runningAt (h : n.Accepted m k q zs) {ent : PlanEntry} {x : Valve} (he : q.entries[0]? = some ent)
    (hx : n.valves[ent.valve]? = some x) :
    m.RunningAt k (q.acceptedAt zs n.now) 0 { ent with state := .running } (x.claimedFor k q ent.valve) := by
  refine ⟨h.plan, rfl, ?_, ?_, ?_⟩
  · change (q.entries.modify 0 _)[0]? = _
    rw [List.getElem?_modify, he]
    rfl
  · rw [h.valves, hx]
    rfl
  · exact if_pos (List.any_eq_true.2 ⟨ent, List.mem_of_getElem? he, by simp⟩)

/-- An entry given a state twice. -/
theorem Plan.entryState_twice (q : Plan) (a b : EntryState) :
    (q.entryState 0 a).modify 0 (fun y => { y with state := b }) = q.entryState 0 b := by
  unfold Plan.entryState
  rw [List.modify_modify_eq]
  rfl

/-- The entries of an accepted plan, held, blocked, or both. -/
theorem Plan.acceptedAt_entries (q : Plan) (zs : List Nat) (now : Time) (reason : BlockReason) (v : Nat) :
    (q.acceptedAt zs now).heldFirst.entries = q.entryState 0 .hold ∧
      ((q.acceptedAt zs now).blockedBy 0 reason v).entries = q.entryState 0 .blocked ∧
      ((q.acceptedAt zs now).heldFirst.blockedBy 0 reason v).entries = q.entryState 0 .blocked := by
  have hheld : (q.acceptedAt zs now).heldFirst.entries = q.entryState 0 .hold := q.entryState_twice .running .hold
  refine ⟨hheld, q.entryState_twice .running .blocked, ?_⟩
  change (q.acceptedAt zs now).heldFirst.entries.modify 0 _ = _
  rw [hheld]
  exact q.entryState_twice .hold .blocked

/-- R113: the first step staged, and what stands with it. -/
def Plan.FirstStaged (q q1 : Plan) (nx : PlanStep) (y : Valve) (entry : EntryState) (plan : PlanState) (awaiting : Bool) : Prop :=
  q1.entries = q.entryState 0 entry ∧ q1.state = plan ∧
    y.staged = some { entry := 0, step := 0, target := nx.target, dwell := nx.dwell, awaiting := awaiting } ∧ y.inFlight = none

/-- R112 to R114: the first step `nx` of an accepted plan taken, valve `v` going from `x` to `y` and the plan from `q` to `q1`. -/
structure Net.FirstStepTaken (n m : Net) (q q1 : Plan) (v : Nat) (nx : PlanStep) (x y : Valve) : Prop where
  valve : m.valves[v]? = some y
  planned : y.movedUnplanned = false
  taken : y.staged = some { entry := 0, step := 0, target := nx.target, dwell := nx.dwell, awaiting := false } ∨
    y.staged = some { entry := 0, step := 0, target := nx.target, dwell := nx.dwell, awaiting := true } ∨
    ∃ f, y.inFlight = some f ∧ f.entry = 0 ∧ f.step = 0 ∧ f.target = nx.target
  awaits : x.kind = .manual ∧ n.valveLine v = none ∨ nx.hold = true ∧ (∃ l st, n.MayEnter v x l st) →
    q.FirstStaged q1 nx y .hold .holding true
  blocks : ∀ l st reason, x.kind = .remote → n.valveLine v = some (l, st) → n.EntryFails x l st reason →
    q.FirstStaged q1 nx y .blocked .blocked nx.hold ∧ q1.block = some { reason := reason, valve := v }
  stays : ∀ l st, nx.hold = false → n.MayEnter v x l st →
    x.stopPending = true ∨ listedCommand (n.line l).commands st = some .stop ∧ n.stationValve st = some v →
      q.FirstStaged q1 nx y .running .active false
  enters : ∀ l st, nx.hold = false → n.MayEnter v x l st → x.stopPending = false → listedCommand (n.line l).commands st ≠ some .stop →
    q1.entries = q.entryState 0 .running ∧ q1.state = .active ∧ y.staged = none ∧
      y.inFlight = some { entry := 0, step := 0, tag := (n.line l).tagCounter, target := nx.target, accepted := none, unverified := false } ∧
      (m.line l).commands = stepEntered (n.line l).commands st (n.line l).tagCounter nx.target

theorem Net.Accepted.line (h : n.Accepted m k q zs) (l : Fin 4) : m.line l = n.line l := by
  rw [Net.line, h.lines, Net.line]

theorem Net.Accepted.stationValve (h : n.Accepted m k q zs) (st : Nat) : m.stationValve st = n.stationValve st := by
  rw [Net.stationValve, h.stations, Net.stationValve]

section
variable {ent : PlanEntry} {nx : PlanStep} {x : Valve}

theorem Net.Accepted.stepCondition (h : n.Accepted m k q zs) (he : q.entries[0]? = some ent) (hx : n.valves[ent.valve]? = some x) :
    m.stepCondition ent.valve = n.stepCondition ent.valve :=
  Net.stepCondition_congr h.lines h.stations hx (h.runningAt he hx).valve rfl rfl

theorem Net.Accepted.valveLine (h : n.Accepted m k q zs) (he : q.entries[0]? = some ent) (hx : n.valves[ent.valve]? = some x) :
    m.valveLine ent.valve = n.valveLine ent.valve := by
  have hvalve : m.valves[ent.valve]? = _ := (h.runningAt he hx).valve
  unfold Net.valveLine
  rw [hx, h.stations, hvalve]
  rfl

/-- R113, R114: a first step that awaits PROCEED, because it is a hold or its valve is manual. -/
theorem Net.Accepted.firstStep_awaiting (h : n.Accepted m k q zs) (hq1 : findRecord (m.stageStep k.slot 0).plans k = some q1)
    (he : q.entries[0]? = some ent) (hcurrent : ent.current = 0) (hnx : ent.steps[0]? = some nx) (hx : n.valves[ent.valve]? = some x)
    (hf : x.inFlight = none) (haw : (nx.hold || decide (x.kind = .manual)) = true) :
    ∃ y, n.FirstStepTaken (m.stageStep k.slot 0) q q1 ent.valve nx x y := by
  have hrun := h.runningAt he hx
  have hcond := h.stepCondition he hx
  have hkind {P : Prop} {l : Fin 4} {st : Nat} (hhold : nx.hold = false) (hm : n.MayEnter ent.valve x l st) : P := by
    rw [hhold, hm.kind] at haw
    exact absurd haw (by decide)
  have hentries := q.acceptedAt_entries zs n.now
  cases hc : n.stepCondition ent.valve with
  | none =>
    have stands := Net.stageStep_holds hrun hcurrent hnx haw (hcond.trans hc)
    obtain rfl := Option.some.inj (hq1.symm.trans stands.plan)
    exact ⟨_, stands.valve, rfl, Or.inr (Or.inl rfl), fun _ => ⟨(hentries .atSite 0).1, rfl, rfl, hf⟩,
      fun l st reason _ hl hm => (nomatch hc.symm.trans (Net.stepCondition_fails hx hl hm)), fun l st hhold hm => hkind hhold hm,
      fun l st hhold hm => hkind hhold hm⟩
  | some reason =>
    have stands := Net.stageStep_holdFails hrun hcurrent hnx haw hf (hcond.trans hc)
    obtain rfl := Option.some.inj (hq1.symm.trans stands.plan)
    refine ⟨_, stands.valve, rfl, Or.inr (Or.inl rfl), fun hcase => ?_, fun l st reason' hremote hl hm => ?_, fun l st hhold hm => hkind hhold hm,
      fun l st hhold hm => hkind hhold hm⟩
    · rcases hcase with ⟨-, hnone⟩ | ⟨-, l, st, hm⟩
      · exact nomatch hc.symm.trans (Net.stepCondition_unplaced hnone)
      · exact nomatch hc.symm.trans (Net.stepCondition_mayEnter hx hm)
    · obtain rfl := Option.some.inj (hc.symm.trans (Net.stepCondition_fails hx hl hm))
      have hhold : nx.hold = true := by simpa [hremote] using haw
      rw [hhold]
      exact ⟨⟨(hentries reason ent.valve).2.2, rfl, rfl, hf⟩, rfl⟩

/-- R113: a step that is no hold, on a valve that is not manual, awaits nothing. -/
theorem Net.not_awaits (hhold : nx.hold = false) (hkind : x.kind ≠ .manual) {v : Nat} {P : Prop}
    (hcase : x.kind = .manual ∧ n.valveLine v = none ∨ nx.hold = true ∧ ∃ l st, n.MayEnter v x l st) : P := by
  rcases hcase with ⟨hmanual, -⟩ | ⟨htrue, -⟩
  · exact absurd hmanual hkind
  · exact nomatch hhold.symm.trans htrue

/-- R114: a first step to be entered, a condition of which fails. -/
theorem Net.Accepted.firstStep_fails (h : n.Accepted m k q zs) (hq1 : findRecord (m.stageStep k.slot 0).plans k = some q1)
    (he : q.entries[0]? = some ent) (hcurrent : ent.current = 0) (hnx : ent.steps[0]? = some nx) (hx : n.valves[ent.valve]? = some x)
    (hf : x.inFlight = none) (hhold : nx.hold = false) (hkind : x.kind ≠ .manual) {reason : BlockReason}
    (hc : n.stepCondition ent.valve = some reason) : ∃ y, n.FirstStepTaken (m.stageStep k.slot 0) q q1 ent.valve nx x y := by
  have haw : (nx.hold || decide (x.kind = .manual)) = false := by rw [hhold, decide_eq_false hkind, Bool.or_false]
  have hmay {P : Prop} {l : Fin 4} {st : Nat} (hm : n.MayEnter ent.valve x l st) : P :=
    nomatch hc.symm.trans (Net.stepCondition_mayEnter hx hm)
  have stands := Net.stageStep_entryFails (h.runningAt he hx) hcurrent hnx haw rfl hf ((h.stepCondition he hx).trans hc)
  obtain rfl := Option.some.inj (hq1.symm.trans stands.plan)
  refine ⟨_, stands.valve, rfl, Or.inl rfl, Net.not_awaits hhold hkind, fun l st reason' _ hl hm => ?_, fun l st _ hm => hmay hm,
    fun l st _ hm => hmay hm⟩
  obtain rfl := Option.some.inj (hc.symm.trans (Net.stepCondition_fails hx hl hm))
  rw [hhold]
  exact ⟨⟨(q.acceptedAt_entries zs n.now reason ent.valve).2.1, rfl, rfl, hf⟩, rfl⟩

/-- R114: a first step to be entered, no condition of which fails, by the commands listed for its station. -/
theorem Net.Accepted.firstStep_entering (h : n.Accepted m k q zs) (hq1 : findRecord (m.stageStep k.slot 0).plans k = some q1)
    (he : q.entries[0]? = some ent) (hcurrent : ent.current = 0) (hnx : ent.steps[0]? = some nx) (hx : n.valves[ent.valve]? = some x)
    (hf : x.inFlight = none) (hhold : nx.hold = false) (hkind : x.kind ≠ .manual) (hc : n.stepCondition ent.valve = none) :
    ∃ y, n.FirstStepTaken (m.stageStep k.slot 0) q q1 ent.valve nx x y := by
  have haw : (nx.hold || decide (x.kind = .manual)) = false := by rw [hhold, decide_eq_false hkind, Bool.or_false]
  have hrun := h.runningAt he hx
  have hcond := (h.stepCondition he hx).trans hc
  have hplace := h.valveLine he hx
  have noFailure {P : Prop} {l : Fin 4} {st : Nat} {reason : BlockReason} (_ : x.kind = .remote) (hl : n.valveLine ent.valve = some (l, st))
      (hm : n.EntryFails x l st reason) : P := nomatch hc.symm.trans (Net.stepCondition_fails hx hl hm)
  by_cases hwait : n.valveLine ent.valve = none ∨ x.stopPending = true
  · have stands := Net.stageStep_waits hrun hcurrent hnx haw hcond (by rwa [hplace])
    obtain rfl := Option.some.inj (hq1.symm.trans stands.plan)
    refine ⟨_, stands.valve, rfl, Or.inl rfl, Net.not_awaits hhold hkind, fun _ _ _ => noFailure,
      fun _ _ _ _ _ => ⟨rfl, rfl, rfl, hf⟩, fun l st _ hm hgoes _ => ?_⟩
    rcases hwait with hnone | hstop
    · exact nomatch hnone.symm.trans hm.place
    · exact nomatch hgoes.symm.trans hstop
  · obtain ⟨hplaced, hgoes⟩ := not_or.1 hwait
    obtain ⟨⟨l, st⟩, hl⟩ := Option.ne_none_iff_exists'.1 hplaced
    rw [Bool.not_eq_true] at hgoes
    have same {l' : Fin 4} {st' : Nat} (hm : n.MayEnter ent.valve x l' st') : l = l' ∧ st = st' := by
      cases hl.symm.trans hm.place
      exact ⟨rfl, rfl⟩
    by_cases hlisted : listedCommand (n.line l).commands st = some .stop
    · by_cases hown : n.stationValve st = some ent.valve
      · have stands := Net.stageStep_behindStop hrun hcurrent hnx haw hf (hplace.trans hl) hcond hgoes (by rwa [h.line])
          (by rwa [h.stationValve])
        obtain rfl := Option.some.inj (hq1.symm.trans stands.plan)
        refine ⟨_, stands.valve, rfl, Or.inl rfl, Net.not_awaits hhold hkind, fun _ _ _ => noFailure,
          fun _ _ _ _ _ => ⟨rfl, rfl, rfl, hf⟩, fun l' st' _ hm _ hfree => ?_⟩
        obtain ⟨rfl, rfl⟩ := same hm
        exact absurd hlisted hfree
      · have stands := Net.stageStep_otherStop hrun hcurrent hnx haw (hplace.trans hl) hcond hgoes (by rwa [h.line]) (by rwa [h.stationValve])
        obtain rfl := Option.some.inj (hq1.symm.trans stands.plan)
        refine ⟨_, stands.valve, rfl, Or.inr (Or.inr ⟨_, rfl, rfl, rfl, rfl⟩), Net.not_awaits hhold hkind, fun _ _ _ => noFailure,
          fun l' st' _ hm hcase => ?_,
          fun l' st' _ hm _ hfree => ?_⟩ <;> obtain ⟨rfl, rfl⟩ := same hm
        · rcases hcase with hstop | ⟨-, hvalve⟩
          · exact nomatch hgoes.symm.trans hstop
          · exact absurd hvalve hown
        · exact absurd hlisted hfree
    · obtain ⟨stands, hcommands⟩ := Net.stageStep_listed hrun hcurrent hnx haw (hplace.trans hl) hcond hgoes (by rwa [h.line])
      rw [h.line] at stands hcommands
      obtain rfl := Option.some.inj (hq1.symm.trans stands.plan)
      refine ⟨_, stands.valve, rfl, Or.inr (Or.inr ⟨_, rfl, rfl, rfl, rfl⟩), Net.not_awaits hhold hkind, fun _ _ _ => noFailure,
        fun l' st' _ hm hcase => ?_,
        fun l' st' _ hm _ _ => ?_⟩ <;> obtain ⟨rfl, rfl⟩ := same hm
      · rcases hcase with hstop | ⟨hlist, -⟩
        · exact nomatch hgoes.symm.trans hstop
        · exact absurd hlist hlisted
      · exact ⟨rfl, rfl, rfl, rfl, hcommands⟩

end

/-- R112 to R114: the first entry of an accepted plan, by whether its step awaits PROCEED and whether a condition of it fails. -/
theorem Net.Accepted.firstEntryStarted (h : n.Accepted m k q zs) (hq1 : findRecord (m.stageStep k.slot 0).plans k = some q1) :
    n.FirstEntryStarted (m.stageStep k.slot 0) q q1 := by
  obtain ⟨q1', hq1', hcarried⟩ := (Net.EntrySide.stageStep (k := k) k.slot 0 m).plan _ h.plan
  obtain rfl := Option.some.inj (hq1.symm.trans hq1')
  refine ⟨hcarried.running, hcarried.begun (Or.inl rfl), fun ent nx x he hcurrent hnx hx hf => ?_⟩
  have step : ∃ y, n.FirstStepTaken (m.stageStep k.slot 0) q q1 ent.valve nx x y := by
    cases haw : nx.hold || decide (x.kind = .manual) with
    | true => exact h.firstStep_awaiting hq1 he hcurrent hnx hx hf haw
    | false =>
      obtain ⟨hhold, hkind⟩ := Bool.or_eq_false_iff.1 haw
      cases hc : n.stepCondition ent.valve with
      | some reason => exact h.firstStep_fails hq1 he hcurrent hnx hx hf hhold (of_decide_eq_false hkind) hc
      | none => exact h.firstStep_entering hq1 he hcurrent hnx hx hf hhold (of_decide_eq_false hkind) hc
  obtain ⟨y, taken⟩ := step
  exact ⟨y, taken.valve, taken.planned, taken.taken, taken.awaits, taken.blocks,
    fun l st hhold hm => ⟨taken.stays l st hhold hm, taken.enters l st hhold hm⟩⟩

end

end Sys2Proof.Machine
end

section
/-! The completion of a PLAN trial (R75, R112). -/

namespace Sys2Proof.Machine

section
variable {n : Net} {k : Ref} {q : Plan} {x : Incident} {f : Nat} {zs : List Nat}

/-- R100, R112: the plan left CHECKING without acceptance. -/
theorem Net.freePlan_eq (hq : findRecord n.plans k = some q) (hx : findRecord n.incidents q.incident = some x) :
    n.freePlan k =
      { n with
        plans := n.plans.modify k.slot (fun sl => { sl with state := .free, record := none })
        incidents := putRecord n.incidents q.incident.slot { x with reservations := x.reservations - 1 } } := by
  obtain ⟨sl, hsl, -, -, hrecord⟩ := slotRecord_of_findRecord hx
  unfold Net.freePlan
  rw [hq]
  dsimp only
  unfold Net.unreserve
  rw [if_pos (by rw [show findRecord _ q.incident = _ from hx]; rfl), Net.setIncident]
  exact congrArg (fun slots => ({ n with plans := _, incidents := slots } : Net)) (modify_update_eq_putRecord _ hsl hrecord)

/-- R112: an entry of a plan names a valve that is claimed. -/
def Net.claimedAt (n : Net) (e : PlanEntry) : Prop := ∃ v, n.valves[e.valve]? = some v ∧ v.claim ≠ none

theorem Net.claimedAt_iff (n : Net) (e : PlanEntry) : ((n.valves[e.valve]?).any (fun x => x.claim.isSome)) = true ↔ n.claimedAt e := by
  rw [Option.any_eq_true]
  exact exists_congr fun v => and_congr_right fun _ => Option.isSome_iff_ne_none

/-- R112: the first entry whose valve is claimed. -/
theorem Net.claimedEntry_first {i : Nat} {e : PlanEntry} (he : q.entries[i]? = some e) (hc : n.claimedAt e)
    (hfirst : ∀ j d, j < i → q.entries[j]? = some d → ¬ n.claimedAt d) : n.claimedEntry q = some (i + 1) := by
  obtain ⟨hlt, rfl⟩ := List.getElem?_eq_some_iff.1 he
  have hfind : q.entries.findIdx? (fun e => (n.valves[e.valve]?).any (fun x => x.claim.isSome)) = some i := by
    refine List.findIdx?_eq_some_iff_getElem.2 ⟨hlt, (n.claimedAt_iff _).2 hc, fun j hj hany => ?_⟩
    exact hfirst j _ hj (List.getElem?_eq_getElem (hj.trans hlt)) ((n.claimedAt_iff _).1 hany)
  rw [Net.claimedEntry, hfind]
  rfl

theorem Net.claimedEntry_none (h : ∀ e ∈ q.entries, ¬ n.claimedAt e) : n.claimedEntry q = none := by
  have hfind : q.entries.findIdx? (fun e => (n.valves[e.valve]?).any (fun x => x.claim.isSome)) = none :=
    List.findIdx?_eq_none_iff.2 fun e he => Bool.eq_false_iff.2 fun hany => h e he ((n.claimedAt_iff e).1 hany)
  rw [Net.claimedEntry, hfind]
  rfl

/-- R112: the verdict of a plan's trial, its folio `f`. -/
theorem Net.handVerdict_plan (hq : findRecord n.plans k = some q) (hf : q.folio = some f) :
    n.handVerdict (.plan k) (.wouldIsolate zs) = (n.freePlan k, some ⟨f, .withBody .wouldIsolate (trialBody k.slot 0 k.serial zs)⟩) ∧
      n.handVerdict (.plan k) (.wouldRefeed zs) = (n.freePlan k, some ⟨f, .withBody .wouldRefeed (trialBody k.slot 0 k.serial zs)⟩) ∧
      (∀ i, n.claimedEntry q = some i → n.handVerdict (.plan k) (.accepted zs) =
        (n.freePlan k, some ⟨f, .withBody .claimed (trialBody k.slot i k.serial [])⟩)) ∧
      (n.claimedEntry q = none → n.handVerdict (.plan k) (.accepted zs) =
        (n.acceptPlan k zs, some ⟨f, .withBody .accepted (trialBody k.slot 0 k.serial zs)⟩)) := by
  refine ⟨?_, ?_, fun i hi => ?_, fun hi => ?_⟩ <;> unfold Net.handVerdict Net.planResult <;> dsimp only <;> rw [hq] <;> dsimp only <;> rw [hf]
  · rfl
  · rfl
  · rw [hi]
    rfl
  · rw [hi]
    rfl

/-- R109, R112, R113: what the acceptance of a plan leaves, whatever the survey engine's part of the net. -/
theorem Net.acceptPlan_spec (hq : findRecord n.plans k = some q) (hx : findRecord n.incidents q.incident = some x) (e : Survey) :
    let m := ({ n with survey := e } : Net).acceptPlan k zs
    m.survey = { e with generation := e.generation + 1 } ∧
      (∃ q1, findRecord m.plans k = some q1 ∧ q1.expectedLosses = zs ∧ q1.acceptedTime = some n.now ∧ q1.folio = none ∧
        n.FirstEntryStarted m q q1) ∧
      (∃ x1, findRecord m.incidents q.incident = some x1 ∧ x1.plans = x.plans ++ [k] ∧ x1.reservations = x.reservations - 1) ∧
      ∀ v y, n.valves[v]? = some y → ∃ w, m.valves[v]? = some w ∧
        w.claim = if q.entries.any (fun e => e.valve = v) then some k else y.claim := by
  intro m
  obtain ⟨hplan, hvalves, hlines, hstations, hincident⟩ := (Net.accepted_accepting (n := { n with survey := e }) hq zs).1
  have hsurvey := (Net.accepted_accepting (n := { n with survey := e }) hq zs).2
  have accepted : n.Accepted (({ n with survey := e } : Net).accepting k q zs) k q zs := ⟨hplan, hvalves, hlines, hstations, hincident⟩
  have hm : m = _ := Net.acceptPlan_eq (n := { n with survey := e }) hq
  rw [hm]
  generalize ({ n with survey := e } : Net).accepting k q zs = first at *
  have side := Net.EntrySide.stageStep (k := k) k.slot 0 first
  have hincidents := (first.planSide_stageStep k.slot 0).incidents
  refine ⟨side.survey.trans hsurvey, ?_, ?_, fun v y hy => ?_⟩
  · obtain ⟨q1, hq1, carried⟩ := side.plan _ accepted.plan
    exact ⟨q1, hq1, carried.losses, carried.accepted, carried.folio, accepted.firstEntryStarted hq1⟩
  · exact ⟨_, by rw [hincidents]; exact accepted.incident x hx, rfl, rfl⟩
  · have hclaim : ((first.stageStep k.slot 0).valves[v]?).map Valve.claim = some (y.claimedFor k q v).claim := by
      rw [← List.getElem?_map, side.claims, List.getElem?_map, accepted.valves, hy]
      rfl
    exact Option.map_eq_some_iff.1 hclaim

end

/-- Settles O39: by the generation, the verdict, and the first entry whose valve is claimed. -/
theorem planTrialFreesOrClaims : Obligations.PlanTrialFreesOrClaims := by
  unfold Obligations.PlanTrialFreesOrClaims
  intro stores s start result k q x f rest hflight hqueue hq hf hstate hx hfit u verdict claimed freed
  let popped : Net := { s.net with survey := { s.net.survey with inFlight := none, queue := rest } }
  have hzones := Net.judge_zones_le s.net (q.outageAccepted, q.refeedAccepted) [] result
  have hflags : s.net.subjectFlags (.plan k) = (q.outageAccepted, q.refeedAccepted) := by
    unfold Net.subjectFlags
    dsimp only
    rw [hq]
    rfl
  have fits {zs : List Nat} (h : zs.length ≤ s.net.zones.length) : (trialBody k.slot 0 k.serial zs).length ≤ 240 :=
    trialBody_fits hfit h k.slot 0 k.serial
  refine ⟨u.endTrial.judgeStarved, rfl, fun hgen => ?_, fun zs hgen hstall => ?_⟩
  · exact State.endTrial_onlyNet (s := u) (Net.completeTrial_overtaken hflight hqueue hgen)
  have he := Net.completeTrial_stands hflight hqueue hgen
  rw [hflags] at he
  obtain ⟨hisolates, hrefeeds, hclaims, haccepts⟩ := Net.handVerdict_plan (n := popped) (zs := zs) hq hf
  have hfreed : popped.freePlan k = _ := Net.freePlan_eq (n := popped) hq hx
  refine ⟨fun hv => ?_, fun hv => ?_, fun i e hv hi hc hfirst => ?_, fun hv hfree => ?_⟩
  all_goals
    rw [show s.net.judge _ [] result = _ from hv] at he hzones
  · rw [hisolates, hfreed] at he
    exact State.endTrial_endsLate (s := u) hstall he (fits hzones)
  · rw [hrefeeds, hfreed] at he
    exact State.endTrial_endsLate (s := u) hstall he (fits hzones)
  · rw [hclaims (i + 1) (Net.claimedEntry_first hi hc hfirst), hfreed] at he
    exact State.endTrial_endsLate (s := u) hstall he (by rw [Answer.withBody, trialBody_length]; decide)
  · rw [haccepts (Net.claimedEntry_none hfree)] at he
    obtain ⟨hsurvey, hplan, hincident, hvalves⟩ := Net.acceptPlan_spec (zs := zs) hq hx popped.survey
    refine ⟨popped.acceptPlan k zs, State.endTrial_endsLate (s := u) hstall he (fits hzones), ?_, ?_, ?_, hplan, hincident, hvalves⟩ <;>
    · rw [hsurvey]

end Sys2Proof.Machine
end

section
/-! Where the losses of a completion go (R135 to R137): the searches of the outage unit, by what the statements say of them. -/

namespace Sys2Proof.Machine

section
variable {n : Net} {q r : Ref} {o : Outage}

/-! ## The planned incident and its outage (R135, R136) -/

/-- R135: the noted claim of the lowest-numbered valve that carries one. -/
theorem notedClaim_eq_some_iff (cs : List ChangedValve) (r : Ref) : notedClaim cs = some r ↔ FirstClaim cs r := by
  have hrange (v : Nat) (hv : v < 256) : List.range 256 = List.range v ++ v :: (List.range (255 - v)).map (v + 1 + ·) := by
    have hsplit : List.range (v + (255 - v + 1)) = List.range v ++ (List.range (255 - v + 1)).map (v + ·) := List.range_add
    rw [show 256 = v + (255 - v + 1) by omega, hsplit, List.range_succ_eq_map, List.map_cons, List.map_map]
    refine congrArg _ (congrArg₂ _ (Nat.add_zero v) (List.map_congr_left fun w _ => ?_))
    change v + (w + 1) = v + 1 + w
    omega
  change (List.range 256).findSome? (claimNoted cs) = some r ↔ _
  constructor
  · intro h
    obtain ⟨before, v, after, hsplit, hv, hnone⟩ := List.findSome?_eq_some_iff.1 h
    have hlen : before.length < (List.range 256).length := by rw [hsplit, List.length_append, List.length_cons]; omega
    have hat : (List.range 256)[before.length]? = some v := by rw [hsplit]; simp
    rw [List.length_range] at hlen
    rw [List.getElem?_range hlen] at hat
    obtain rfl := Option.some.inj hat
    refine ⟨_, hlen, hv, fun w hw => hnone w ?_⟩
    have hmem := List.mem_range.2 hw
    have htake : before = List.range before.length := by
      have := congrArg (List.take before.length) hsplit
      rw [List.take_left, List.take_range, Nat.min_eq_left (Nat.le_of_lt hlen)] at this
      exact this.symm
    rw [htake]
    exact hmem
  · rintro ⟨v, hv, hclaim, hnone⟩
    exact List.findSome?_eq_some_iff.2 ⟨_, v, _, hrange v hv, hclaim, fun w hw => hnone w (List.mem_range.1 hw)⟩

theorem Net.plannedIncident_eq_some_iff : n.plannedIncident = some q ↔ n.Planned q := by
  unfold Net.plannedIncident Net.Planned
  simp only [Option.map_eq_some_iff, Option.bind_eq_some_iff, notedClaim_eq_some_iff]
  constructor
  · rintro ⟨p, ⟨r, hclaim, hp⟩, hq⟩
    exact ⟨r, p, hclaim, hp, hq⟩
  · rintro ⟨r, p, hclaim, hp, hq⟩
    exact ⟨p, ⟨r, hclaim, hp⟩, hq⟩

theorem Net.planned_unique {q' : Ref} (h : n.Planned q) (h' : n.Planned q') : q = q' :=
  Option.some.inj ((Net.plannedIncident_eq_some_iff.2 h).symm.trans (Net.plannedIncident_eq_some_iff.2 h'))

theorem Net.plannedOutage_eq_some_iff {i : Nat} : n.plannedOutage = some i ↔ ∃ r o, n.PlannedOutage r o ∧ r.slot = i := by
  unfold Net.plannedOutage Net.PlannedOutage
  simp only [Option.bind_eq_some_iff, Net.plannedIncident_eq_some_iff]
  constructor
  · rintro ⟨r, ⟨x, ⟨q, hq, hx⟩, hr⟩, o, ho, hslot⟩
    split at hslot
    · exact nomatch hslot
    · next hstate => exact ⟨r, o, ⟨q, x, hq, hx, hr, ho, hstate⟩, Option.some.inj hslot⟩
  · rintro ⟨r, o, ⟨q, x, hq, hx, hr, ho, hstate⟩, hslot⟩
    exact ⟨r, ⟨x, ⟨q, hq, hx⟩, hr⟩, o, ho, by rw [if_neg hstate, hslot]⟩

theorem Net.plannedOutage_eq_none (h : ∀ r o, ¬ n.PlannedOutage r o) : n.plannedOutage = none :=
  Option.eq_none_iff_forall_ne_some.2 fun _ hi =>
    have ⟨r, o, ho, _⟩ := Net.plannedOutage_eq_some_iff.1 hi
    h r o ho

/-- R135: the cause of losses, whatever claims are noted. -/
theorem Net.lossCause_eq (n : Net) : n.lossCause = n.causeOfLosses := by
  unfold Net.lossCause Net.causeOfLosses
  have hnoted : (notedClaim n.survey.changeValves).isSome =
      (List.range 256).any (fun v => (claimNoted n.survey.changeValves v).isSome) := List.isSome_findSome?
  rw [hnoted]

theorem Net.planned_of_cause (h : n.Planned q) : n.causeOfLosses = .planned := by
  obtain ⟨r, -, hclaim, -⟩ := h
  rw [← Net.lossCause_eq, Net.lossCause, (notedClaim_eq_some_iff _ _).2 hclaim]
  rfl

/-! ## The newest record in a state (R137) -/

theorem Net.mem_outagesIn_iff (st : OutageState) (i : Nat) :
    i ∈ idsWhere n.outages (fun sl => sl.state = .inUse && sl.record.any (fun o => o.state = st)) ↔ ∃ o, n.outageIn st i o := by
  rw [Net.mem_idsWhere]
  unfold Net.outageIn
  constructor
  · rintro ⟨sl, hsl, hin⟩
    obtain ⟨hstate, hrecord⟩ := Bool.and_eq_true_iff.1 hin
    obtain ⟨o, ho, hst⟩ := (Option.any_eq_true _ _).1 hrecord
    exact ⟨o, sl, hsl, of_decide_eq_true hstate, ho, of_decide_eq_true hst⟩
  · rintro ⟨o, sl, hsl, hstate, ho, hst⟩
    exact ⟨sl, hsl, by simp [hstate, ho, hst]⟩

/-- The sequence by which R137 compares slots. -/
def sequenceAt (slots : List (Slot Outage)) (i : Nat) : BitVec 32 := ((slotRecord slots i).map (·.sequence)).getD 0

/-- R137: a slot whose sequence is above that of all others is the one found. -/
theorem foldl_laterOutage {slots : List (Slot Outage)} {is : List Nat} {j : Nat} (best : Option Nat)
    (hbest : best = some j ∨ j ∈ is ∧ ∀ b, best = some b → sequenceAt slots b < sequenceAt slots j ∨ b = j)
    (hmax : ∀ i ∈ is, i ≠ j → sequenceAt slots i < sequenceAt slots j) : is.foldl (laterOutage slots) best = some j := by
  induction is generalizing best with
  | nil => exact hbest.resolve_right fun h => nomatch h.1
  | cons i is ih =>
    have later (b : Nat) : laterOutage slots (some b) i = if sequenceAt slots b < sequenceAt slots i then some i else some b := rfl
    refine ih (laterOutage slots best i) ?_ (fun k hk => hmax k (List.mem_cons_of_mem _ hk))
    by_cases hij : i = j
    · subst hij
      left
      cases best with
      | none => rfl
      | some b =>
        rw [later]
        split
        · rfl
        · next hle =>
          rcases hbest with hb | ⟨-, hb⟩
          · exact hb
          · rcases hb b rfl with hlt | rfl
            · exact absurd hlt hle
            · rfl
    · have hlt := hmax i List.mem_cons_self hij
      rcases hbest with rfl | ⟨hmem, hb⟩
      · left
        rw [later, if_neg (BitVec.lt_asymm hlt)]
      · right
        refine ⟨(List.mem_cons.1 hmem).resolve_left (Ne.symm hij), fun b hbest => ?_⟩
        cases best with
        | none =>
          obtain rfl := Option.some.inj hbest
          exact Or.inl hlt
        | some b' =>
          rw [later] at hbest
          split at hbest
          · obtain rfl := Option.some.inj hbest
            exact Or.inl hlt
          · obtain rfl := Option.some.inj hbest
            exact hb b' rfl

theorem Net.sequenceAt_of_outageIn {st : OutageState} {i : Nat} (h : n.outageIn st i o) : sequenceAt n.outages i = o.sequence := by
  obtain ⟨sl, hsl, -, ho, -⟩ := h
  rw [sequenceAt, slotRecord, hsl, Option.bind_some, ho]
  rfl

theorem Net.newestOutage_of_newest {st : OutageState} {j : Nat} (h : n.Newest st j o) : n.newestOutage st = some j := by
  refine foldl_laterOutage none (Or.inr ⟨(Net.mem_outagesIn_iff st j).2 ⟨o, h.1⟩, nofun⟩) fun i hi hij => ?_
  obtain ⟨w, hw⟩ := (Net.mem_outagesIn_iff st i).1 hi
  rw [Net.sequenceAt_of_outageIn hw, Net.sequenceAt_of_outageIn h.1]
  exact h.2 i w hw hij

theorem Net.newestOutage_eq_none_iff (st : OutageState) : n.newestOutage st = none ↔ ∀ j o, ¬ n.outageIn st j o := by
  have kept (slots : List (Slot Outage)) (is : List Nat) (b : Nat) : is.foldl (laterOutage slots) (some b) ≠ none := by
    induction is generalizing b with
    | nil => nofun
    | cons i is ih =>
      rw [List.foldl_cons, laterOutage]
      split <;> exact ih _
  have hids : idsWhere n.outages (fun sl => sl.state = .inUse && sl.record.any (fun o => o.state = st)) = [] ↔ ∀ j o, ¬ n.outageIn st j o := by
    rw [List.eq_nil_iff_forall_not_mem]
    exact ⟨fun h j o ho => h j ((Net.mem_outagesIn_iff st j).2 ⟨o, ho⟩), fun h j hj =>
      have ⟨o, ho⟩ := (Net.mem_outagesIn_iff st j).1 hj
      h j o ho⟩
  rw [← hids]
  unfold Net.newestOutage
  cases idsWhere n.outages (fun sl => sl.state = .inUse && sl.record.any (fun o => o.state = st)) with
  | nil => exact ⟨fun _ => rfl, fun _ => rfl⟩
  | cons i is => exact ⟨fun h => absurd h (kept n.outages is i), nofun⟩

/-! ## The place of losses (R136, R137) -/

theorem Net.lossPlace_planned (h : n.PlannedOutage r o) : n.lossPlace = some (.existing r.slot) := by
  unfold Net.lossPlace
  rw [Net.plannedOutage_eq_some_iff.2 ⟨r, o, h, rfl⟩]

theorem Net.lossPlace_fresh {j : Nat} (h : ∀ r o, ¬ n.PlannedOutage r o) (hj : LowestFree n.outages j) : n.lossPlace = some (.fresh j) := by
  unfold Net.lossPlace
  rw [Net.plannedOutage_eq_none h, freeSlot_of_lowestFree hj]

theorem Net.lossPlace_full (h : ∀ r o, ¬ n.PlannedOutage r o) (hfull : ∀ sl ∈ n.outages, sl.state ≠ .free) :
    n.lossPlace = ((n.newestOutage .isolated).orElse (fun _ => n.newestOutage .restoring)).map .existing := by
  unfold Net.lossPlace
  rw [Net.plannedOutage_eq_none h, freeSlot_of_none_free hfull]

theorem Net.lossPlace_isolated {j : Nat} (h : ∀ r o, ¬ n.PlannedOutage r o) (hfull : ∀ sl ∈ n.outages, sl.state ≠ .free)
    (hj : n.Newest .isolated j o) : n.lossPlace = some (.existing j) := by
  rw [Net.lossPlace_full h hfull, Net.newestOutage_of_newest hj]
  rfl

theorem Net.lossPlace_restoring {j : Nat} (h : ∀ r o, ¬ n.PlannedOutage r o) (hfull : ∀ sl ∈ n.outages, sl.state ≠ .free)
    (hnone : ∀ j o, ¬ n.outageIn .isolated j o) (hj : n.Newest .restoring j o) : n.lossPlace = some (.existing j) := by
  rw [Net.lossPlace_full h hfull, (Net.newestOutage_eq_none_iff .isolated).2 hnone, Net.newestOutage_of_newest hj]
  rfl

/-- R137: losses are refused exactly when they have no place. -/
theorem Net.lossPlace_eq_none_iff : n.lossPlace = none ↔ n.NoPlace := by
  constructor
  · intro h
    have hplanned : ∀ r o, ¬ n.PlannedOutage r o := fun r o ho => by
      rw [Net.lossPlace_planned ho] at h
      exact nomatch h
    have hfree : freeSlot n.outages = none := by
      unfold Net.lossPlace at h
      rw [Net.plannedOutage_eq_none hplanned] at h
      cases hf : freeSlot n.outages with
      | none => rfl
      | some i => rw [hf] at h; exact nomatch h
    have hfull : ∀ sl ∈ n.outages, sl.state ≠ .free := fun sl hsl => by
      simpa using List.findIdx?_eq_none_iff.1 hfree sl hsl
    rw [Net.lossPlace_full hplanned hfull, Option.map_eq_none_iff] at h
    cases hi : n.newestOutage .isolated with
    | some i => rw [hi] at h; exact nomatch h
    | none =>
      rw [hi] at h
      exact ⟨hplanned, hfull, (Net.newestOutage_eq_none_iff .isolated).1 hi, (Net.newestOutage_eq_none_iff .restoring).1 h⟩
  · rintro ⟨hplanned, hfull, hisolated, hrestoring⟩
    rw [Net.lossPlace_full hplanned hfull, (Net.newestOutage_eq_none_iff .isolated).2 hisolated,
      (Net.newestOutage_eq_none_iff .restoring).2 hrestoring]
    rfl

end

end Sys2Proof.Machine
end

section
/-! A result applied (R134), zone by zone: what each step writes of one zone and of one outage record, and what it leaves. -/

namespace Sys2Proof.Machine

/-! ## One element of a run -/

/-- What every change of a run keeps, the run keeps. -/
theorem overEach_invariant {α : Type} {f : α → Net → Net} {P : Net → Prop} {xs : List α} (hf : ∀ x ∈ xs, ∀ m, P m → P (f x m)) {n : Net} (h : P n) :
    P (overEach f xs n) := by
  unfold overEach
  induction xs generalizing n with
  | nil => exact h
  | cons x xs ih => exact ih (fun y hy => hf y (List.mem_cons_of_mem _ hy)) (hf x List.mem_cons_self n h)

theorem overEach_append {α : Type} (f : α → Net → Net) (xs ys : List α) (n : Net) :
    overEach f (xs ++ ys) n = overEach f ys (overEach f xs n) := List.foldl_append

/-- A run seen at one of its elements: what the other changes keep of `P` and then of `Q`, and its own change makes `Q` of `P`. -/
theorem overEach_at {α : Type} [DecidableEq α] {f : α → Net → Net} {P Q : Net → Prop} {xs : List α} {z : α} (hz : z ∈ xs) (hnodup : xs.Nodup)
    (hP : ∀ x ∈ xs, x ≠ z → ∀ m, P m → P (f x m)) (hself : ∀ m, P m → Q (f z m)) (hQ : ∀ x ∈ xs, x ≠ z → ∀ m, Q m → Q (f x m)) {n : Net}
    (h : P n) : Q (overEach f xs n) := by
  obtain ⟨before, after, rfl⟩ := List.append_of_mem hz
  obtain ⟨-, hafter, hdisjoint⟩ := List.nodup_append.1 hnodup
  have hbefore : P (overEach f before n) :=
    overEach_invariant (fun x hx m => hP x (List.mem_append_left _ hx) (fun e => hdisjoint x hx z List.mem_cons_self e) m) h
  rw [overEach_append]
  change Q (overEach f after (f z (overEach f before n)))
  refine overEach_invariant (fun x hx m => hQ x (List.mem_append_right _ (List.mem_cons_of_mem _ hx)) (fun e => ?_) m) (hself _ hbefore)
  exact (List.nodup_cons.1 hafter).1 (e ▸ hx)

/-! ## One zone -/

section
variable {n : Net} {z i : Nat} {x : Zone}

theorem Net.getElem?_setZone_self (hx : n.zones[z]? = some x) (f : Zone → Zone) : (n.setZone z f).zones[z]? = some (f x) := by
  rw [Net.setZone_zones, List.getElem?_modify, hx]
  simp

theorem Net.getElem?_setZone_other (h : i ≠ z) (f : Zone → Zone) (n : Net) : (n.setZone i f).zones[z]? = n.zones[z]? := by
  rw [Net.setZone_zones, List.getElem?_modify]
  simp [h]

/-- Zones written alike, each with the value it would keep if written again. -/
theorem overEach_setZone {f : Nat → Zone → Zone} (hf : ∀ z x, f z (f z x) = f z x) (zs : List Nat) (n : Net) (z : Nat) :
    (overEach (fun z n => n.setZone z (f z)) zs n).zones[z]? = (n.zones[z]?).map (fun x => if z ∈ zs then f z x else x) := by
  unfold overEach
  induction zs generalizing n with
  | nil => simp
  | cons w zs ih =>
    rw [List.foldl_cons, ih]
    by_cases hw : w = z
    · subst hw
      cases hx : n.zones[w]? with
      | none =>
        have hnone : (n.setZone w (f w)).zones[w]? = none := by
          rw [Net.setZone_zones, List.getElem?_modify, hx]
          rfl
        rw [hnone]
        rfl
      | some x =>
        rw [Net.getElem?_setZone_self hx]
        by_cases hz : w ∈ zs <;> simp [hz, hf]
    · rw [Net.getElem?_setZone_other hw]
      cases n.zones[z]? with
      | none => rfl
      | some x => simp [Ne.symm hw]

/-- R134 step 1. -/
theorem Net.writeFed_zones (result : List Nat) (n : Net) (z : Nat) :
    (n.writeFed result).zones[z]? = (n.zones[z]?).map (fun x => { x with fed := fedOf (decide (z ∈ result)) }) := by
  rw [Net.writeFed, overEach_setZone (f := fun z x => { x with fed := fedOf (decide (z ∈ result)) }) (fun _ _ => rfl)]
  cases hx : n.zones[z]? with
  | none => rfl
  | some x => rw [Option.map_some, Option.map_some, if_pos (List.mem_range.2 (List.getElem?_eq_some_iff.1 hx).1)]

/-- R136: the losing zones, and no other, take their link. -/
theorem Net.joinLosses_zones (slot : Nat) (zs : List Nat) (n : Net) (z : Nat) :
    (n.joinLosses slot zs).zones[z]? =
      (n.zones[z]?).map (fun x => if z ∈ zs then { x with supply := .unfed, outage := some (slotRef n.outages slot) } else x) :=
  overEach_setZone (f := fun _ x => { x with supply := .unfed, outage := some (slotRef n.outages slot) }) (fun _ _ => rfl) zs
    (n.setOutage slot (Outage.join (n.heldEntries zs))) z

theorem Net.linkNew_zones (slot zone : Nat) (n : Net) : (n.linkNew slot zone).zones = n.zones := by
  unfold Net.linkNew
  split
  · split
    · split <;> rfl
    · rfl
  all_goals
    dsimp only
    split
    · next h =>
      obtain ⟨_, -, hq⟩ := Option.map_eq_some_iff.1 h
      cases hq
      rfl
    · rfl

theorem Net.supplyZone_zones (z : Nat) (n : Net) :
    (n.supplyZone z).zones = (n.setZone z (fun x => { x with supply := .supplied, outage := none })).zones := by
  unfold Net.supplyZone
  dsimp only
  split <;> rfl

theorem Net.loseAgain_zones (z : Nat) (n : Net) : (n.loseAgain z).zones = (n.setZone z (fun x => { x with supply := .unfed })).zones := by
  unfold Net.loseAgain
  dsimp only
  split <;> rfl

theorem Net.getElem?_loseAgain_other (h : i ≠ z) (n : Net) : (n.loseAgain i).zones[z]? = n.zones[z]? := by
  rw [Net.loseAgain_zones, Net.getElem?_setZone_other h]

theorem Net.getElem?_repressurise_other (h : i ≠ z) (n : Net) : (n.repressurise i).zones[z]? = n.zones[z]? := by
  unfold Net.repressurise
  dsimp only
  split
  · rw [Net.supplyZone_zones, Net.getElem?_setZone_other h, Net.getElem?_setZone_other h]
  · rw [Net.getElem?_setZone_other h]

theorem Net.getElem?_gain_other (h : i ≠ z) (n : Net) : (n.gain i).zones[z]? = n.zones[z]? := by
  unfold Net.gain
  split
  · exact Net.getElem?_repressurise_other h n
  · exact Net.getElem?_setZone_other h _ n

end

/-! ## One outage record -/

/-- The record that `r` names, of which `P` holds. -/
def Net.RecordIs (n : Net) (r : Ref) (P : Outage → Prop) : Prop := ∃ w, findRecord n.outages r = some w ∧ P w

section
variable {n m : Net} {r : Ref} {P : Outage → Prop}

theorem Net.RecordIs.of_outages (h : n.RecordIs r P) (e : m.outages = n.outages) : m.RecordIs r P := by
  unfold Net.RecordIs
  rw [e]
  exact h

theorem Net.RecordIs.mono {Q : Outage → Prop} (h : n.RecordIs r P) (k : ∀ w, P w → Q w) : n.RecordIs r Q :=
  have ⟨w, hw, hp⟩ := h
  ⟨w, hw, k w hp⟩

theorem Net.RecordIs.setOutage {i : Nat} {f : Outage → Outage} (h : n.RecordIs r P) (hf : i = r.slot → ∀ w, P w → P (f w)) :
    (n.setOutage i f).RecordIs r P := by
  obtain ⟨w, hw, hp⟩ := h
  refine ⟨_, findRecord_modify hw i f, ?_⟩
  split
  · next hi => exact hf hi w hp
  · exact hp

theorem Net.RecordIs.setOutage_self {f : Outage → Outage} {Q : Outage → Prop} (h : n.RecordIs r P) (hf : ∀ w, P w → Q (f w)) :
    (n.setOutage r.slot f).RecordIs r Q := by
  obtain ⟨w, hw, hp⟩ := h
  exact ⟨_, by rw [Net.setOutage_outages, findRecord_modify hw, if_pos rfl], hf w hp⟩

theorem Net.RecordIs.loseAgain (h : n.RecordIs r P) (z : Nat) (hP : ∀ w, P w → P (w.setRelit z 0)) : (n.loseAgain z).RecordIs r P := by
  unfold Net.loseAgain
  dsimp only
  split
  · exact (h.of_outages (m := n.setZone z _) rfl).setOutage fun _ => hP
  · exact h.of_outages rfl

theorem Net.RecordIs.supplyZone (h : n.RecordIs r P) (z : Nat) (hP : ∀ w, P w → P (w.leave n.now z)) : (n.supplyZone z).RecordIs r P := by
  unfold Net.supplyZone
  dsimp only
  split
  · exact (h.of_outages (m := n.setZone z _) rfl).setOutage fun _ => hP
  · exact h.of_outages rfl

theorem Net.RecordIs.gain (h : n.RecordIs r P) (z : Nat) (hP : ∀ w, P w → P (w.leave n.now z)) : (n.gain z).RecordIs r P := by
  unfold Net.gain
  split
  · unfold Net.repressurise
    dsimp only
    split
    · exact Net.RecordIs.supplyZone (h.of_outages (m := n.setZone z _) rfl) z hP
    · exact h.of_outages rfl
  · exact h.of_outages rfl

theorem Net.joinLosses_outages (slot : Nat) (zs : List Nat) (n : Net) :
    (n.joinLosses slot zs).outages = (n.setOutage slot (Outage.join (n.heldEntries zs))).outages :=
  overEach_view (f := fun z n => n.setZone z (fun x => { x with supply := .unfed, outage := some (slotRef _ slot) })) Net.outages
    (fun _ _ => rfl) zs _

end

end Sys2Proof.Machine
end

section
/-! A held zone's record while a result is applied (R132, R138 to R140), and the record that losses are placed in (R136). -/

namespace Sys2Proof.Machine

/-! ## What the record of a held zone keeps -/

/-- A record `w` that was `o`: it holds zone `z` in the entry `h`, in the state `o` was in; where `counted` says so, customers-off is the sum
over its held zones. -/
structure Outage.Holds (o : Outage) (z : Nat) (h : HeldZone) (counted : Prop) (w : Outage) : Prop where
  cause : w.cause = o.cause
  incident : w.incident = o.incident
  start : w.start = o.start
  state : w.state = o.state
  entry : w.entry z = some h
  counts : counted → w.customersOff = heldOff w.held

/-- A record `w` that was `o`, under restoration, from which zone `z` has gone: RESTORED with the last zone. -/
structure Outage.Left (o : Outage) (z : Nat) (now : Time) (w : Outage) : Prop where
  cause : w.cause = o.cause
  incident : w.incident = o.incident
  start : w.start = o.start
  entry : w.entry z = none
  last : w.held = [] → w.state = .restored ∧ w.restored = some now
  more : w.held ≠ [] → w.state = .restoring

section
variable {o w : Outage} {z i : Nat} {h : HeldZone} {counted : Prop} {now : Time}

theorem Outage.entry_setRelit (z i relit : Nat) (w : Outage) :
    (w.setRelit i relit).entry z = (w.entry z).map (fun h => if h.zone = i then { h with relit := relit } else h) := by
  unfold Outage.entry Outage.setRelit Outage.setHeld
  dsimp only
  rw [List.find?_map]
  refine congrArg _ (congrArg (List.find? · w.held) (funext fun h => ?_))
  simp only [Function.comp_apply]
  split <;> rfl

theorem Outage.zone_of_entry (he : w.entry z = some h) : h.zone = z := by
  unfold Outage.entry at he
  simpa using List.find?_some he

theorem Outage.entry_leave_self (now : Time) (z : Nat) (w : Outage) : (w.leave now z).entry z = none := by
  have hheld : (w.leave now z).held = w.held.filter (fun h => h.zone ≠ z) := by
    unfold Outage.leave
    dsimp only
    split <;> rfl
  unfold Outage.entry
  rw [hheld, List.find?_eq_none]
  intro h hh
  simpa using (List.mem_filter.1 hh).2

theorem Outage.entry_leave_other (hz : i ≠ z) (now : Time) (w : Outage) : (w.leave now i).entry z = w.entry z := by
  have hheld : (w.leave now i).held = w.held.filter (fun h => h.zone ≠ i) := by
    unfold Outage.leave
    dsimp only
    split <;> rfl
  unfold Outage.entry
  rw [hheld, List.find?_filter]
  refine congrArg (List.find? · w.held) (funext fun h => ?_)
  by_cases hh : h.zone = z
  · simp [hh, Ne.symm hz]
  · simp [hh]

theorem Outage.Holds.refl (he : o.entry z = some h) : o.Holds z h False o := ⟨rfl, rfl, rfl, rfl, he, nofun⟩

theorem Outage.Holds.held_ne_nil (k : o.Holds z h counted w) : w.held ≠ [] := by
  intro hnil
  have := k.entry
  unfold Outage.entry at this
  rw [hnil] at this
  exact nomatch this

theorem Outage.Holds.setRelit_other (hz : i ≠ z) (k : o.Holds z h counted w) : o.Holds z h counted (w.setRelit i 0) := by
  refine ⟨k.cause, k.incident, k.start, k.state, ?_, fun _ => rfl⟩
  rw [Outage.entry_setRelit, k.entry, Option.map_some, if_neg fun e => hz (e.symm.trans (Outage.zone_of_entry k.entry))]

theorem Outage.Holds.setRelit_self (k : o.Holds z h counted w) : o.Holds z { h with relit := 0 } True (w.setRelit z 0) := by
  refine ⟨k.cause, k.incident, k.start, k.state, ?_, fun _ => rfl⟩
  rw [Outage.entry_setRelit, k.entry, Option.map_some, if_pos (Outage.zone_of_entry k.entry)]

theorem Outage.Holds.join (k : o.Holds z h counted w) (hs : List HeldZone) : o.Holds z h counted (w.join hs) := by
  refine ⟨k.cause, k.incident, k.start, k.state, ?_, fun _ => rfl⟩
  change (w.held ++ hs).find? _ = _
  rw [List.find?_append, show w.held.find? _ = some h from k.entry]
  rfl

/-- R140: another zone leaves a record that holds this one; it is not the last. -/
theorem Outage.Holds.leave_other (hz : i ≠ z) (k : o.Holds z h counted w) (now : Time) : o.Holds z h counted (w.leave now i) := by
  have hentry := (Outage.entry_leave_other hz now w).trans k.entry
  have hheld : (w.setHeld (w.held.filter (fun h => h.zone ≠ i))).held ≠ [] := by
    intro hnil
    have : (w.leave now i).held = [] := by
      unfold Outage.leave
      dsimp only
      split <;> exact hnil
    unfold Outage.entry at hentry
    rw [this] at hentry
    exact nomatch hentry
  have hleave : w.leave now i = w.setHeld (w.held.filter (fun h => h.zone ≠ i)) := by
    unfold Outage.leave
    exact if_neg fun e => hheld e.1
  rw [hleave] at hentry ⊢
  exact ⟨k.cause, k.incident, k.start, k.state, hentry, fun _ => rfl⟩

/-- R140: what a zone that leaves makes of its record. -/
theorem Outage.leave_state (now : Time) (i : Nat) (w : Outage) :
    (w.leave now i).cause = w.cause ∧ (w.leave now i).incident = w.incident ∧ (w.leave now i).start = w.start ∧
      ((w.leave now i).held = [] → w.state = .restoring → (w.leave now i).state = .restored ∧ (w.leave now i).restored = some now) ∧
      ((w.leave now i).held ≠ [] ∨ w.state ≠ .restoring → (w.leave now i).state = w.state ∧ (w.leave now i).restored = w.restored) := by
  unfold Outage.leave
  dsimp only
  split
  · next hc => exact ⟨rfl, rfl, rfl, fun _ _ => ⟨rfl, rfl⟩, fun hn => absurd hc (fun e => hn.elim (fun k => k e.1) (fun k => k e.2))⟩
  · next hc => exact ⟨rfl, rfl, rfl, fun hnil hst => absurd ⟨hnil, hst⟩ hc, fun _ => ⟨rfl, rfl⟩⟩

theorem Outage.Holds.leave_self (hs : o.state = .restoring) (k : o.Holds z h counted w) (now : Time) : o.Left z now (w.leave now z) := by
  obtain ⟨hcause, hincident, hstart, hlast, hmore⟩ := Outage.leave_state now z w
  exact ⟨hcause.trans k.cause, hincident.trans k.incident, hstart.trans k.start, Outage.entry_leave_self now z w,
    fun hnil => hlast hnil (k.state.trans hs), fun hne => (hmore (Or.inl hne)).1.trans (k.state.trans hs)⟩

theorem Outage.Left.leave (k : o.Left z now w) (i : Nat) : o.Left z now (w.leave now i) := by
  obtain ⟨hcause, hincident, hstart, hlast, hmore⟩ := Outage.leave_state now i w
  have hheld : (w.leave now i).held = w.held.filter (fun h => h.zone ≠ i) := by
    unfold Outage.leave
    dsimp only
    split <;> rfl
  refine ⟨hcause.trans k.cause, hincident.trans k.incident, hstart.trans k.start, ?_, fun hnil => ?_, fun hne => ?_⟩
  · by_cases hi : i = z
    · rw [hi]
      exact Outage.entry_leave_self now z w
    · exact (Outage.entry_leave_other hi now w).trans k.entry
  · by_cases hw : w.held = []
    · obtain ⟨hstate, hrestored⟩ := k.last hw
      obtain ⟨hstate', hrestored'⟩ := hmore (Or.inr (by rw [hstate]; decide))
      exact ⟨hstate'.trans hstate, hrestored'.trans hrestored⟩
    · exact hlast hnil (k.more hw)
  · refine (hmore (Or.inl hne)).1.trans (k.more fun hw => hne ?_)
    rw [hheld, hw]
    rfl

end

/-! ## Losses placed (R136, R137) -/

theorem findRecord_modify_other {α : Type} {slots : List (Slot α)} {i : Nat} {k : Ref} (h : i ≠ k.slot) (f : Slot α → Slot α) :
    findRecord (slots.modify i f) k = findRecord slots k := by
  unfold findRecord
  rw [List.getElem?_modify]
  cases slots[k.slot]? <;> simp [h]

section
variable {n : Net} {r : Ref} {P : Outage → Prop}

theorem Net.RecordIs.makeOutage (h : n.RecordIs r P) {slot : Nat} (hslot : slot ≠ r.slot) : (n.makeOutage slot).RecordIs r P := by
  obtain ⟨w, hw, hp⟩ := h
  exact ⟨w, (findRecord_modify_other hslot _).trans hw, hp⟩

theorem Net.RecordIs.joinLosses (h : n.RecordIs r P) (hP : ∀ hs w, P w → P (w.join hs)) (slot : Nat) (zs : List Nat) :
    (n.joinLosses slot zs).RecordIs r P :=
  Net.RecordIs.of_outages (h.setOutage fun _ => hP (n.heldEntries zs)) (Net.joinLosses_outages slot zs n)

theorem Net.RecordIs.linkBoth (h : n.RecordIs r P) {slot : Nat} (hslot : slot ≠ r.slot) (q : Ref) : (n.linkBoth slot q).RecordIs r P :=
  Net.RecordIs.setOutage (h.of_outages (m := n.setIncident q.slot _) rfl) fun e => absurd e hslot

theorem Net.RecordIs.linkNew (h : n.RecordIs r P) {slot : Nat} (hslot : slot ≠ r.slot) (zone : Nat) : (n.linkNew slot zone).RecordIs r P := by
  unfold Net.linkNew
  split
  · split
    · split
      · exact h.linkBoth hslot _
      · exact h
    · exact h
  all_goals
    dsimp only
    split
    · next e =>
      obtain ⟨_, -, hq⟩ := Option.map_eq_some_iff.1 e
      cases hq
      exact Net.RecordIs.linkBoth (h.of_outages rfl) hslot _
    · exact h

theorem Net.RecordIs.placeLosses (h : n.RecordIs r P) (hP : ∀ hs w, P w → P (w.join hs)) {p : LossPlace}
    (hp : ∀ slot, p = .fresh slot → slot ≠ r.slot) (zs : List Nat) : (n.placeLosses p zs).RecordIs r P := by
  unfold Net.placeLosses
  split
  · exact h
  · exact h.joinLosses hP _ _
  · exact ((h.makeOutage (hp _ rfl)).joinLosses hP _ _).linkNew (hp _ rfl) _

end

/-- R136: the reference that the losing zones take. -/
def Net.lossLink (n : Net) : LossPlace → Ref
  | .existing slot => slotRef n.outages slot
  | .fresh slot => slotRef (n.makeOutage slot).outages slot

/-- R136: the losing zones UNFED, their link to the record; no other zone changes. -/
theorem Net.placeLosses_zones (p : LossPlace) (zs : List Nat) (n : Net) (z : Nat) :
    (n.placeLosses p zs).zones[z]? =
      (n.zones[z]?).map (fun x => if z ∈ zs then { x with supply := .unfed, outage := some (n.lossLink p) } else x) := by
  unfold Net.placeLosses
  split
  · simp
  · exact Net.joinLosses_zones _ _ n z
  · rw [Net.linkNew_zones, Net.joinLosses_zones]
    rfl

end Sys2Proof.Machine
end

section
/-! A result applied (R134, steps 1 to 4), zone by zone. -/

namespace Sys2Proof.Machine

/-! ## The classes of zones -/

section
variable {n m : Net} {result : List Nat} {z i : Nat} {x : Zone} {r : Ref} {o : Outage} {h : HeldZone}

theorem Net.mem_class_iff (hx : n.zones[z]? = some x) (p : Supply → Bool) (b : Bool) :
    z ∈ n.zonesOfClass p b result ↔ p x.supply = true ∧ decide (z ∈ result) = b := by
  rw [Net.mem_zonesOfClass]
  refine and_congr_left fun _ => ⟨fun ⟨g, hg, hp⟩ => ?_, fun hp => ⟨x.ground, by rw [Net.groundAt, hx]; rfl, hp⟩⟩
  rw [Net.groundAt, hx] at hg
  cases hg
  exact hp

/-- R134: the zones a result takes from supply. -/
theorem Net.zonesOfClass_losses (n : Net) (result : List Nat) : n.zonesOfClass (· == .supplied) false result = n.lossesOf result := by
  rw [Net.zonesOfClass, idsWhere, List.filter_filter, Net.lossesOf]
  refine List.filter_congr fun z _ => ?_
  cases n.zones[z]? with
  | none => simp
  | some x =>
    have hsupply : (x.supply == .supplied) = decide (x.supply = .supplied) := by
      rw [Bool.eq_iff_iff, beq_iff_eq, decide_eq_true_iff]
    by_cases hz : z ∈ result <;> simp [hz, hsupply]

theorem Net.mem_lossesOf_iff (hx : n.zones[z]? = some x) : z ∈ n.lossesOf result ↔ x.supply = .supplied ∧ z ∉ result := by
  rw [← Net.zonesOfClass_losses, Net.mem_class_iff hx]
  simp

theorem Net.lossesOf_ne_nil_iff : n.lossesOf result ≠ [] ↔ ∃ z x, n.zones[z]? = some x ∧ x.supply = .supplied ∧ z ∉ result := by
  rw [ne_eq, List.eq_nil_iff_forall_not_mem, not_forall]
  simp only [not_not]
  constructor
  · rintro ⟨z, hz⟩
    have hlt : z < n.zones.length := List.mem_range.1 (List.mem_filter.1 hz).1
    have hx := List.getElem?_eq_getElem hlt
    exact ⟨z, _, hx, (Net.mem_lossesOf_iff hx).1 hz⟩
  · rintro ⟨z, x, hx, hloses⟩
    exact ⟨z, (Net.mem_lossesOf_iff hx).2 hloses⟩

/-! ## Steps 1 and 2 -/

/-- R134 step 1: a zone whose fed-state is written. -/
def Zone.withFed (result : List Nat) (z : Nat) (x : Zone) : Zone := { x with fed := fedOf (decide (z ∈ result)) }

/-- R134 steps 1 and 2, from `n` to `m`: every fed-state written, the losses placed, their link `link`. -/
structure Net.Placed (n m : Net) (result : List Nat) (link : Ref) : Prop where
  zones : ∀ z, m.zones[z]? = (n.zones[z]?).map (fun x =>
    if z ∈ n.lossesOf result then { x.withFed result z with supply := .unfed, outage := some link } else x.withFed result z)
  record : ∀ r P, n.RecordIs r P → (∀ hs w, P w → P (w.join hs)) → m.RecordIs r P
  now : m.now = n.now

theorem Net.RecordIs.writeFed {P : Outage → Prop} (h : n.RecordIs r P) (result : List Nat) : (n.writeFed result).RecordIs r P :=
  h.of_outages (overEach_view (f := fun z n => n.setZone z (fun x => { x with fed := fedOf (decide (z ∈ result)) })) Net.outages (fun _ _ => rfl) _ n)

theorem Net.placed_none (h : n.lossesOf result = []) (link : Ref) : n.Placed (n.writeFed result) result link := by
  refine ⟨fun z => ?_, fun r P k _ => k.writeFed result, (Net.writeFed_frame .rfl).now⟩
  rw [Net.writeFed_zones, h]
  simp only [List.not_mem_nil, if_false]
  rfl

theorem Net.placed_losses {p : LossPlace} (hp : n.lossPlace = some p) :
    n.Placed ((n.writeFed result).placeLosses p (n.lossesOf result)) result ((n.writeFed result).lossLink p) := by
  refine ⟨fun z => ?_, fun r P k hP => ?_, (Net.placeLosses_frame (Net.writeFed_frame .rfl)).now⟩
  · rw [Net.placeLosses_zones, Net.writeFed_zones, Option.map_map]
    rfl
  · refine (k.writeFed result).placeLosses hP (fun slot hslot e => ?_) _
    subst hslot
    have hfree : freeSlot n.outages = some slot := by
      unfold Net.lossPlace at hp
      split at hp
      · exact nomatch hp
      · split at hp
        · next hf =>
          cases hp
          exact hf
        · obtain ⟨_, -, hq⟩ := Option.map_eq_some_iff.1 hp
          exact nomatch hq
    obtain ⟨w, hw, -⟩ := k
    obtain ⟨sl, hsl, hstate, -⟩ := slotRecord_of_findRecord hw
    obtain ⟨hlt, hf, -⟩ := List.findIdx?_eq_some_iff_getElem.1 hfree
    rw [← e, List.getElem?_eq_getElem hlt] at hsl
    obtain rfl := Option.some.inj hsl
    exact hstate (of_decide_eq_true hf)

/-! ## Steps 3 and 4 -/

/-- R134 steps 3 and 4: the zones of `n` lost again and gained, in the net `m` in which the losses are placed. -/
def Net.taken (n : Net) (result : List Nat) (m : Net) : Net :=
  overEach Net.gain (n.zonesOfClass (· == .unfed) true result) (overEach Net.loseAgain (n.zonesOfClass Supply.heldFed false result) m)

theorem Net.zoneOutage_of {w : Outage} (hz : m.zones[z]? = some x) (hlink : x.outage = some r) (hw : findRecord m.outages r = some w) :
    m.zoneOutage z = some (r.slot, w) := by
  unfold Net.zoneOutage
  rw [hz, Option.bind_some, hlink, Option.bind_some, hw]
  rfl

/-- A zone that is neither lost again nor gained, and its record. -/
theorem Net.taken_idle (hx : n.zones[z]? = some x) (hlost : z ∉ result → x.supply.heldFed = false) (hgained : z ∈ result → x.supply ≠ .unfed) :
    (n.taken result m).zones[z]? = m.zones[z]? ∧
      ∀ r o h counted, m.RecordIs r (Outage.Holds o z h counted) → (n.taken result m).RecordIs r (o.Holds z h counted) := by
  have hloses : ∀ i ∈ n.zonesOfClass Supply.heldFed false result, i ≠ z := by
    rintro i hi rfl
    obtain ⟨hp, hr⟩ := (Net.mem_class_iff hx _ _).1 hi
    rw [hlost (of_decide_eq_false hr)] at hp
    exact nomatch hp
  have hgains : ∀ i ∈ n.zonesOfClass (· == .unfed) true result, i ≠ z := by
    rintro i hi rfl
    obtain ⟨hp, hr⟩ := (Net.mem_class_iff hx _ _).1 hi
    exact hgained (of_decide_eq_true hr) (by simpa using hp)
  refine ⟨?_, fun r o h counted k => ?_⟩
  · refine overEach_invariant (P := fun k => k.zones[z]? = m.zones[z]?) (fun i hi k hk => (Net.getElem?_gain_other (hgains i hi) k).trans hk) ?_
    exact overEach_invariant (P := fun k => k.zones[z]? = m.zones[z]?)
      (fun i hi k hk => (Net.getElem?_loseAgain_other (hloses i hi) k).trans hk) rfl
  · refine overEach_invariant (P := fun k => k.RecordIs r (o.Holds z h counted))
      (fun i hi k hk => hk.gain i fun w hw => hw.leave_other (hgains i hi) _) ?_
    exact overEach_invariant (P := fun k => k.RecordIs r (o.Holds z h counted))
      (fun i hi k hk => hk.loseAgain i fun w hw => hw.setRelit_other (hloses i hi)) k

/-- R138: a zone lost again. -/
theorem Net.taken_lost {y : Zone} (hx : n.zones[z]? = some x) (hlost : x.supply.heldFed = true) (hr : z ∉ result) (hy : m.zones[z]? = some y) :
    (n.taken result m).zones[z]? = some { y with supply := .unfed } ∧
      ∀ r o h counted, y.outage = some r → m.RecordIs r (Outage.Holds o z h counted) →
        (n.taken result m).RecordIs r (o.Holds z { h with relit := 0 } True) := by
  have hmem : z ∈ n.zonesOfClass Supply.heldFed false result := (Net.mem_class_iff hx _ _).2 ⟨hlost, decide_eq_false hr⟩
  have hgains : ∀ i ∈ n.zonesOfClass (· == .unfed) true result, i ≠ z := by
    rintro i hi rfl
    exact hr (of_decide_eq_true ((Net.mem_class_iff hx _ _).1 hi).2)
  have self (k : Net) (hk : k.zones[z]? = some y) : (k.loseAgain z).zones[z]? = some { y with supply := .unfed } := by
    rw [Net.loseAgain_zones]
    exact Net.getElem?_setZone_self hk _
  refine ⟨?_, fun r o h counted hlink k => ?_⟩
  · refine overEach_invariant (P := fun k => k.zones[z]? = some { y with supply := .unfed })
      (fun i hi k hk => (Net.getElem?_gain_other (hgains i hi) k).trans hk) ?_
    exact overEach_at (P := fun k => k.zones[z]? = some y) hmem (Net.nodup_zonesOfClass _ _ _ _)
      (fun i _ hi k hk => (Net.getElem?_loseAgain_other hi k).trans hk) self
      (fun i _ hi k hk => (Net.getElem?_loseAgain_other hi k).trans hk) hy
  · refine overEach_invariant (P := fun k => k.RecordIs r (o.Holds z { h with relit := 0 } True))
      (fun i hi k hk => hk.gain i fun w hw => hw.leave_other (hgains i hi) _) ?_
    refine overEach_at (P := fun k => k.zones[z]? = some y ∧ k.RecordIs r (o.Holds z h counted))
      (Q := fun k => k.RecordIs r (o.Holds z { h with relit := 0 } True)) hmem (Net.nodup_zonesOfClass _ _ _ _)
      (fun i _ hi k hk => ⟨(Net.getElem?_loseAgain_other hi k).trans hk.1, hk.2.loseAgain i fun w hw => hw.setRelit_other hi⟩) ?_
      (fun i _ hi k hk => hk.loseAgain i fun w hw => hw.setRelit_other hi) ⟨hy, k⟩
    rintro k ⟨hk, hrecord⟩
    obtain ⟨w, hw, hholds⟩ := hrecord
    have hzone := Net.zoneOutage_of hk hlink hw
    unfold Net.loseAgain
    dsimp only
    rw [hzone]
    exact Net.RecordIs.setOutage_self (n := k.setZone z _) (P := o.Holds z h counted) ⟨w, hw, hholds⟩ fun v hv => hv.setRelit_self

/-- R134 step 4 seen at a gained zone: what step 3 and the gains of the other zones keep of it, its own gain makes `Q` of. -/
theorem Net.taken_gained {P Q : Net → Prop} (hx : n.zones[z]? = some x) (hunfed : x.supply = .unfed) (hr : z ∈ result)
    (hlose : ∀ i, i ≠ z → ∀ k, P k → P (k.loseAgain i)) (hgain : ∀ i, i ≠ z → ∀ k, P k → P (k.gain i)) (hself : ∀ k, P k → Q (k.gain z))
    (hafter : ∀ i, i ≠ z → ∀ k, Q k → Q (k.gain i)) (h : P m) : Q (n.taken result m) := by
  have hmem : z ∈ n.zonesOfClass (· == .unfed) true result := (Net.mem_class_iff hx _ _).2 ⟨by simp [hunfed], decide_eq_true hr⟩
  refine overEach_at hmem (Net.nodup_zonesOfClass _ _ _ _) (fun i _ hi => hgain i hi) hself (fun i _ hi => hafter i hi) ?_
  refine overEach_invariant (fun i hi => hlose i ?_) h
  rintro rfl
  exact (of_decide_eq_false ((Net.mem_class_iff hx _ _).1 hi).2) hr

/-- R139, R140: a gained zone is not UNFED. -/
theorem Net.gain_self {y : Zone} (hy : m.zones[z]? = some y) :
    ∃ y', (m.gain z).zones[z]? = some y' ∧ y'.fed = y.fed ∧ y'.supply ≠ .unfed := by
  unfold Net.gain
  split
  · have hset := Net.getElem?_setZone_self hy (fun x => { x with supply := .repressurised })
    unfold Net.repressurise
    dsimp only
    split
    · refine ⟨_, (congrArg (·[z]?) (Net.supplyZone_zones z _)).trans (Net.getElem?_setZone_self hset _), rfl, ?_⟩
      exact Supply.noConfusion
    · exact ⟨_, hset, rfl, nofun⟩
  · exact ⟨_, Net.getElem?_setZone_self hy _, rfl, nofun⟩

/-- R139: a zone gained under a record that is not being restored. -/
theorem Net.gain_uncontrolled {y : Zone} {w : Outage} (hy : m.zones[z]? = some y) (hlink : y.outage = some r)
    (hw : findRecord m.outages r = some w) (hs : w.state ≠ .restoring) :
    (m.gain z).zones[z]? = some { y with supply := .refedUncontrolled } ∧ (m.gain z).outages = m.outages := by
  unfold Net.gain
  rw [Net.zoneOutage_of hy hlink hw, if_neg (by simpa using hs)]
  exact ⟨Net.getElem?_setZone_self hy _, rfl⟩

theorem Net.gain_restoring {y : Zone} {w : Outage} (hy : m.zones[z]? = some y) (hlink : y.outage = some r)
    (hw : findRecord m.outages r = some w) (hs : w.state = .restoring) : m.gain z = m.repressurise z := by
  unfold Net.gain
  rw [Net.zoneOutage_of hy hlink hw, if_pos (by simpa using hs)]

/-- R139: a zone with customers gained under restoration. -/
theorem Net.gain_repressurised {y : Zone} {w : Outage} (hy : m.zones[z]? = some y) (hlink : y.outage = some r)
    (hw : findRecord m.outages r = some w) (hs : w.state = .restoring) (hc : y.customers ≠ 0) :
    (m.gain z).zones[z]? = some { y with supply := .repressurised } ∧ (m.gain z).outages = m.outages := by
  rw [Net.gain_restoring hy hlink hw hs]
  unfold Net.repressurise
  dsimp only
  rw [hy, if_neg (by simpa using hc)]
  exact ⟨Net.getElem?_setZone_self hy _, rfl⟩

/-- R140: a zone without customers gained under restoration leaves its record. -/
theorem Net.gain_supplied {y : Zone} {w : Outage} (hy : m.zones[z]? = some y) (hlink : y.outage = some r)
    (hw : findRecord m.outages r = some w) (hs : w.state = .restoring) (hc : y.customers = 0) :
    (m.gain z).zones[z]? = some { y with supply := .supplied, outage := none } ∧
      (m.gain z).outages = (m.setOutage r.slot (Outage.leave m.now z)).outages := by
  have hset := Net.getElem?_setZone_self hy (fun x => { x with supply := .repressurised })
  have hzone : (m.setZone z (fun x => { x with supply := .repressurised })).zoneOutage z = some (r.slot, w) := Net.zoneOutage_of hset hlink hw
  rw [Net.gain_restoring hy hlink hw hs]
  unfold Net.repressurise
  dsimp only
  rw [hy, if_pos (by simpa using hc)]
  refine ⟨by rw [Net.supplyZone_zones]; exact Net.getElem?_setZone_self hset _, ?_⟩
  unfold Net.supplyZone
  rw [hzone]
  rfl

end

end Sys2Proof.Machine
end

section
/-! A result applied (R134, steps 5 and 6): the points judged, then what is marked; neither writes a zone or an outage record. -/

namespace Sys2Proof.Machine

/-! ## Marks that join the URGENT list -/

/-- The URGENT list of `b` is that of `a`, and after it records of which `p` holds. -/
def Marks.Extends (p : RecordName → Prop) (a b : Marks) : Prop := ∃ rest, b.urgent = a.urgent ++ rest ∧ ∀ r ∈ rest, p r

theorem Marks.extends_rfl (p : RecordName → Prop) (a : Marks) : Marks.Extends p a a := ⟨[], (List.append_nil _).symm, nofun⟩

theorem Marks.Extends.trans {p : RecordName → Prop} {a b c : Marks} (h : Marks.Extends p a b) (k : Marks.Extends p b c) : Marks.Extends p a c := by
  obtain ⟨xs, hxs, hp⟩ := h
  obtain ⟨ys, hys, hq⟩ := k
  refine ⟨xs ++ ys, by rw [hys, hxs, List.append_assoc], fun r hr => ?_⟩
  exact (List.mem_append.1 hr).elim (hp r) (hq r)

theorem Marks.extends_add {p : RecordName → Prop} (a : Marks) (k : MarkKind) {r : RecordName} (h : p r) : Marks.Extends p a (a.add k r) := by
  unfold Marks.add
  cases k <;> dsimp only <;> split
  · exact Marks.extends_rfl p a
  · exact ⟨[r], rfl, fun x hx => List.mem_singleton.1 hx ▸ h⟩
  · exact Marks.extends_rfl p a
  · exact ⟨[], (List.append_nil _).symm, nofun⟩

/-! ## A run that only marks -/

/-- `b` is `a` with marks that grew, the URGENT list by records of which `p` holds. -/
structure Net.OnlyMarks (p : RecordName → Prop) (a b : Net) : Prop where
  shape : b = { a with marks := b.marks }
  grows : Marks.Grows a.marks b.marks
  urgent : Marks.Extends p a.marks b.marks

namespace Net.OnlyMarks

variable {p : RecordName → Prop} {a b c : Net}

theorem refl (a : Net) : a.OnlyMarks p a := ⟨rfl, .rfl, Marks.extends_rfl p _⟩

theorem trans (h : a.OnlyMarks p b) (k : b.OnlyMarks p c) : a.OnlyMarks p c :=
  ⟨by rw [k.shape, h.shape], h.grows.trans k.grows, h.urgent.trans k.urgent⟩

theorem mark (k : MarkKind) {r : RecordName} (h : p r) (n : Net) : n.OnlyMarks p (n.mark k r) :=
  ⟨rfl, n.grows_mark k r, Marks.extends_add _ _ h⟩

theorem markIf (changed : Bool) {r : RecordName} (h : p r) (n : Net) : n.OnlyMarks p (n.markIf changed r) := by
  cases changed
  · exact refl n
  · exact mark _ h n

theorem overEach {α : Type} {f : α → Net → Net} (hf : ∀ x n, Net.OnlyMarks p n (f x n)) (xs : List α) (n : Net) :
    n.OnlyMarks p (Machine.overEach f xs n) :=
  overEach_invariant (P := fun m => n.OnlyMarks p m) (fun x _ m h => h.trans (hf x m)) (refl n)

/-- What one of the changes marks stays marked. -/
theorem overEach_at {α : Type} {f : α → Net → Net} (hf : ∀ x n, Net.OnlyMarks p n (f x n)) {K : Marks → Prop}
    (hK : ∀ a b, Marks.Grows a b → K a → K b) {xs : List α} {z : α} (hz : z ∈ xs) {n : Net}
    (hself : ∀ m, n.OnlyMarks p m → K (f z m).marks) : K (Machine.overEach f xs n).marks := by
  obtain ⟨before, after, rfl⟩ := List.append_of_mem hz
  rw [overEach_append]
  change K (Machine.overEach f after (f z (Machine.overEach f before n))).marks
  exact hK _ _ (overEach hf after _).grows (hself _ (overEach hf before n))

end Net.OnlyMarks

theorem Marks.urgent_kept (r : RecordName) : ∀ a b, Marks.Grows a b → r ∈ a.urgent → r ∈ b.urgent := fun _ _ h => h.urgent r

theorem Marks.marked_kept (r : RecordName) : ∀ a b, Marks.Grows a b → r ∈ a.urgent ∨ r ∈ a.ordinary → r ∈ b.urgent ∨ r ∈ b.ordinary :=
  fun _ _ h => h.marked r

/-! ## Step 6 -/

/-- R134 step 6: zones, outage records and incidents are marked, and no point. -/
def RecordName.notPoint (r : RecordName) : Prop := ∀ i, r ≠ .point i

section
variable {before n : Net} {z i : Nat} {x y : Zone} {o w : Outage}

theorem Net.onlyMarks_markZone (before : Net) (z : Nat) (n : Net) : n.OnlyMarks RecordName.notPoint (Net.markZone before z n) := by
  have notPoint : RecordName.notPoint (.zone z) := fun _ => nofun
  unfold Net.markZone
  split
  · split
    · exact .mark _ notPoint n
    · exact .markIf _ notPoint n
  · exact .refl n

theorem Net.onlyMarks_markOutage (before : Net) (i : Nat) (n : Net) : n.OnlyMarks RecordName.notPoint (Net.markOutage before i n) := by
  have notPoint : RecordName.notPoint (.outage i) := fun _ => nofun
  unfold Net.markOutage
  split
  · exact .mark _ notPoint n
  · exact .markIf _ notPoint n
  · exact .refl n

theorem Net.onlyMarks_markIncident (before : Net) (i : Nat) (n : Net) : n.OnlyMarks RecordName.notPoint (Net.markIncident before i n) := by
  have notPoint : RecordName.notPoint (.incident i) := fun _ => nofun
  unfold Net.markIncident
  split
  · dsimp only
    split
    · exact (Net.OnlyMarks.markIf _ notPoint n).trans (.mark _ notPoint _)
    · exact .markIf _ notPoint n
  · exact .mark _ notPoint n
  · exact .refl n

/-- R134 step 6, part by part. -/
theorem Net.onlyMarks_parts (before n : Net) :
    let zoned := overEach (Net.markZone before) (List.range n.zones.length) n
    let recorded := overEach (Net.markOutage before) (List.range n.outages.length) zoned
    n.OnlyMarks RecordName.notPoint zoned ∧ zoned.OnlyMarks RecordName.notPoint recorded ∧
      recorded.OnlyMarks RecordName.notPoint (Net.markOutcome before n) :=
  ⟨.overEach (fun z m => Net.onlyMarks_markZone before z m) _ n, .overEach (fun i m => Net.onlyMarks_markOutage before i m) _ _,
    .overEach (fun i m => Net.onlyMarks_markIncident before i m) _ _⟩

theorem Net.onlyMarks_markOutcome (before n : Net) : n.OnlyMarks RecordName.notPoint (Net.markOutcome before n) :=
  have ⟨hzones, hrecords, hincidents⟩ := Net.onlyMarks_parts before n
  (hzones.trans hrecords).trans hincidents

/-- R134 step 6: a zone UNFED that was fed and held, or one newly REFED-UNCONTROLLED. -/
theorem Net.markOutcome_zone_urgent (hx : before.zones[z]? = some x) (hy : n.zones[z]? = some y)
    (hc : y.supply = .refedUncontrolled ∧ x.supply ≠ .refedUncontrolled ∨ y.supply = .unfed ∧ x.supply.heldFed = true) :
    .zone z ∈ (Net.markOutcome before n).marks.urgent := by
  obtain ⟨-, hrecords, hincidents⟩ := Net.onlyMarks_parts before n
  refine (hrecords.trans hincidents).grows.urgent _ ?_
  refine Net.OnlyMarks.overEach_at (fun z m => Net.onlyMarks_markZone before z m) (Marks.urgent_kept _)
    (List.mem_range.2 (List.getElem?_eq_some_iff.1 hy).1) fun m hm => ?_
  unfold Net.markZone
  rw [hx, show m.zones[z]? = some y by rw [hm.shape]; exact hy]
  dsimp only
  rw [if_pos hc]
  exact Marks.mem_add_urgent _ _

/-- R15: a zone of which a reported field has changed. -/
theorem Net.markOutcome_zone (hx : before.zones[z]? = some x) (hy : n.zones[z]? = some y) (hc : x.reported ≠ y.reported) :
    .zone z ∈ (Net.markOutcome before n).marks.urgent ∨ .zone z ∈ (Net.markOutcome before n).marks.ordinary := by
  obtain ⟨-, hrecords, hincidents⟩ := Net.onlyMarks_parts before n
  refine (hrecords.trans hincidents).grows.marked _ ?_
  refine Net.OnlyMarks.overEach_at (fun z m => Net.onlyMarks_markZone before z m) (Marks.marked_kept _)
    (List.mem_range.2 (List.getElem?_eq_some_iff.1 hy).1) fun m hm => ?_
  unfold Net.markZone
  rw [hx, show m.zones[z]? = some y by rw [hm.shape]; exact hy]
  dsimp only
  split
  · exact Or.inl (Marks.mem_add_urgent _ _)
  · rw [decide_eq_true hc]
    exact Marks.mem_add_ordinary _ _

theorem lt_of_heldRecord {α : Type} {slots : List (Slot α)} {v : α} (h : heldRecord slots i = some v) : i < slots.length := by
  obtain ⟨sl, hsl, -⟩ := Option.bind_eq_some_iff.1 h
  exact (List.getElem?_eq_some_iff.1 hsl).1

/-- R146: a new outage record that stands with no link. -/
theorem Net.markOutcome_outage_new (ho : heldRecord before.outages i = none) (hw : heldRecord n.outages i = some w) (hl : w.incident = none) :
    .outage i ∈ (Net.markOutcome before n).marks.urgent := by
  obtain ⟨hzones, -, hincidents⟩ := Net.onlyMarks_parts before n
  refine hincidents.grows.urgent _ ?_
  refine Net.OnlyMarks.overEach_at (fun i m => Net.onlyMarks_markOutage before i m) (Marks.urgent_kept _)
    (List.mem_range.2 (lt_of_heldRecord hw)) fun m hm => ?_
  have hmarked := hzones.trans hm
  unfold Net.markOutage
  rw [ho, show heldRecord m.outages i = some w by rw [hmarked.shape]; exact hw]
  dsimp only
  rw [hl]
  exact Marks.mem_add_urgent _ _

/-- R138, R146: an outage record of which a reported field has changed, or that holds a zone lost again. -/
theorem Net.markOutcome_outage (ho : heldRecord before.outages i = some o) (hw : heldRecord n.outages i = some w)
    (hc : o.reported ≠ w.reported ∨ n.holdsRelost before i = true) :
    .outage i ∈ (Net.markOutcome before n).marks.urgent ∨ .outage i ∈ (Net.markOutcome before n).marks.ordinary := by
  obtain ⟨hzones, -, hincidents⟩ := Net.onlyMarks_parts before n
  refine hincidents.grows.marked _ ?_
  refine Net.OnlyMarks.overEach_at (fun i m => Net.onlyMarks_markOutage before i m) (Marks.marked_kept _)
    (List.mem_range.2 (lt_of_heldRecord hw)) fun m hm => ?_
  have hmarked := hzones.trans hm
  have hrelost : m.holdsRelost before i = n.holdsRelost before i := by rw [hmarked.shape]; rfl
  unfold Net.markOutage
  rw [ho, show heldRecord m.outages i = some w by rw [hmarked.shape]; exact hw]
  dsimp only
  rw [hrelost, show (decide (o.reported ≠ w.reported) || n.holdsRelost before i) = true by simpa using hc]
  exact Marks.mem_add_ordinary _ _

end

/-! ## Step 5 -/

/-- What judging points leaves: they are marked, and may open or raise incidents. -/
structure Net.PointsJudged (a b : Net) : Prop where
  shape : b = { a with incidents := b.incidents, marks := b.marks }
  grows : Marks.Grows a.marks b.marks
  urgent : Marks.Extends (fun r => ∃ i, r = .point i) a.marks b.marks

namespace Net.PointsJudged

variable {a b c : Net}

theorem refl (a : Net) : a.PointsJudged a := ⟨rfl, .rfl, Marks.extends_rfl _ _⟩

theorem trans (h : a.PointsJudged b) (k : b.PointsJudged c) : a.PointsJudged c :=
  ⟨by rw [k.shape, h.shape], h.grows.trans k.grows, h.urgent.trans k.urgent⟩

theorem overEach {α : Type} {f : α → Net → Net} (hf : ∀ x n, Net.PointsJudged n (f x n)) (xs : List α) (n : Net) :
    n.PointsJudged (Machine.overEach f xs n) :=
  overEach_invariant (P := fun m => n.PointsJudged m) (fun x _ m h => h.trans (hf x m)) (refl n)

theorem overEach_at {α : Type} {f : α → Net → Net} (hf : ∀ x n, Net.PointsJudged n (f x n)) {r : RecordName} {xs : List α} {z : α} (hz : z ∈ xs)
    {n : Net} (hself : ∀ m, n.PointsJudged m → r ∈ (f z m).marks.urgent) : r ∈ (Machine.overEach f xs n).marks.urgent := by
  obtain ⟨before, after, rfl⟩ := List.append_of_mem hz
  rw [overEach_append]
  change r ∈ (Machine.overEach f after (f z (Machine.overEach f before n))).marks.urgent
  exact (overEach hf after _).grows.urgent r (hself _ (overEach hf before n))

/-- R62: one point judged. -/
theorem excursion (i : Nat) (p : Point) (n : Net) : n.PointsJudged (n.unmarkedExcursion i p) := by
  have hmarks := Net.unmarkedExcursion_marks i p n
  refine ⟨?_, by rw [hmarks]; exact Marks.grows_add _ _ _, by rw [hmarks]; exact Marks.extends_add _ _ ⟨i, rfl⟩⟩
  unfold Net.unmarkedExcursion
  dsimp only
  cases he : (n.mark .urgent (.point i)).placeExcursion i p.zone p.band with
  | none => rfl
  | some q =>
    unfold Net.placeExcursion at he
    split at he
    · cases he
      rfl
    · dsimp only at he
      obtain ⟨_, hopen, rfl⟩ := Option.map_eq_some_iff.1 he
      obtain ⟨_, -, rfl⟩ := Option.map_eq_some_iff.1 hopen
      rfl

end Net.PointsJudged

/-- R62: one point of a zone that a result made SUPPLIED. -/
def Net.judgePoint (i : Nat) (n : Net) : Net :=
  match n.points[i]? with
  | some p => if p.quality = .good ∧ p.band.extreme then n.unmarkedExcursion i p else n
  | none => n

theorem Net.judgePoints_eq {n : Net} {z : Nat} {x : Zone} (hx : n.zones[z]? = some x) :
    n.judgePoints Net.unmarkedExcursion z = overEach Net.judgePoint x.points n := by
  unfold Net.judgePoints
  rw [hx]
  rfl

theorem Net.PointsJudged.point (i : Nat) (n : Net) : n.PointsJudged (n.judgePoint i) := by
  unfold Net.judgePoint
  split
  · split
    · exact .excursion _ _ n
    · exact .refl n
  · exact .refl n

/-- R62: the points of a zone judged. -/
theorem Net.PointsJudged.points (z : Nat) (n : Net) : n.PointsJudged (n.judgePoints Net.unmarkedExcursion z) := by
  cases hx : n.zones[z]? with
  | none =>
    unfold Net.judgePoints
    rw [hx]
    exact .refl n
  | some x =>
    rw [Net.judgePoints_eq hx]
    exact .overEach Net.PointsJudged.point _ n

/-- R62: a point in an extreme band of a zone judged is marked URGENT. -/
theorem Net.judged_point_urgent {n : Net} {zs : List Nat} {z i : Nat} {x : Zone} {q : Point} (hz : z ∈ zs) (hx : n.zones[z]? = some x)
    (hi : i ∈ x.points) (hq : n.points[i]? = some q) (hgood : q.quality = .good) (hband : q.band.extreme = true) :
    .point i ∈ (overEach (Net.judgePoints Net.unmarkedExcursion) zs n).marks.urgent := by
  refine Net.PointsJudged.overEach_at Net.PointsJudged.points hz fun m hm => ?_
  rw [Net.judgePoints_eq (x := x) (by rw [hm.shape]; exact hx)]
  refine Net.PointsJudged.overEach_at Net.PointsJudged.point hi fun k hk => ?_
  unfold Net.judgePoint
  rw [show k.points[i]? = some q by rw [hk.shape, hm.shape]; exact hq]
  dsimp only
  rw [if_pos ⟨hgood, hband⟩, Net.unmarkedExcursion_marks]
  exact Marks.mem_add_urgent _ _

end Sys2Proof.Machine
end

section
/-! A result applied (R134), as the statements put it: the zones, the zones held (R138 to R140), and the order of the marks. -/

namespace Sys2Proof.Machine

/-! ## What the outage unit leaves of the survey engine and of the points -/

/-- The survey engine's state and the points stand. -/
structure Net.OutageSide (a b : Net) : Prop where
  survey : b.survey = a.survey
  points : b.points = a.points

namespace Net.OutageSide

theorem trans {a b c : Net} (h : a.OutageSide b) (k : b.OutageSide c) : a.OutageSide c := ⟨k.survey.trans h.survey, k.points.trans h.points⟩

theorem overEach {α : Type} {f : α → Net → Net} (hf : ∀ x n, Net.OutageSide n (f x n)) (xs : List α) (n : Net) :
    n.OutageSide (Machine.overEach f xs n) :=
  overEach_invariant (P := fun m => n.OutageSide m) (fun x _ m h => h.trans (hf x m)) ⟨rfl, rfl⟩

theorem writeFed (result : List Nat) (n : Net) : n.OutageSide (n.writeFed result) :=
  overEach (f := fun z n => n.setZone z (fun x => { x with fed := fedOf (decide (z ∈ result)) })) (fun _ _ => ⟨rfl, rfl⟩) _ n

theorem joinLosses (slot : Nat) (zs : List Nat) (n : Net) : n.OutageSide (n.joinLosses slot zs) :=
  .trans (b := n.setOutage slot _) ⟨rfl, rfl⟩
    (overEach (f := fun z m => m.setZone z (fun x => { x with supply := .unfed, outage := some (slotRef n.outages slot) })) (fun _ _ => ⟨rfl, rfl⟩) zs _)

theorem linkNew (slot zone : Nat) (n : Net) : n.OutageSide (n.linkNew slot zone) := by
  unfold Net.linkNew
  split
  · split
    · split <;> exact ⟨rfl, rfl⟩
    · exact ⟨rfl, rfl⟩
  all_goals
    dsimp only
    split
    · next h =>
      obtain ⟨_, -, hq⟩ := Option.map_eq_some_iff.1 h
      cases hq
      exact ⟨rfl, rfl⟩
    · exact ⟨rfl, rfl⟩

theorem placeLosses (p : LossPlace) (zs : List Nat) (n : Net) : n.OutageSide (n.placeLosses p zs) := by
  unfold Net.placeLosses
  split
  · exact ⟨rfl, rfl⟩
  · exact joinLosses _ _ n
  · next slot _ _ => exact .trans (b := n.makeOutage slot) ⟨rfl, rfl⟩ ((joinLosses slot _ _).trans (linkNew slot _ _))

theorem loseAgain (z : Nat) (n : Net) : n.OutageSide (n.loseAgain z) := by
  unfold Net.loseAgain
  dsimp only
  split <;> exact ⟨rfl, rfl⟩

theorem supplyZone (z : Nat) (n : Net) : n.OutageSide (n.supplyZone z) := by
  unfold Net.supplyZone
  dsimp only
  split <;> exact ⟨rfl, rfl⟩

theorem gain (z : Nat) (n : Net) : n.OutageSide (n.gain z) := by
  unfold Net.gain
  split
  · unfold Net.repressurise
    dsimp only
    split
    · exact .trans (b := n.setZone z _) ⟨rfl, rfl⟩ (supplyZone z _)
    · exact ⟨rfl, rfl⟩
  · exact ⟨rfl, rfl⟩

theorem taken (n : Net) (result : List Nat) (m : Net) : m.OutageSide (n.taken result m) := (overEach loseAgain _ m).trans (overEach gain _ _)

end Net.OutageSide

/-! ## The applied net -/

/-- R134 steps 5 and 6: `m` once steps 1 to 4 have made it of `n`. -/
def Net.settled (n m : Net) : Net := Net.markOutcome n (overEach (Net.judgePoints Net.unmarkedExcursion) (n.madeSupplied m) m)

theorem Net.applyRest_eq (n : Net) (result : List Nat) (m : Net) : n.applyRest result m = n.settled (n.taken result m) := rfl

/-- Steps 5 and 6 write neither a zone, a record, a point nor the survey engine. -/
theorem Net.settled_fields (n m : Net) : (n.settled m).zones = m.zones ∧ (n.settled m).outages = m.outages ∧
    (n.settled m).outageSeq = m.outageSeq ∧ (n.settled m).survey = m.survey ∧ (n.settled m).points = m.points := by
  have hjudged : m.PointsJudged (overEach (Net.judgePoints Net.unmarkedExcursion) (n.madeSupplied m) m) := .overEach Net.PointsJudged.points _ m
  have hmarked := Net.onlyMarks_markOutcome n (overEach (Net.judgePoints Net.unmarkedExcursion) (n.madeSupplied m) m)
  unfold Net.settled
  rw [hmarked.shape, hjudged.shape]
  exact ⟨rfl, rfl, rfl, rfl, rfl⟩

/-- R134 steps 5 and 6: the points judged are marked ahead of any zone, record or incident. -/
theorem Net.pointsMarkedFirst_settled {n m : Net} (h : m.marks = n.marks) : n.PointsMarkedFirst (n.settled m) := by
  have hjudged : m.PointsJudged (overEach (Net.judgePoints Net.unmarkedExcursion) (n.madeSupplied m) m) := .overEach Net.PointsJudged.points _ m
  have hmarked := Net.onlyMarks_markOutcome n (overEach (Net.judgePoints Net.unmarkedExcursion) (n.madeSupplied m) m)
  obtain ⟨points, hpoints, hall⟩ := hjudged.urgent
  obtain ⟨rest, hrest, hnone⟩ := hmarked.urgent
  obtain ⟨is, rfl⟩ : ∃ is : List Nat, points = is.map .point := by
    clear hpoints hrest
    induction points with
    | nil => exact ⟨[], rfl⟩
    | cons r rs ih =>
      obtain ⟨i, rfl⟩ := hall r List.mem_cons_self
      obtain ⟨is, rfl⟩ := ih fun r hr => hall r (List.mem_cons_of_mem _ hr)
      exact ⟨i :: is, rfl⟩
  exact ⟨is, rest, by rw [← h, ← hpoints]; exact hrest, hnone⟩

/-! ## The zones -/

section
variable {n m : Net} {result : List Nat} {link : Ref} {z : Nat} {x : Zone}

theorem Net.Placed.zone_kept (h : n.Placed m result link) (hx : n.zones[z]? = some x) (hk : z ∈ result ∨ x.supply ≠ .supplied) :
    m.zones[z]? = some (x.withFed result z) := by
  rw [h.zones, hx, Option.map_some, if_neg]
  rw [Net.mem_lossesOf_iff hx]
  exact fun e => hk.elim e.2 (fun k => k e.1)

theorem Net.Placed.zone_lost (h : n.Placed m result link) (hx : n.zones[z]? = some x) (hs : x.supply = .supplied) (hr : z ∉ result) :
    m.zones[z]? = some { x.withFed result z with supply := .unfed, outage := some link } := by
  rw [h.zones, hx, Option.map_some, if_pos ((Net.mem_lossesOf_iff hx).2 ⟨hs, hr⟩)]

/-- R70, R134: every zone after steps 1 to 4. -/
theorem Net.Placed.taken_zone (h : n.Placed m result link) (hx : n.zones[z]? = some x) :
    ∃ y, (n.taken result m).zones[z]? = some y ∧ (y.fed = .fed ↔ z ∈ result) ∧ (z ∉ result → y.supply = .unfed) ∧
      (z ∈ result → x.supply ≠ .unfed → y.supply = x.supply) ∧ (z ∈ result → x.supply = .unfed → y.supply ≠ .unfed) := by
  have hfed : (x.withFed result z).fed = .fed ↔ z ∈ result := by
    by_cases hz : z ∈ result <;> simp [Zone.withFed, fedOf, hz]
  by_cases hr : z ∈ result
  · have kept := h.zone_kept hx (Or.inl hr)
    by_cases hu : x.supply = .unfed
    · obtain ⟨y, hy, hyfed, hsupply⟩ := Net.taken_gained (P := fun k => k.zones[z]? = some (x.withFed result z))
        (Q := fun k => ∃ y, k.zones[z]? = some y ∧ y.fed = (x.withFed result z).fed ∧ y.supply ≠ .unfed) hx hu hr
        (fun i hi k hk => (Net.getElem?_loseAgain_other hi k).trans hk) (fun i hi k hk => (Net.getElem?_gain_other hi k).trans hk)
        (fun k hk => Net.gain_self hk)
        (fun i hi k ⟨y, hy, hq⟩ => ⟨y, (Net.getElem?_gain_other hi k).trans hy, hq⟩) kept
      exact ⟨y, hy, by rw [hyfed, hfed], fun e => absurd hr e, fun _ e => absurd hu e, fun _ _ => hsupply⟩
    · have idle := (Net.taken_idle (m := m) hx (fun e => absurd hr e) (fun _ => hu)).1
      exact ⟨_, idle.trans kept, hfed, fun e => absurd hr e, fun _ _ => rfl, fun _ e => absurd e hu⟩
  · have idle (hs : x.supply.heldFed = false) := (Net.taken_idle (m := m) hx (fun _ => hs) (fun e => absurd e hr)).1
    have lost : ∃ y, (n.taken result m).zones[z]? = some y ∧ y.fed = (x.withFed result z).fed ∧ y.supply = .unfed := by
      cases hs : x.supply with
      | supplied => exact ⟨_, (idle (by rw [hs]; rfl)).trans (h.zone_lost hx hs hr), rfl, rfl⟩
      | unfed => exact ⟨_, (idle (by rw [hs]; rfl)).trans (h.zone_kept hx (Or.inr (by rw [hs]; decide))), rfl, hs⟩
      | repressurised | refedUncontrolled =>
        have kept := h.zone_kept hx (Or.inr (by rw [hs]; decide))
        exact ⟨_, (Net.taken_lost hx (by rw [hs]; rfl) hr kept).1, rfl, rfl⟩
    obtain ⟨y, hy, hyfed, hsupply⟩ := lost
    exact ⟨y, hy, by rw [hyfed, hfed], fun _ => hsupply, fun e => absurd e hr, fun e => absurd e hr⟩

end

end Sys2Proof.Machine
end

section
/-! A held zone under an applied result (R138 to R140): lost again, or gained by the state of its record. -/

namespace Sys2Proof.Machine

section
variable {n m : Net} {result : List Nat} {link r : Ref} {z j : Nat} {x : Zone} {o w : Outage} {h : HeldZone}

theorem heldRecord_of_findRecord {α : Type} {slots : List (Slot α)} {y : α} (hy : findRecord slots r = some y) :
    heldRecord slots r.slot = some y ∧ slotRecord slots r.slot = some y := by
  obtain ⟨sl, hsl, hfree, -, hrecord⟩ := slotRecord_of_findRecord hy
  unfold heldRecord slotRecord
  rw [hsl, Option.bind_some, Option.bind_some, if_neg hfree]
  exact ⟨hrecord, hrecord⟩

/-- R133: the link of a held zone, and the record it names. -/
theorem Net.HeldBy.linked (hh : n.HeldBy z x j o h) : ∃ r, x.outage = some r ∧ findRecord n.outages r = some o ∧ r.slot = j := by
  obtain ⟨hx, hrecord, -⟩ := hh
  unfold Net.zoneOutage at hrecord
  rw [hx, Option.bind_some] at hrecord
  obtain ⟨r, hr, hrest⟩ := Option.bind_eq_some_iff.1 hrecord
  obtain ⟨o', ho', hpair⟩ := Option.map_eq_some_iff.1 hrest
  cases hpair
  exact ⟨r, hr, ho', rfl⟩

/-- R138: a record holds a zone lost again. -/
theorem Net.holdsRelost_of {y : Zone} (hx : n.zones[z]? = some x) (hlost : x.supply.heldFed = true) (hy : m.zones[z]? = some y)
    (hsupply : y.supply = .unfed) (hlink : y.outage = some r) (hw : findRecord m.outages r = some w) : m.holdsRelost n r.slot = true := by
  unfold Net.holdsRelost
  refine List.any_eq_true.2 ⟨z, (Net.mem_idsWhere _ _ _).2 ⟨y, hy, by simp [hsupply]⟩, ?_⟩
  rw [hx, Net.zoneOutage_of hy hlink hw]
  simp [hlost]

/-- R138: a zone lost again, its record and the marks. -/
theorem Net.Placed.held_lost (hp : n.Placed m result link) (hx : n.zones[z]? = some x) (hlink : x.outage = some r)
    (ho : findRecord n.outages r = some o) (he : o.entry z = some h) (hlost : x.supply.heldFed = true) (hr : z ∉ result) :
    ∃ w, (n.settled (n.taken result m)).zones[z]? = some { x.withFed result z with supply := .unfed } ∧
      findRecord (n.settled (n.taken result m)).outages r = some w ∧ o.Holds z { h with relit := 0 } True w ∧
      .zone z ∈ (n.settled (n.taken result m)).marks.urgent ∧
      (.outage r.slot ∈ (n.settled (n.taken result m)).marks.urgent ∨ .outage r.slot ∈ (n.settled (n.taken result m)).marks.ordinary) := by
  have hnot : x.supply ≠ .supplied := by rintro e; rw [e] at hlost; exact nomatch hlost
  have kept := hp.zone_kept (result := result) hx (Or.inr hnot)
  have holds : m.RecordIs r (o.Holds z h False) := hp.record r _ ⟨o, ho, .refl he⟩ fun hs w hw => hw.join hs
  obtain ⟨hzone, hrecord⟩ := Net.taken_lost (result := result) hx hlost hr kept
  obtain ⟨w, hw, hholds⟩ := hrecord r o h False hlink holds
  have hjudged : (n.taken result m).PointsJudged (overEach (Net.judgePoints Net.unmarkedExcursion) (n.madeSupplied (n.taken result m)) _) :=
    .overEach Net.PointsJudged.points _ _
  obtain ⟨hzones, houtages, -⟩ := Net.settled_fields n (n.taken result m)
  refine ⟨w, by rw [hzones]; exact hzone, by rw [houtages]; exact hw, hholds, ?_, ?_⟩
  · exact Net.markOutcome_zone_urgent hx (by rw [hjudged.shape]; exact hzone) (Or.inr ⟨rfl, hlost⟩)
  · refine Net.markOutcome_outage (heldRecord_of_findRecord ho).1 (w := w) (by rw [hjudged.shape]; exact (heldRecord_of_findRecord hw).1) (Or.inr ?_)
    exact Net.holdsRelost_of hx hlost (y := { x.withFed result z with supply := .unfed }) (by rw [hjudged.shape]; exact hzone) rfl hlink
      (by rw [hjudged.shape]; exact hw)

/-- R139, R140: a zone gained, by what its own gain makes of the zone and of its record. -/
theorem Net.Placed.held_gained (hp : n.Placed m result link) (hx : n.zones[z]? = some x) (ho : findRecord n.outages r = some o)
    (he : o.entry z = some h) (hunfed : x.supply = .unfed) (hr : z ∈ result) {y : Zone}
    {P : Outage → Prop} (hsupply : y.supply ≠ .unfed)
    (hself : ∀ (k : Net) w, k.zones[z]? = some (x.withFed result z) → findRecord k.outages r = some w → o.Holds z h False w → k.now = n.now →
      (k.gain z).zones[z]? = some y ∧ (k.gain z).RecordIs r P)
    (hleave : ∀ i, i ≠ z → ∀ w, P w → P (w.leave n.now i)) :
    ∃ w, (n.settled (n.taken result m)).zones[z]? = some y ∧ findRecord (n.settled (n.taken result m)).outages r = some w ∧ P w ∧
      (y.supply = .refedUncontrolled → .zone z ∈ (n.settled (n.taken result m)).marks.urgent) ∧
      (.zone z ∈ (n.settled (n.taken result m)).marks.urgent ∨ .zone z ∈ (n.settled (n.taken result m)).marks.ordinary) ∧
      (o.reported ≠ w.reported → .outage r.slot ∈ (n.settled (n.taken result m)).marks.urgent ∨
        .outage r.slot ∈ (n.settled (n.taken result m)).marks.ordinary) := by
  have kept := hp.zone_kept (result := result) hx (Or.inl hr)
  have holds : m.RecordIs r (o.Holds z h False) := hp.record r _ ⟨o, ho, .refl he⟩ fun hs w hw => hw.join hs
  have gainNow (i : Nat) (k : Net) : (k.gain i).now = k.now := (Net.gain_frame .rfl).now
  have loseNow (i : Nat) (k : Net) : (k.loseAgain i).now = k.now := (Net.loseAgain_frame .rfl).now
  obtain ⟨hzone, ⟨w, hw, hP⟩, -⟩ := Net.taken_gained
    (P := fun k => k.zones[z]? = some (x.withFed result z) ∧ k.RecordIs r (o.Holds z h False) ∧ k.now = n.now)
    (Q := fun k => k.zones[z]? = some y ∧ k.RecordIs r P ∧ k.now = n.now) hx hunfed hr
    (fun i hi k ⟨hz, hrec, hnow⟩ => ⟨(Net.getElem?_loseAgain_other hi k).trans hz, hrec.loseAgain i fun w hw => hw.setRelit_other hi,
      (loseNow i k).trans hnow⟩)
    (fun i hi k ⟨hz, hrec, hnow⟩ => ⟨(Net.getElem?_gain_other hi k).trans hz, hrec.gain i fun w hw => hw.leave_other hi _,
      (gainNow i k).trans hnow⟩)
    (fun k ⟨hz, ⟨w, hw, hholds⟩, hnow⟩ =>
      have ⟨hy, hrec⟩ := hself k w hz hw hholds hnow
      ⟨hy, hrec, (gainNow z k).trans hnow⟩)
    (fun i hi k ⟨hz, hrec, hnow⟩ => ⟨(Net.getElem?_gain_other hi k).trans hz, hrec.gain i (hnow ▸ hleave i hi), (gainNow i k).trans hnow⟩)
    ⟨kept, holds, hp.now⟩
  have hjudged : (n.taken result m).PointsJudged (overEach (Net.judgePoints Net.unmarkedExcursion) (n.madeSupplied (n.taken result m)) _) :=
    .overEach Net.PointsJudged.points _ _
  have hreported : x.reported ≠ y.reported := fun e => hsupply ((congrArg (fun q => q.2.1) e).symm.trans hunfed)
  obtain ⟨hzones, houtages, -⟩ := Net.settled_fields n (n.taken result m)
  refine ⟨w, by rw [hzones]; exact hzone, by rw [houtages]; exact hw, hP, fun hu => ?_, ?_, fun hc => ?_⟩
  · exact Net.markOutcome_zone_urgent hx (by rw [hjudged.shape]; exact hzone) (Or.inl ⟨hu, by rw [hunfed]; decide⟩)
  · exact Net.markOutcome_zone hx (by rw [hjudged.shape]; exact hzone) hreported
  · exact Net.markOutcome_outage (heldRecord_of_findRecord ho).1 (by rw [hjudged.shape]; exact (heldRecord_of_findRecord hw).1) (Or.inl hc)

/-- R62, R140: the points of a zone that a gain made SUPPLIED. -/
theorem Net.settled_point_urgent {y : Zone} {q : Point} {i : Nat} (hx : n.zones[z]? = some x) (hbefore : x.supply ≠ .supplied)
    (hy : m.zones[z]? = some y) (hafter : y.supply = .supplied) (hi : i ∈ y.points) (hq : m.points[i]? = some q) (hgood : q.quality = .good)
    (hband : q.band = .lowlow ∨ q.band = .highhigh) : .point i ∈ (n.settled m).marks.urgent := by
  have hmade : z ∈ n.madeSupplied m := by
    unfold Net.madeSupplied
    refine List.mem_filter.2 ⟨(Net.mem_idsWhere _ _ _).2 ⟨y, hy, by simp [hafter]⟩, ?_⟩
    rw [hx]
    simpa using hbefore
  have hextreme : q.band.extreme = true := by rcases hband with e | e <;> rw [e] <;> rfl
  exact (Net.onlyMarks_markOutcome n _).grows.urgent _ (Net.judged_point_urgent hmade hy hi hq hgood hextreme)

/-- R138: a held zone lost again. -/
theorem Net.Placed.heldZoneTaken_lost (hp : n.Placed m result link) (hh : n.HeldBy z x j o h) (hfed : x.supply.heldFed = true) (hr : z ∉ result) :
    n.HeldZoneTaken (n.settled (n.taken result m)) result z x j o h := by
  obtain ⟨r, hlink, ho, rfl⟩ := hh.linked
  have hnot : x.supply ≠ .unfed := by rintro e; rw [e] at hfed; exact nomatch hfed
  obtain ⟨w, hzone, hw, hholds, hurgent, hmarked⟩ := hp.held_lost hh.zone hlink ho hh.entry hfed hr
  exact ⟨_, w, hzone, (heldRecord_of_findRecord hw).2, hholds.cause, hholds.incident, hholds.start,
    fun _ _ => ⟨rfl, rfl, hurgent, hholds.entry, hholds.counts trivial, hholds.state, hmarked⟩,
    fun e => absurd e hnot, fun e => absurd e hnot, fun e => absurd e hnot⟩

/-- R139: a zone refed while its record is not RESTORING. -/
theorem Net.Placed.heldZoneTaken_uncontrolled (hp : n.Placed m result link) (hh : n.HeldBy z x j o h) (hunfed : x.supply = .unfed)
    (hr : z ∈ result) (hs : o.state ≠ .restoring) : n.HeldZoneTaken (n.settled (n.taken result m)) result z x j o h := by
  obtain ⟨r, hlink, ho, rfl⟩ := hh.linked
  obtain ⟨w, hzone, hw, hholds, hurgent, -, -⟩ := hp.held_gained (P := o.Holds z h False)
    (y := { x.withFed result z with supply := .refedUncontrolled }) hh.zone ho hh.entry hunfed hr (by exact nofun)
    (fun k w hz hw hholds _ =>
      have ⟨hy, houtages⟩ := Net.gain_uncontrolled hz hlink hw (by rw [hholds.state]; exact hs)
      ⟨hy, Net.RecordIs.of_outages (n := k) ⟨w, hw, hholds⟩ houtages⟩)
    (fun i hi w hw => hw.leave_other hi _)
  exact ⟨_, w, hzone, (heldRecord_of_findRecord hw).2, hholds.cause, hholds.incident, hholds.start, fun _ hlost => absurd hr hlost,
    fun _ _ _ => ⟨rfl, rfl, hurgent rfl, hholds.entry, hholds.state⟩, fun _ _ e => absurd e hs, fun _ _ e => absurd e hs⟩

/-- R140: a zone with customers refed while its record is RESTORING. -/
theorem Net.Placed.heldZoneTaken_repressurised (hp : n.Placed m result link) (hh : n.HeldBy z x j o h) (hunfed : x.supply = .unfed)
    (hr : z ∈ result) (hs : o.state = .restoring) (hc : x.customers ≠ 0) :
    n.HeldZoneTaken (n.settled (n.taken result m)) result z x j o h := by
  obtain ⟨r, hlink, ho, rfl⟩ := hh.linked
  obtain ⟨w, hzone, hw, hholds, -, hmarked, -⟩ := hp.held_gained (P := o.Holds z h False)
    (y := { x.withFed result z with supply := .repressurised }) hh.zone ho hh.entry hunfed hr (by exact nofun)
    (fun k w hz hw hholds _ =>
      have ⟨hy, houtages⟩ := Net.gain_repressurised hz hlink hw (hholds.state.trans hs) hc
      ⟨hy, Net.RecordIs.of_outages (n := k) ⟨w, hw, hholds⟩ houtages⟩)
    (fun i hi w hw => hw.leave_other hi _)
  exact ⟨_, w, hzone, (heldRecord_of_findRecord hw).2, hholds.cause, hholds.incident, hholds.start, fun _ hlost => absurd hr hlost,
    fun _ _ e => absurd hs e, fun _ _ _ _ => ⟨rfl, rfl, hmarked, hholds.entry, hholds.state.trans hs⟩, fun _ _ _ e => absurd e hc⟩

/-- R62, R140: a zone without customers refed while its record is RESTORING: the zone leaves the record, and its points are judged. -/
theorem Net.Placed.heldZoneTaken_supplied (hp : n.Placed m result link) (hside : n.OutageSide m) (hh : n.HeldBy z x j o h)
    (hunfed : x.supply = .unfed) (hr : z ∈ result) (hs : o.state = .restoring) (hc : x.customers = 0) :
    n.HeldZoneTaken (n.settled (n.taken result m)) result z x j o h := by
  obtain ⟨r, hlink, ho, rfl⟩ := hh.linked
  obtain ⟨w, hzone, hw, hleft, -, hmarked, hreported⟩ := hp.held_gained (P := o.Left z n.now)
    (y := { x.withFed result z with supply := .supplied, outage := none }) hh.zone ho hh.entry hunfed hr (by exact nofun)
    (fun k w hz hw hholds hnow => by
      obtain ⟨hy, houtages⟩ := Net.gain_supplied hz hlink hw (hholds.state.trans hs) hc
      rw [hnow] at houtages
      exact ⟨hy, Net.RecordIs.of_outages
        (Net.RecordIs.setOutage_self (n := k) (P := o.Holds z h False) ⟨w, hw, hholds⟩ fun v hv => hv.leave_self hs n.now) houtages⟩)
    (fun i _ w hw => hw.leave i)
  have hpoints := (hside.trans (.taken n result m)).points
  have hsupplied := hzone
  rw [(Net.settled_fields n (n.taken result m)).1] at hsupplied
  refine ⟨_, w, hzone, (heldRecord_of_findRecord hw).2, hleft.cause, hleft.incident, hleft.start, fun _ hlost => absurd hr hlost,
    fun _ _ e => absurd hs e, fun _ _ _ e => absurd hc e, fun _ _ _ _ => ⟨rfl, rfl, hmarked, hleft.entry, hreported fun e => ?_,
      hleft.last, hleft.more, fun i hi q hq hgood hband => ?_⟩⟩
  · have hheld : w.held = o.held := (congrArg (fun q => q.2.2.1) e).symm
    have hgone := hleft.entry
    have he := hh.entry
    unfold Outage.entry at hgone he
    rw [hheld, he] at hgone
    exact nomatch hgone
  · exact Net.settled_point_urgent hh.zone (by rw [hunfed]; decide) hsupplied rfl hi (by rw [hpoints]; exact hq) hgood hband

/-- R138 to R140: a held zone that is neither lost again nor gained. -/
theorem Net.Placed.heldZoneTaken_idle (hp : n.Placed m result link) (hh : n.HeldBy z x j o h) (hlost : ¬(x.supply.heldFed = true ∧ z ∉ result))
    (hgained : ¬(x.supply = .unfed ∧ z ∈ result)) : n.HeldZoneTaken (n.settled (n.taken result m)) result z x j o h := by
  obtain ⟨r, hlink, ho, rfl⟩ := hh.linked
  have notLost {P : Prop} (e : x.supply = .repressurised ∨ x.supply = .refedUncontrolled) (hr : z ∉ result) : P :=
    absurd ⟨by rcases e with e | e <;> rw [e] <;> rfl, hr⟩ hlost
  have notGained {P : Prop} (e : x.supply = .unfed) (hr : z ∈ result) : P := absurd ⟨e, hr⟩ hgained
  have holds : m.RecordIs r (o.Holds z h False) := hp.record r _ ⟨o, ho, .refl hh.entry⟩ fun hs w hw => hw.join hs
  obtain ⟨w, hw, hholds⟩ := (Net.taken_idle (m := m) (result := result) hh.zone (fun hr => Bool.eq_false_iff.2 fun e => hlost ⟨e, hr⟩)
    (fun hr e => hgained ⟨e, hr⟩)).2 r o h False holds
  obtain ⟨y, hy, -⟩ := hp.taken_zone hh.zone
  obtain ⟨hzones, houtages, -⟩ := Net.settled_fields n (n.taken result m)
  exact ⟨y, w, by rw [hzones]; exact hy, by rw [houtages]; exact (heldRecord_of_findRecord hw).2, hholds.cause, hholds.incident, hholds.start,
    notLost, fun e hr => notGained e hr, fun e hr => notGained e hr, fun e hr => notGained e hr⟩

/-- R138 to R140: every held zone of an applied result. -/
theorem Net.Placed.heldZoneTaken (hp : n.Placed m result link) (hside : n.OutageSide m) (hh : n.HeldBy z x j o h) :
    n.HeldZoneTaken (n.settled (n.taken result m)) result z x j o h := by
  by_cases hlost : x.supply.heldFed = true ∧ z ∉ result
  · exact hp.heldZoneTaken_lost hh hlost.1 hlost.2
  · by_cases hgained : x.supply = .unfed ∧ z ∈ result
    · obtain ⟨hunfed, hr⟩ := hgained
      by_cases hs : o.state = .restoring
      · by_cases hc : x.customers = 0
        · exact hp.heldZoneTaken_supplied hside hh hunfed hr hs hc
        · exact hp.heldZoneTaken_repressurised hh hunfed hr hs hc
      · exact hp.heldZoneTaken_uncontrolled hh hunfed hr hs
    · exact hp.heldZoneTaken_idle hh hlost hgained

end

end Sys2Proof.Machine
end

section
/-! Losses placed where a result changes nothing else (R134 to R137): the record they join, or the one made for them. -/

namespace Sys2Proof.Machine

section
variable {n m b : Net} {result zs : List Nat} {r q : Ref} {slot z i : Nat} {o : Outage}

/-! ## What the steps write -/

theorem Net.writeFed_shape (result : List Nat) (n : Net) : n.writeFed result = { n with zones := (n.writeFed result).zones } :=
  overEach_invariant (P := fun m => m = { n with zones := m.zones })
    (f := fun z n => n.setZone z (fun x => { x with fed := fedOf (decide (z ∈ result)) })) (fun z _ m hm => by rw [hm]; rfl) rfl

theorem Net.joinLosses_shape (slot : Nat) (zs : List Nat) (n : Net) :
    n.joinLosses slot zs =
      { n with
        outages := n.outages.modify slot (Slot.update (Outage.join (n.heldEntries zs)))
        zones := (n.joinLosses slot zs).zones } :=
  overEach_invariant
    (P := fun m => m = { n with outages := n.outages.modify slot (Slot.update (Outage.join (n.heldEntries zs))), zones := m.zones })
    (f := fun z m => m.setZone z (fun x => { x with supply := .unfed, outage := some (slotRef n.outages slot) }))
    (fun z _ m hm => by rw [hm]; rfl) rfl

/-- R136: the losing zones as held entries, whatever the fed-states. -/
theorem Net.heldEntries_writeFed (n : Net) (result zs : List Nat) : (n.writeFed result).heldEntries zs = n.newlyHeld zs := by
  refine List.map_congr_left fun z _ => ?_
  rw [Net.writeFed_zones, Option.map_map]
  rfl

/-- R136: losses that join a record. -/
theorem Net.joined_outages (hs : ∃ sl, n.outages[slot]? = some sl ∧ sl.record = some o) :
    ((n.writeFed result).joinLosses slot zs).outages = putRecord n.outages slot (o.holding (o.held ++ n.newlyHeld zs)) := by
  obtain ⟨sl, hsl, ho⟩ := hs
  rw [Net.joinLosses_shape, Net.heldEntries_writeFed]
  change (n.writeFed result).outages.modify slot _ = _
  rw [Net.writeFed_shape]
  exact modify_update_eq_putRecord _ hsl ho

/-- R132, R136: the record made for losses, not yet linked, from `n` to `b`. -/
structure Net.RecordMade (n b : Net) (slot : Nat) (zs : List Nat) : Prop where
  outages : b.outages = fillSlot n.outages slot (n.madeOutage none zs)
  sequence : b.outageSeq = n.outageSeq + 1
  incidents : b.incidents = n.incidents
  survey : b.survey = n.survey
  plans : b.plans = n.plans
  params : b.params = n.params
  now : b.now = n.now
  grid : ∀ (z : Nat) (x : Zone), n.zones[z]? = some x → ∃ y : Zone, b.zones[z]? = some y ∧ y.gridX = x.gridX ∧ y.gridY = x.gridY

theorem Net.recordMade (n : Net) (result : List Nat) (slot : Nat) (zs : List Nat) :
    n.RecordMade (((n.writeFed result).makeOutage slot).joinLosses slot zs) slot zs := by
  have hheld : ((n.writeFed result).makeOutage slot).heldEntries zs = n.newlyHeld zs := Net.heldEntries_writeFed n result zs
  have hgrid (z : Nat) (x : Zone) (hx : n.zones[z]? = some x) : ∃ y,
      (((n.writeFed result).makeOutage slot).joinLosses slot zs).zones[z]? = some y ∧ y.gridX = x.gridX ∧ y.gridY = x.gridY := by
    have hfed : ((n.writeFed result).makeOutage slot).zones[z]? = some (x.withFed result z) := by
      change (n.writeFed result).zones[z]? = _
      rw [Net.writeFed_zones, hx]
      rfl
    rw [Net.joinLosses_zones, hfed, Option.map_some]
    split <;> exact ⟨_, rfl, rfl, rfl⟩
  have hcause : (n.writeFed result).lossCause = n.causeOfLosses := by
    rw [← Net.lossCause_eq, Net.writeFed_shape]
    rfl
  rw [Net.joinLosses_shape, hheld] at *
  refine ⟨?_, ?_, ?_, ?_, ?_, ?_, ?_, hgrid⟩
  · change (((n.writeFed result).makeOutage slot).outages).modify slot _ = _
    unfold Net.makeOutage
    dsimp only
    rw [hcause, Net.writeFed_shape, List.modify_modify_eq]
    rfl
  all_goals
    unfold Net.makeOutage
    rw [Net.writeFed_shape]

/-! ## The link (R102, R136) -/

theorem Net.RecordMade.lossCause (h : n.RecordMade b slot zs) : b.lossCause = n.causeOfLosses := by
  rw [← Net.lossCause_eq]
  unfold Net.lossCause
  rw [h.survey]

theorem Net.RecordMade.plannedIncident (h : n.RecordMade b slot zs) : b.plannedIncident = n.plannedIncident := by
  unfold Net.plannedIncident
  rw [h.survey, h.plans]

theorem slotRef_fillSlot {α : Type} {slots : List (Slot α)} (hslot : slot < slots.length) (y : α) :
    slotRef (fillSlot slots slot y) slot = { slot := slot, serial := (slotRef slots slot).serial + 1 } := by
  unfold slotRef fillSlot
  rw [List.getElem?_modify, List.getElem?_eq_getElem hslot]
  simp [refOf]

theorem Net.RecordMade.slotRef (h : n.RecordMade b slot zs) (hslot : slot < n.outages.length) :
    Machine.slotRef b.outages slot = { slot := slot, serial := (Machine.slotRef n.outages slot).serial + 1 } := by
  rw [h.outages]
  exact slotRef_fillSlot hslot _

/-- R102, R136: the new record linked. -/
theorem Net.RecordMade.linkBoth_outages (h : n.RecordMade b slot zs) (q : Ref) :
    (b.linkBoth slot q).outages = fillSlot n.outages slot (n.madeOutage (some q) zs) := by
  change b.outages.modify slot _ = _
  rw [h.outages, fillSlot, List.modify_modify_eq]
  rfl

/-- R136: the planned incident, where it is open. -/
theorem Net.RecordMade.linkNew_planned {x : Incident} (h : n.RecordMade b slot zs) (hq : n.Planned q) (hx : findRecord n.incidents q = some x)
    (hopen : x.state ≠ .closed) (zone : Nat) : b.linkNew slot zone = b.linkBoth slot q := by
  unfold Net.linkNew
  rw [h.lossCause, Net.planned_of_cause hq]
  dsimp only
  rw [h.plannedIncident, Net.plannedIncident_eq_some_iff.2 hq]
  dsimp only
  rw [h.incidents, hx, if_pos (by simpa using hopen)]

/-- R136: no open incident for planned losses: the record stands with no link. -/
theorem Net.RecordMade.linkNew_unlinked (h : n.RecordMade b slot zs) (hcause : n.causeOfLosses = .planned)
    (hclosed : ∀ q x, n.Planned q → findRecord n.incidents q = some x → x.state = .closed) (zone : Nat) : b.linkNew slot zone = b := by
  unfold Net.linkNew
  rw [h.lossCause, hcause]
  dsimp only
  split
  · next q hq =>
    rw [h.plannedIncident, Net.plannedIncident_eq_some_iff] at hq
    rw [h.incidents]
    cases hx : findRecord n.incidents q with
    | none => rfl
    | some x => rw [if_neg (by simpa using hclosed q x hq hx)]
  · rfl

/-- R83, R136: a SUPPLY-LOSS incident asked for and linked to the new record, which stands with no link when there is none. -/
def Net.linkAsked (slot zone gridX gridY : Nat) (n : Net) : Net :=
  match n.openIncident .supplyLoss 1 zone gridX gridY with
  | some (n1, i) => n1.linkBoth slot (slotRef n1.incidents i)
  | none => n

/-- R136: losses without a plan ask for an incident. -/
theorem Net.RecordMade.linkNew_asks {x : Zone} (h : n.RecordMade b slot zs) (hcause : n.causeOfLosses ≠ .planned) (hx : n.zones[z]? = some x) :
    b.linkNew slot z = b.linkAsked slot z x.gridX x.gridY := by
  obtain ⟨y, hy, hgx, hgy⟩ := h.grid z x hx
  rw [← hgx, ← hgy]
  have hcause' := h.lossCause
  unfold Net.linkNew Net.linkAsked
  rw [hy]
  cases hc : b.lossCause with
  | planned => exact absurd (hcause'.symm.trans hc) hcause
  | sourceLoss | unplanned => rfl

/-- R83, R136: the SUPPLY-LOSS incident made. -/
theorem Net.RecordMade.linkNew_supplyLoss {x : Zone} (h : n.RecordMade b slot zs) (hslot : slot < n.outages.length)
    (hcause : n.causeOfLosses ≠ .planned) (hi : LowestFree n.incidents i) (hx : n.zones[z]? = some x) :
    (b.linkNew slot z).outages =
        fillSlot n.outages slot (n.madeOutage (some { slot := i, serial := (Machine.slotRef n.incidents i).serial + 1 }) zs) ∧
      (b.linkNew slot z).outageSeq = b.outageSeq ∧
      (b.linkNew slot z).incidents =
        fillSlot n.incidents i (n.madeSupplyLoss z x { slot := slot, serial := (Machine.slotRef n.outages slot).serial + 1 }) := by
  have hlt : i < n.incidents.length := (List.getElem?_eq_some_iff.1 hi.1.choose_spec.1).1
  have hnew : newIncident b .supplyLoss 1 z x.gridX x.gridY = newIncident n .supplyLoss 1 z x.gridX x.gridY := by
    unfold newIncident
    rw [h.now, h.params]
  have hopen : b.openIncident .supplyLoss 1 z x.gridX x.gridY =
      some ({ b with incidents := fillSlot n.incidents i (newIncident n .supplyLoss 1 z x.gridX x.gridY) }, i) := by
    unfold Net.openIncident
    rw [h.incidents, freeSlot_of_lowestFree hi, hnew]
    rfl
  have hmade : n.RecordMade { b with incidents := n.incidents } slot zs := ⟨h.outages, h.sequence, rfl, h.survey, h.plans, h.params, h.now, h.grid⟩
  rw [h.linkNew_asks hcause hx, Net.linkAsked, hopen]
  dsimp only
  rw [slotRef_fillSlot hlt]
  refine ⟨hmade.linkBoth_outages _, rfl, ?_⟩
  change (fillSlot n.incidents i _).modify i _ = _
  rw [h.slotRef hslot, fillSlot, List.modify_modify_eq]
  rfl

/-- R136: with no FREE incident slot the record stands with no link. -/
theorem Net.RecordMade.linkNew_noRoom {x : Zone} (h : n.RecordMade b slot zs) (hcause : n.causeOfLosses ≠ .planned)
    (hfull : ∀ sl ∈ n.incidents, sl.state ≠ .free) (hx : n.zones[z]? = some x) : b.linkNew slot z = b := by
  have hopen : b.openIncident .supplyLoss 1 z x.gridX x.gridY = none := by
    unfold Net.openIncident
    rw [h.incidents, freeSlot_of_none_free hfull]
    rfl
  rw [h.linkNew_asks hcause hx, Net.linkAsked, hopen]

end

end Sys2Proof.Machine
end

section
/-! The completion of a real survey (R70, R134). -/

namespace Sys2Proof.Machine

section
variable {n m : Net} {result : List Nat} {start : BitVec 32} {link r : Ref} {o : Outage} {p : LossPlace} {j z : Nat}

/-! ## The completion, case by case -/

theorem Net.completeReal_moved (hflight : n.survey.inFlight = some (.real start result)) (hgen : n.survey.generation ≠ start) :
    n.completeReal = { n with survey := { n.survey with inFlight := none, pendingReal := true } } := by
  unfold Net.completeReal
  rw [hflight]
  exact if_neg hgen

theorem Net.completeReal_stands (hflight : n.survey.inFlight = some (.real start result)) (hgen : n.survey.generation = start) :
    n.completeReal = Net.offerResult start result { n with survey := { n.survey with inFlight := none } } := by
  unfold Net.completeReal
  rw [hflight]
  exact if_pos hgen

/-- R70: the net with the change set cleared. -/
def Net.cleared (n : Net) : Net := n.setSurvey (fun s => { s with changeValves := [], changeSources := [] })

theorem Net.offerResult_applied {k : Net} (h : n.applyResult result = some k) : n.offerResult start result = k.cleared := by
  unfold Net.offerResult Net.applyCompletion
  rw [h]
  rfl

theorem Net.offerResult_refused (h : n.applyResult result = none) :
    n.offerResult start result = { n with survey := { n.survey with held := some { start := start, reached := result } } } := by
  unfold Net.offerResult Net.applyCompletion
  rw [h]
  rfl

/-- R137: a result whose losses have no place. -/
theorem Net.applyResult_refused (hl : n.lossesOf result ≠ []) (hp : n.lossPlace = none) : n.applyResult result = none := by
  unfold Net.applyResult
  rw [Net.zonesOfClass_losses, if_neg hl, hp]
  rfl

theorem Net.applyResult_lossless (hl : n.lossesOf result = []) :
    n.applyResult result = some (n.settled (n.taken result (n.writeFed result))) := by
  unfold Net.applyResult
  rw [Net.zonesOfClass_losses, if_pos hl, Net.applyRest_eq]

theorem Net.applyResult_placed (hl : n.lossesOf result ≠ []) (hp : n.lossPlace = some p) :
    n.applyResult result = some (n.settled (n.taken result ((n.writeFed result).placeLosses p (n.lossesOf result)))) := by
  unfold Net.applyResult
  rw [Net.zonesOfClass_losses, if_neg hl, hp, Option.map_some, Net.applyRest_eq]

theorem Net.taken_marks (n : Net) (result : List Nat) (m : Net) : (n.taken result m).marks = m.marks :=
  (overEach_marks Net.gain_marks _ _).trans (overEach_marks Net.loseAgain_marks _ _)

/-- R134: a result that is applied, its losses placed. -/
theorem Net.applyResult_applied (h : n.lossesOf result = [] ∨ n.lossPlace ≠ none) :
    ∃ m link, n.applyResult result = some (n.settled (n.taken result m)) ∧ n.Placed m result link ∧ n.OutageSide m ∧ m.marks = n.marks := by
  by_cases hl : n.lossesOf result = []
  · exact ⟨_, ⟨0, 0⟩, Net.applyResult_lossless hl, Net.placed_none hl _, .writeFed result n, Net.writeFed_marks result n⟩
  · obtain ⟨p, hp⟩ := Option.ne_none_iff_exists'.1 (h.resolve_left hl)
    exact ⟨_, _, Net.applyResult_placed hl hp, Net.placed_losses hp, (Net.OutageSide.writeFed result n).trans (.placeLosses p _ _),
      (Net.placeLosses_marks p _ _).trans (Net.writeFed_marks result n)⟩

/-! ## Results whose only changes are losses -/

theorem Net.taken_onlyLosses (h : n.OnlyLosses result) (m : Net) : n.taken result m = m := by
  have empty (p : Supply → Bool) (b : Bool) (hno : ∀ z x, n.zones[z]? = some x → p x.supply = true → decide (z ∈ result) ≠ b) :
      n.zonesOfClass p b result = [] := by
    refine List.eq_nil_iff_forall_not_mem.2 fun z hz => ?_
    obtain ⟨g, hg, -⟩ := ((Net.mem_zonesOfClass n p b result z).1 hz).1
    obtain ⟨x, hx, -⟩ := Net.groundAt_some hg
    obtain ⟨hp, hr⟩ := (Net.mem_class_iff hx p b).1 hz
    exact hno z x hx hp hr
  unfold Net.taken
  rw [empty (· == .unfed) true fun z x hx hp => ?_, empty Supply.heldFed false fun z x hx hp => ?_]
  · rfl
  · rw [decide_eq_true ((h z x hx).2 (by simpa [Supply.heldFed] using hp))]
    decide
  · rw [decide_eq_false ((h z x hx).1 (by simpa using hp))]
    decide

/-- R134: with no gain, no zone is made SUPPLIED and no point judged. -/
theorem Net.Placed.settled_eq (hp : n.Placed m result link) : n.settled m = Net.markOutcome n m := by
  have hnone : n.madeSupplied m = [] := by
    refine List.eq_nil_iff_forall_not_mem.2 fun z hz => ?_
    obtain ⟨hafter, hbefore⟩ := List.mem_filter.1 hz
    obtain ⟨y, hy, hsupplied⟩ := (Net.mem_idsWhere _ _ _).1 hafter
    obtain ⟨x, hx, hnot⟩ := (Option.any_eq_true _ _).1 hbefore
    rw [hp.zone_kept hx (Or.inr (of_decide_eq_true hnot))] at hy
    obtain rfl := Option.some.inj hy
    exact (of_decide_eq_true hnot) (of_decide_eq_true hsupplied)
  unfold Net.settled
  rw [hnone]
  rfl

theorem Net.Placed.lossesLinked (hp : n.Placed m result link) : n.LossesLinked m result link := by
  refine List.ext_getElem? fun z => ?_
  rw [hp.zones, List.getElem?_mapIdx]
  have hfed (x : Zone) : x.withFed result z = { x with fed := if z ∈ result then .fed else .unfed } := by
    by_cases hz : z ∈ result <;> simp [Zone.withFed, fedOf, hz]
  cases n.zones[z]? with
  | none => rfl
  | some x => simp only [Option.map_some, hfed]

/-- R136: the losses joined the record `o`, which `r` names; nothing else has changed. -/
structure Net.Joined (n m : Net) (result : List Nat) (r : Ref) (o : Outage) : Prop where
  outages : m.outages = putRecord n.outages r.slot (o.holding (o.held ++ n.newlyHeld (n.lossesOf result)))
  incidents : m.incidents = n.incidents
  linked : n.LossesLinked m result r

/-- R136: a record made for the losses in slot `j`, linked as `link` says. -/
structure Net.Opened (n m : Net) (result : List Nat) (j : Nat) (link : Option Ref) : Prop where
  outages : m.outages = fillSlot n.outages j (n.madeOutage link (n.lossesOf result))
  sequence : m.outageSeq = n.outageSeq + 1
  linked : n.LossesLinked m result { slot := j, serial := (slotRef n.outages j).serial + 1 }
  urgent : link = none → .outage j ∈ m.marks.urgent

/-- R134: a result whose only changes are losses, applied: the losses placed, then marks. -/
theorem Net.applied_onlyLosses (h : n.OnlyLosses result) (hl : n.lossesOf result ≠ []) (hp : n.lossPlace = some p) :
    n.offerResult start result = (Net.markOutcome n ((n.writeFed result).placeLosses p (n.lossesOf result))).cleared := by
  rw [Net.offerResult_applied (Net.applyResult_placed hl hp), Net.taken_onlyLosses h, (Net.placed_losses hp).settled_eq]

theorem Net.placeLosses_existing {zs : List Nat} (h : zs ≠ []) (slot : Nat) (n : Net) : n.placeLosses (.existing slot) zs = n.joinLosses slot zs := by
  cases zs with
  | nil => exact absurd rfl h
  | cons z zs => rfl

/-- R136, R137: the losses join a record. -/
theorem Net.joined_existing (h : n.OnlyLosses result) (hl : n.lossesOf result ≠ []) (hp : n.lossPlace = some (.existing j))
    (hs : ∃ sl, n.outages[j]? = some sl ∧ sl.record = some o) :
    n.Joined (n.offerResult start result) result (slotRef n.outages j) o := by
  have placed := Net.placed_losses (result := result) hp
  rw [Net.applied_onlyLosses h hl hp]
  have hmarked := Net.onlyMarks_markOutcome n ((n.writeFed result).placeLosses (.existing j) (n.lossesOf result))
  rw [hmarked.shape]
  have hlink : (n.writeFed result).lossLink (.existing j) = slotRef n.outages j := by
    rw [Net.lossLink, Net.writeFed_shape]
  rw [hlink] at placed
  refine ⟨?_, ?_, placed.lossesLinked⟩
  · change ((n.writeFed result).placeLosses _ _).outages = _
    rw [Net.placeLosses_existing hl]
    exact Net.joined_outages hs
  · change ((n.writeFed result).placeLosses _ _).incidents = _
    rw [Net.placeLosses_existing hl, Net.joinLosses_shape, Net.writeFed_shape]

/-- R136: a record made for the losses. -/
theorem Net.opened_fresh (h : n.OnlyLosses result) (hl : n.lossesOf result ≠ []) (hj : LowestFree n.outages j)
    (hp : n.lossPlace = some (.fresh j)) (hz : (n.lossesOf result).head? = some z) {k : Net} {incident : Option Ref}
    (hk : (((n.writeFed result).makeOutage j).joinLosses j (n.lossesOf result)).linkNew j z = k)
    (houtages : k.outages = fillSlot n.outages j (n.madeOutage incident (n.lossesOf result))) (hseq : k.outageSeq = n.outageSeq + 1) :
    n.Opened (n.offerResult start result) result j incident ∧ (n.offerResult start result).incidents = k.incidents := by
  obtain ⟨sl, hsl, hfree⟩ := hj.1
  have placed := Net.placed_losses (result := result) hp
  have hlink : (n.writeFed result).lossLink (.fresh j) = { slot := j, serial := (slotRef n.outages j).serial + 1 } := by
    have hlt : j < (n.writeFed result).outages.length := by
      rw [Net.writeFed_shape]
      exact (List.getElem?_eq_some_iff.1 hsl).1
    refine (slotRef_fillSlot hlt _).trans ?_
    rw [Net.writeFed_shape]
  have hplace : (n.writeFed result).placeLosses (.fresh j) (n.lossesOf result) = k := by
    rw [← hk]
    cases hzs : n.lossesOf result with
    | nil => exact absurd hzs hl
    | cons w ws =>
      rw [hzs] at hz
      obtain rfl := Option.some.inj hz
      rfl
  rw [hlink, hplace] at placed
  rw [Net.applied_onlyLosses h hl hp, hplace]
  have hmarked := Net.onlyMarks_markOutcome n k
  have hnew (hnone : incident = none) : .outage j ∈ (Net.markOutcome n k).marks.urgent := by
    refine Net.markOutcome_outage_new (w := n.madeOutage incident (n.lossesOf result)) ?_ ?_ hnone
    · rw [heldRecord, hsl, Option.bind_some, if_pos hfree]
    · rw [houtages]
      exact heldRecord_fillSlot _ hsl
  refine ⟨⟨?_, ?_, ?_, hnew⟩, ?_⟩
  · exact (congrArg Net.outages hmarked.shape).trans houtages
  · exact (congrArg Net.outageSeq hmarked.shape).trans hseq
  · exact (congrArg Net.zones hmarked.shape).trans placed.lossesLinked
  · have hincidents := congrArg Net.incidents hmarked.shape
    exact hincidents

end

/-! ## The obligation -/

section
variable {n : Net} {result : List Nat} {start : BitVec 32}

/-- R134, R138 to R140: a result taken from `n` to `m`: every zone, every held zone, and the points judged. -/
structure Net.ResultTaken (n m : Net) (result : List Nat) : Prop where
  count : m.zones.length = n.zones.length
  zones : ∀ z x, n.zones[z]? = some x → ∃ y, m.zones[z]? = some y ∧ (y.fed = .fed ↔ z ∈ result) ∧ (z ∉ result → y.supply = .unfed) ∧
    (z ∈ result → x.supply ≠ .unfed → y.supply = x.supply) ∧ (z ∈ result → x.supply = .unfed → y.supply ≠ .unfed)
  held : ∀ z x j o h, n.HeldBy z x j o h → n.HeldZoneTaken m result z x j o h
  points : n.PointsMarkedFirst m

/-- R70: clearing the change set leaves what a result did. -/
theorem Net.ResultTaken.cleared {k : Net} (h : n.ResultTaken k result) : n.ResultTaken k.cleared result :=
  ⟨h.count, h.zones, h.held, h.points⟩

theorem Net.Placed.resultTaken {m : Net} {link : Ref} (placed : n.Placed m result link) (hside : n.OutageSide m) (hmarks : m.marks = n.marks)
    (hcount : (n.settled (n.taken result m)).zones.length = n.zones.length) : n.ResultTaken (n.settled (n.taken result m)) result where
  count := hcount
  zones z x hx := by
    obtain ⟨hzones, -⟩ := Net.settled_fields n (n.taken result m)
    rw [hzones]
    exact placed.taken_zone hx
  held z x j o h hh := placed.heldZoneTaken hside hh
  points := Net.pointsMarkedFirst_settled ((Net.taken_marks n result m).trans hmarks)

/-- R70, R134, R138 to R140: what an applied result leaves. -/
theorem Net.offerResult_spec (h : n.lossesOf result = [] ∨ n.lossPlace ≠ none) :
    (n.offerResult start result).survey = { n.survey with changeValves := [], changeSources := [] } ∧
      n.ResultTaken (n.offerResult start result) result := by
  obtain ⟨m, link, happly, placed, hside, hmarks⟩ := Net.applyResult_applied h
  have frame : Net.Frame false n (n.settled (n.taken result m)) := Net.applyResult_frame .rfl happly
  have hsurvey : (n.settled (n.taken result m)).survey = n.survey := by
    obtain ⟨-, -, -, hsettled, -⟩ := Net.settled_fields n (n.taken result m)
    exact hsettled.trans (hside.trans (.taken n result m)).survey
  have taken := placed.resultTaken hside hmarks frame.count
  rw [Net.offerResult_applied happly]
  generalize n.settled (n.taken result m) = k at hsurvey taken
  refine ⟨?_, taken.cleared⟩
  rw [← hsurvey]
  rfl

/-- R135 to R137: where losses alone go. -/
theorem Net.losses_placed (h : n.OnlyLosses result) (hl : n.lossesOf result ≠ []) :
    let k := n.offerResult start result
    (∀ r o, n.PlannedOutage r o → n.Joined k result r o) ∧
    ((∀ r o, ¬ n.PlannedOutage r o) →
      (∀ j, LowestFree n.outages j →
        let r : Ref := { slot := j, serial := (slotRef n.outages j).serial + 1 }
        (∀ q x, n.Planned q → findRecord n.incidents q = some x → x.state ≠ .closed →
          n.Opened k result j (some q) ∧ k.incidents = putRecord n.incidents q.slot { x with outage := some r }) ∧
        (n.causeOfLosses = .planned → (∀ q x, n.Planned q → findRecord n.incidents q = some x → x.state = .closed) →
          n.Opened k result j none ∧ k.incidents = n.incidents) ∧
        (n.causeOfLosses ≠ .planned →
          (∀ i z x, LowestFree n.incidents i → (n.lossesOf result).head? = some z → n.zones[z]? = some x →
            n.Opened k result j (some { slot := i, serial := (slotRef n.incidents i).serial + 1 }) ∧
              k.incidents = fillSlot n.incidents i (n.madeSupplyLoss z x r)) ∧
          ((∀ sl ∈ n.incidents, sl.state ≠ .free) → n.Opened k result j none ∧ k.incidents = n.incidents))) ∧
      ((∀ sl ∈ n.outages, sl.state ≠ .free) →
        (∀ j o, n.Newest .isolated j o → n.Joined k result (slotRef n.outages j) o) ∧
        ((∀ j o, ¬ n.outageIn .isolated j o) → ∀ j o, n.Newest .restoring j o → n.Joined k result (slotRef n.outages j) o))) := by
  intro k
  have inSlot {st : OutageState} {j : Nat} {o : Outage} (hj : n.Newest st j o) : ∃ sl, n.outages[j]? = some sl ∧ sl.record = some o :=
    have ⟨sl, hsl, _, ho, _⟩ := hj.1
    ⟨sl, hsl, ho⟩
  refine ⟨fun r o hr => ?_, fun hno => ⟨fun j hj => ?_, fun hfull => ⟨fun j o hj => ?_, fun hnone j o hj => ?_⟩⟩⟩
  · obtain ⟨-, -, -, -, -, hfind, -⟩ := id hr
    obtain ⟨sl, hsl, -, hserial, ho⟩ := slotRecord_of_findRecord hfind
    have hslot : slotRef n.outages r.slot = r := by
      rw [slotRef, hsl, Option.map_some, Option.getD_some, hserial, refOf]
    have joined := Net.joined_existing (start := start) h hl (Net.lossPlace_planned hr) ⟨sl, hsl, ho⟩
    rwa [hslot] at joined
  · have hp := Net.lossPlace_fresh hno hj
    have hlt : j < n.outages.length := (List.getElem?_eq_some_iff.1 hj.1.choose_spec.1).1
    obtain ⟨z, hz⟩ : ∃ z, (n.lossesOf result).head? = some z := Option.ne_none_iff_exists'.1 (mt List.head?_eq_none_iff.1 hl)
    have hx : ∃ x, n.zones[z]? = some x :=
      ⟨_, List.getElem?_eq_getElem (List.mem_range.1 (List.mem_filter.1 (List.mem_of_head? hz)).1)⟩
    obtain ⟨x, hx⟩ := hx
    have made := n.recordMade result j (n.lossesOf result)
    refine ⟨fun q y hq hy hopen => ?_, fun hcause hclosed => ?_, fun hcause => ⟨fun i w y hi hw hy => ?_, fun hfull => ?_⟩⟩
    · obtain ⟨opened, hincidents⟩ := Net.opened_fresh (start := start) h hl hj hp hz (made.linkNew_planned hq hy hopen z) (made.linkBoth_outages q)
        made.sequence
      obtain ⟨sl, hsl, -, -, hrecord⟩ := slotRecord_of_findRecord hy
      refine ⟨opened, hincidents.trans ?_⟩
      change (((n.writeFed result).makeOutage j).joinLosses j (n.lossesOf result)).incidents.modify q.slot _ = _
      rw [made.slotRef hlt, made.incidents]
      exact modify_update_eq_putRecord _ hsl hrecord
    · obtain ⟨opened, hincidents⟩ := Net.opened_fresh (start := start) h hl hj hp hz (made.linkNew_unlinked hcause hclosed z) made.outages
        made.sequence
      exact ⟨opened, hincidents.trans made.incidents⟩
    · obtain ⟨houtages, hseq, hincidents'⟩ := made.linkNew_supplyLoss hlt hcause hi hy
      obtain ⟨opened, hincidents⟩ := Net.opened_fresh (start := start) h hl hj hp hw rfl houtages (hseq.trans made.sequence)
      exact ⟨opened, hincidents.trans hincidents'⟩
    · obtain ⟨opened, hincidents⟩ := Net.opened_fresh (start := start) h hl hj hp hz (made.linkNew_noRoom hcause hfull hx) made.outages
        made.sequence
      exact ⟨opened, hincidents.trans made.incidents⟩
  · exact Net.joined_existing h hl (Net.lossPlace_isolated hno hfull hj) (inSlot hj)
  · exact Net.joined_existing h hl (Net.lossPlace_restoring hno hfull hnone hj) (inSlot hj)

end

/-- Settles O36: by the generation, whether the losses have a place, and, where losses are all that changes, what the place is. -/
theorem realSurveyCompletes : Obligations.RealSurveyCompletes := by
  unfold Obligations.RealSurveyCompletes
  intro s start result hflight losses
  have hlosses : s.net.lossesOf result ≠ [] ↔ losses := Net.lossesOf_ne_nil_iff
  let popped : Net := { s.net with survey := { s.net.survey with inFlight := none } }
  have hnet (hgen : s.net.survey.generation = start) : s.net.completeReal = popped.offerResult start result :=
    Net.completeReal_stands hflight hgen
  have judged := s.onlyNet_onNet Net.completeReal
  have hplace : popped.lossPlace = none ↔ s.net.NoPlace :=
    Net.lossPlace_eq_none_iff.trans ⟨fun h => ⟨h.planned, h.full, h.isolated, h.restoring⟩, fun h => ⟨h.planned, h.full, h.isolated, h.restoring⟩⟩
  have applied (happly : ¬ losses ∨ ¬ s.net.NoPlace) : popped.lossesOf result = [] ∨ popped.lossPlace ≠ none :=
    happly.imp (fun h => not_not.1 (mt hlosses.1 h)) (fun h e => h (hplace.1 e))
  refine ⟨(s.onNet Net.completeReal).judgeStarved, rfl, fun hgen => ?_, fun hgen hl hno => ?_, fun hgen happly => ?_, fun hgen happly => ?_,
    fun hgen hl honly => ?_⟩
  · rw [Net.completeReal_moved hflight hgen] at judged
    exact judged
  · have hrefused := Net.applyResult_refused (n := popped) (hlosses.2 hl) (hplace.2 hno)
    rw [hnet hgen, Net.offerResult_refused hrefused] at judged
    exact judged
  · obtain ⟨hsurvey, taken⟩ := Net.offerResult_spec (start := start) (applied happly)
    rw [hnet hgen] at judged
    rw [judged.net]
    refine ⟨judged, taken.count, ?_, ?_, ?_, ?_, fun z x hx => ?_⟩
    · rw [hsurvey]
    · rw [hsurvey]
    · rw [hsurvey]
    · rw [hsurvey]
    · obtain ⟨y, hy, hfed, hlost, hkept, hgained⟩ := taken.zones z x hx
      exact ⟨y, hy, hfed, hlost, hkept, hgained, fun j o h hh => taken.held z x j o h ⟨hh.zone, hh.record, hh.entry⟩⟩
  · obtain ⟨-, taken⟩ := Net.offerResult_spec (start := start) (applied happly)
    rw [judged.net, hnet hgen]
    exact taken.points
  · obtain ⟨hplanned, hunplanned⟩ := Net.losses_placed (n := popped) (start := start) honly (hlosses.2 hl)
    rw [judged.net, hnet hgen]
    have joins {r : Ref} {o : Outage} (h : popped.Joined (popped.offerResult start result) result r o) :=
      And.intro h.outages (And.intro h.incidents h.linked)
    have opens {j : Nat} {link : Option Ref} (h : popped.Opened (popped.offerResult start result) result j link) :=
      And.intro h.outages (And.intro h.sequence (And.intro h.linked h.urgent))
    refine ⟨fun r o hr => joins (hplanned r o hr), fun hno => ?_⟩
    obtain ⟨hfresh, hexisting⟩ := hunplanned hno
    refine ⟨fun j hj => ?_, fun hfull => ?_⟩
    · obtain ⟨hopen, hclosed, hasked⟩ := hfresh j hj
      refine ⟨fun q x hq hx hstate => (hopen q x hq hx hstate).imp_left opens, fun hcause hno => (hclosed hcause hno).imp_left opens, fun hcause => ?_⟩
      obtain ⟨hroom, hnoRoom⟩ := hasked hcause
      exact ⟨fun i z x hi hz hx => (hroom i z x hi hz hx).imp_left opens, fun hfull => (hnoRoom hfull).imp_left opens⟩
    · obtain ⟨hisolated, hrestoring⟩ := hexisting hfull
      exact ⟨fun j o hj => joins (hisolated j o hj), fun hnone j o hj => joins (hrestoring hnone j o hj)⟩

end Sys2Proof.Machine
end

section
/-! Records of the incident unit as they are written: what an update of a slot leaves, how it is marked (R104, R167), and an expired deadline
(R93). -/

namespace Sys2Proof.Machine

/-! ## The record of a slot -/

section
variable {α : Type} {slots : List (Slot α)} {i : Nat} {x : α}

/-- A slot's record is that of a present slot. -/
theorem slotRecord_eq_some_iff : slotRecord slots i = some x ↔ ∃ sl, slots[i]? = some sl ∧ sl.record = some x := by
  unfold slotRecord
  exact Option.bind_eq_some_iff

/-- An update of a slot writes the new record. -/
theorem modify_update_of_slotRecord (h : slotRecord slots i = some x) (f : α → α) :
    slots.modify i (Slot.update f) = putRecord slots i (f x) := by
  obtain ⟨sl, hsl, hx⟩ := slotRecord_eq_some_iff.1 h
  exact modify_update_eq_putRecord f hsl hx

theorem slotRecord_putRecord (h : slotRecord slots i = some x) (y : α) : slotRecord (putRecord slots i y) i = some y := by
  obtain ⟨sl, hsl, -⟩ := slotRecord_eq_some_iff.1 h
  refine slotRecord_eq_some_iff.2 ⟨{ sl with record := some y }, ?_, rfl⟩
  unfold putRecord
  rw [List.getElem?_modify, hsl]
  simp

theorem putRecord_self (h : slotRecord slots i = some x) : putRecord slots i x = slots := by
  obtain ⟨sl, hsl, hx⟩ := slotRecord_eq_some_iff.1 h
  refine (List.modify_congr_at fun y hy => ?_).trans (List.modify_id i slots)
  obtain rfl := Option.some.inj (hsl.symm.trans hy)
  rw [← hx]
  rfl

theorem putRecord_putRecord (slots : List (Slot α)) (i : Nat) (x y : α) : putRecord (putRecord slots i x) i y = putRecord slots i y := by
  unfold putRecord
  rw [List.modify_modify_eq]
  rfl

theorem putRecord_fillSlot (slots : List (Slot α)) (i : Nat) (x y : α) : putRecord (fillSlot slots i x) i y = fillSlot slots i y := by
  unfold putRecord fillSlot
  rw [List.modify_modify_eq]
  rfl

theorem LowestFree.lt_length (h : LowestFree slots i) : i < slots.length := by
  obtain ⟨⟨sl, hsl, -⟩, -⟩ := h
  exact (List.getElem?_eq_some_iff.1 hsl).1

theorem slotRecord_fillSlot (h : i < slots.length) (x : α) : slotRecord (fillSlot slots i x) i = some x := by
  refine slotRecord_eq_some_iff.2 ⟨{ state := .inUse, serial := slots[i].serial + 1, record := some x }, ?_, rfl⟩
  unfold fillSlot
  rw [List.getElem?_modify, List.getElem?_eq_getElem h]
  simp

theorem slotRef_putRecord (slots : List (Slot α)) (i : Nat) (x : α) : slotRef (putRecord slots i x) i = slotRef slots i := by
  unfold slotRef putRecord
  rw [List.getElem?_modify]
  cases slots[i]? <;> simp

/-- A record found by slot and serial is in a slot of that name. -/
theorem slotRef_of_findRecord {r : Ref} (h : findRecord slots r = some x) : slotRef slots r.slot = r := by
  obtain ⟨sl, hsl, -, hserial, -⟩ := slotRecord_of_findRecord h
  unfold slotRef
  rw [hsl, Option.map_some, Option.getD_some, hserial]
  rfl

end

/-! ## Marks taken twice (R167) -/

/-- A record marked already gains nothing by an ordinary mark. -/
theorem Marks.add_ordinary_after (m : Marks) (k : MarkKind) (r : RecordName) : (m.add k r).add .ordinary r = m.add k r := by
  have marked : r ∈ (m.add k r).urgent ∨ r ∈ (m.add k r).ordinary := by
    cases k with
    | urgent => exact Or.inl (m.mem_add_urgent r)
    | ordinary => exact m.mem_add_ordinary r
  rw [Marks.add.eq_def (m.add k r)]
  exact if_pos marked

/-! ## An incident updated (R104) -/

section
variable {n : Net} {i : Nat} {x : Incident}

theorem Net.setIncident_eq (h : slotRecord n.incidents i = some x) (f : Incident → Incident) :
    n.setIncident i f = { n with incidents := putRecord n.incidents i (f x) } := by
  unfold Net.setIncident
  rw [modify_update_of_slotRecord h]

/-- R104: an update marks the record exactly when a reported field changes. -/
theorem Net.updateIncident_eq (h : slotRecord n.incidents i = some x) (f : Incident → Incident) :
    n.updateIncident i f =
      { n with
        incidents := putRecord n.incidents i (f x)
        marks := if (f x).reported ≠ x.reported then n.marks.add .ordinary (.incident i) else n.marks } := by
  unfold Net.updateIncident
  rw [Net.setIncident_eq h, h, Option.any_some]
  by_cases hc : (f x).reported = x.reported
  · rw [if_neg (not_not.2 hc), decide_eq_false (not_not.2 hc)]
    rfl
  · rw [if_pos hc, decide_eq_true hc]
    rfl

theorem Net.updateIncident_changed (h : slotRecord n.incidents i = some x) {f : Incident → Incident} (hc : (f x).reported ≠ x.reported) :
    n.updateIncident i f =
      { n with incidents := putRecord n.incidents i (f x), marks := n.marks.add .ordinary (.incident i) } := by
  rw [Net.updateIncident_eq h, if_pos hc]

/-! ## A deadline expired (R93) -/

theorem Incident.expired_eq (now : Time) (x : Incident) :
    x.expired now =
      { x with
        armed := x.armed && !decide (x.armed = true ∧ x.deadline ≤ now)
        overdue := x.overdue || decide ((x.armed = true ∧ x.deadline ≤ now) ∧ x.state = .opened)
        missed := x.missed || decide ((x.armed = true ∧ x.deadline ≤ now) ∧ x.state = .opened) } := by
  unfold Incident.expired
  by_cases hdue : x.armed = true ∧ x.deadline ≤ now
  · by_cases hopen : x.state = .opened <;> simp [hdue, hopen]
  · simp [hdue]

/-- R93: what the expiry of a slot's deadline leaves, due or not. -/
theorem Net.expireIfDue_eq (h : slotRecord n.incidents i = some x) :
    n.expireIfDue i =
      { n with
        incidents := putRecord n.incidents i (x.expired n.now)
        marks := if (x.armed = true ∧ x.deadline ≤ n.now) ∧ x.state = .opened then n.marks.add .urgent (.incident i) else n.marks } := by
  have hdue : n.deadlineDue i = true ↔ x.armed = true ∧ x.deadline ≤ n.now := by
    unfold Net.deadlineDue
    rw [h, Option.any_some, Bool.and_eq_true, decide_eq_true_eq]
  unfold Net.expireIfDue Net.takeExpiry Incident.expired
  rw [h]
  by_cases due : x.armed = true ∧ x.deadline ≤ n.now
  · rw [if_pos (hdue.2 due), if_pos due]
    dsimp only
    by_cases hopen : x.state = .opened
    · rw [if_pos hopen, if_pos hopen, if_pos ⟨due, hopen⟩, Net.setIncident_eq h]
      rfl
    · rw [if_neg hopen, if_neg hopen, if_neg fun late => hopen late.2, Net.setIncident_eq h]
  · rw [if_neg (mt hdue.1 due), if_neg due, if_neg fun late => due late.1, putRecord_self h]

end

/-- Settles O40: by whether the mode, the timer and the clock let the expiry be taken, and then by the state of the incident. -/
theorem deadlineExpiryMarksOverdue : Obligations.DeadlineExpiryMarksOverdue := by
  unfold Obligations.DeadlineExpiryMarksOverdue
  intro s j x hx
  obtain ⟨t, ht, runs, rests⟩ : ∃ t, exec (.deadlineExpiry j) s = .next t ∧
      (s.net.mode.timersRun = true → s.OnlyNet t (s.net.expireIfDue j)) ∧ (s.net.mode.timersRun = false → s.OnlyNet t s.net) :=
    ⟨_, rfl, s.onlyNet_due s.net.mode.timersRun (Net.expireIfDue j)⟩
  rw [Net.expireIfDue_eq hx] at runs
  unfold Incident.expired at runs
  refine ⟨t, ht, fun untaken => ?_, fun ⟨hmode, hdue⟩ hopen => ?_, fun ⟨hmode, hdue⟩ hopen => ?_⟩
  · by_cases hmode : s.net.mode.timersRun = true
    · have undue : ¬ (x.armed = true ∧ x.deadline ≤ s.net.now) := fun due => untaken ⟨s.net.mode.timersRun_iff.1 hmode, due⟩
      rw [if_neg undue, if_neg fun late => undue late.1, putRecord_self hx] at runs
      exact runs hmode
    · exact rests (Bool.not_eq_true _ ▸ hmode)
  · rw [if_pos hdue, if_pos hopen, if_pos ⟨hdue, hopen⟩] at runs
    exact runs (s.net.mode.timersRun_iff.2 hmode)
  · rw [if_pos hdue, if_neg hopen, if_neg fun late => hopen late.2] at runs
    exact runs (s.net.mode.timersRun_iff.2 hmode)

end Sys2Proof.Machine
end

section
/-! INCIDENT-ACT orders (R94 to R99): the checks, each action's rule, and the answer, with what it leaves of the incident. -/

namespace Sys2Proof.Machine

/-! ## An order answered by its owner -/

section
variable {s : State} {i : Nat} {p : Post} {o : Order} {n : Net} {a : Answer}

/-- R158: a ready order that its owner answers, changing the net alone. -/
theorem State.serves_answered (h : s.ready i p o = true) (hL : o ≠ .lend)
    (hrun : (s.begun i p o).runOrder i o = ({ s.begun i p o with net := n }, .answered a)) (hlen : a.body.length ≤ 240) :
    ∃ t, (s.takeOrder p o).concluded = .next t ∧ s.Serves t i p o a n := by
  obtain ⟨t, ht, took, hnet, htod, hunset⟩ := s.takeOrder_answered i p o a h hL (by rw [hrun]) hlen
  rw [hrun] at hnet htod hunset
  exact ⟨t, ht, took, hnet, htod, hunset⟩

/-- An owner's answer, as the state in which it gets the order shows it. -/
theorem onNetAnswer_begun {f : Net → Net × Answer} (h : f s.net = (n, a)) :
    onNetAnswer f (s.begun i p o) = ({ s.begun i p o with net := n }, .answered a) := by
  unfold onNetAnswer
  rw [show (s.begun i p o).net = s.net from rfl, h]

end

theorem actAnswerBody_length (x : Incident) : (actAnswerBody x).length = 10 := rfl

/-! ## The checks of an action (R94) -/

section
variable {s : State} {i : Nat} {p : Post} {b : RefBody} {action cls : Byte} {n m : Net} {x y : Incident}
variable {rule : Incident → Net → Net × AnswerCode} {c : AnswerCode} {r : Ref}

/-- The body of an action on the incident that `b` names. -/
def actBody (b : RefBody) (action cls : Byte) : ActBody := { slot := b.slot, action := action, serial := b.serial, cls := cls }

/-- R158: a ready INCIDENT-ACT is answered by the incident unit. -/
theorem State.serves_act {a : Answer} (h : s.ready i p (actOrder b action cls) = true) (htake : s.net.takeAct (actBody b action cls) = (n, a))
    (hlen : a.body.length ≤ 240) :
    ∃ t, (s.takeOrder p (actOrder b action cls)).concluded = .next t ∧ s.Serves t i p (actOrder b action cls) a n :=
  State.serves_answered h nofun (onNetAnswer_begun htake) hlen

theorem Net.onIncident_absent (h : findRecord n.incidents r = none) : n.onIncident r rule = (n, .plain .noSuch) := by
  unfold Net.onIncident
  rw [h]

theorem Net.actAnswer_eq (h : slotRecord n.incidents i = some x) (c : AnswerCode) : n.actAnswer c i = .withBody c (actAnswerBody x) := by
  unfold Net.actAnswer
  rw [h]

theorem Net.onIncident_closed (h : findRecord n.incidents r = some x) (hx : x.state = .closed) :
    n.onIncident r rule = (n, .withBody .badState (actAnswerBody x)) := by
  unfold Net.onIncident
  rw [h]
  dsimp only
  rw [if_pos hx, Net.actAnswer_eq (heldRecord_of_findRecord h).2]

/-- R94: an action on an open incident is answered from the record as its rule leaves it. -/
theorem Net.onIncident_open (h : findRecord n.incidents r = some x) (hx : x.state ≠ .closed) (hrule : rule x n = (m, c))
    (hy : slotRecord m.incidents r.slot = some y) : n.onIncident r rule = (m, .withBody c (actAnswerBody y)) := by
  unfold Net.onIncident
  rw [h]
  dsimp only
  rw [if_neg hx, hrule, Net.actAnswer_eq hy]

/-- R94: the record an action leaves, and its answer. -/
theorem State.acts (h : s.ready i p (actOrder b action cls) = true)
    (hroute : s.net.takeAct (actBody b action cls) = s.net.onIncident (bodyRef b) rule)
    (hx : findRecord s.net.incidents (bodyRef b) = some x) (hopen : x.state ≠ .closed) {ms : Marks}
    (hrule : rule x s.net = ({ s.net with incidents := putRecord s.net.incidents b.slot.toNat y, marks := ms }, c)) :
    ∃ t, (s.takeOrder p (actOrder b action cls)).concluded = .next t ∧
      s.Serves t i p (actOrder b action cls) (.withBody c (actAnswerBody y))
        { s.net with incidents := putRecord s.net.incidents b.slot.toNat y, marks := ms } :=
  State.serves_act h (hroute.trans (Net.onIncident_open hx hopen hrule (slotRecord_putRecord (heldRecord_of_findRecord hx).2 y)))
    (by rw [Answer.withBody, actAnswerBody_length]; decide)

/-- R94: an action whose rule refuses it. -/
theorem State.act_refused (h : s.ready i p (actOrder b action cls) = true)
    (hroute : s.net.takeAct (actBody b action cls) = s.net.onIncident (bodyRef b) rule)
    (hx : findRecord s.net.incidents (bodyRef b) = some x) (hopen : x.state ≠ .closed) (hrule : rule x s.net = (s.net, c)) :
    ∃ t, (s.takeOrder p (actOrder b action cls)).concluded = .next t ∧
      s.Refuses t i p (actOrder b action cls) (.withBody c (actAnswerBody x)) :=
  State.serves_act h (hroute.trans (Net.onIncident_open hx hopen hrule (heldRecord_of_findRecord hx).2))
    (by rw [Answer.withBody, actAnswerBody_length]; decide)

/-- R94: an action on an incident that is not found, or CLOSED. -/
theorem State.act_unmet (h : s.ready i p (actOrder b action cls) = true)
    (hroute : s.net.takeAct (actBody b action cls) = s.net.onIncident (bodyRef b) rule) :
    (findRecord s.net.incidents (bodyRef b) = none →
      ∃ t, (s.takeOrder p (actOrder b action cls)).concluded = .next t ∧ s.Refuses t i p (actOrder b action cls) (.plain .noSuch)) ∧
    ∀ x, findRecord s.net.incidents (bodyRef b) = some x → x.state = .closed →
      ∃ t, (s.takeOrder p (actOrder b action cls)).concluded = .next t ∧
        s.Refuses t i p (actOrder b action cls) (.withBody .badState (actAnswerBody x)) :=
  ⟨fun hx => State.serves_act h (hroute.trans (Net.onIncident_absent hx)) (Nat.zero_le _),
    fun x hx hclosed => State.serves_act h (hroute.trans (Net.onIncident_closed hx hclosed))
      (by rw [Answer.withBody, actAnswerBody_length]; decide)⟩

/-! ## Each action's rule -/

theorem Net.takeAct_attend (n : Net) (b : RefBody) :
    n.takeAct (actBody b 1 0) = n.onIncident (bodyRef b) (attendRule b.slot.toNat) := rfl

theorem Net.takeAct_safe (n : Net) (b : RefBody) : n.takeAct (actBody b 2 0) = n.onIncident (bodyRef b) (safeRule b.slot.toNat) := rfl

theorem Net.takeAct_close (n : Net) (b : RefBody) : n.takeAct (actBody b 3 0) = n.onIncident (bodyRef b) (closeRule b.slot.toNat) := rfl

theorem Net.takeAct_ack (n : Net) (b : RefBody) : n.takeAct (actBody b 5 0) = n.onIncident (bodyRef b) (ackRule b.slot.toNat) := rfl

theorem Net.takeAct_reclass (hcls : 1 ≤ cls.toNat ∧ cls.toNat ≤ 3) (n : Net) (b : RefBody) :
    n.takeAct (actBody b 4 cls) = n.onIncident (bodyRef b) (reclassRule b.slot.toNat cls.toNat) := if_pos hcls

theorem Net.takeAct_noClass (hcls : ¬ (1 ≤ cls.toNat ∧ cls.toNat ≤ 3)) (n : Net) (b : RefBody) :
    n.takeAct (actBody b 4 cls) = (n, .plain .badForm) := if_neg hcls

/-- R104: the state of an incident is a reported field. -/
theorem Incident.reported_ne_of_state (h : y.state ≠ x.state) : y.reported ≠ x.reported := mt (congrArg Incident.state) h

/-- R95: an OPEN incident attended. -/
theorem attendRule_opened {j : Nat} (hx : slotRecord n.incidents j = some x) (hstate : x.state = .opened) :
    attendRule j x n =
      ({ n with
          incidents := putRecord n.incidents j { x with state := .attending, late := x.late || x.missed }
          marks := n.marks.add .ordinary (.incident j) },
        if x.missed then .doneLate else .done) := by
  unfold attendRule
  rw [if_pos hstate, Net.updateIncident_changed hx (Incident.reported_ne_of_state (by simp [hstate]))]

/-- R96: an ATTENDING incident made safe. -/
theorem safeRule_attending {j : Nat} (hx : slotRecord n.incidents j = some x) (hstate : x.state = .attending) :
    safeRule j x n =
      ({ n with
          incidents := putRecord n.incidents j { x with state := .safe }
          marks := n.marks.add .ordinary (.incident j) },
        .done) := by
  unfold safeRule
  rw [if_pos hstate, Net.updateIncident_changed hx (Incident.reported_ne_of_state (by simp [hstate]))]

/-- R97: a plan link is done when the plan it still finds has ended. -/
theorem Net.planLinkDone_iff (n : Net) (r : Ref) :
    n.planLinkDone r = true ↔ ∀ q, findRecord n.plans r = some q → q.state = .complete ∨ q.state = .abandoned := by
  unfold Net.planLinkDone
  cases findRecord n.plans r <;> simp

/-- R97: the outage link is done when the outage it still finds is RESTORED. -/
theorem Net.outageLinkDone_iff (n : Net) (k : Option Ref) :
    n.outageLinkDone k = true ↔ ∀ r o, k = some r → findRecord n.outages r = some o → o.state = .restored := by
  unfold Net.outageLinkDone
  cases k with
  | none => exact ⟨fun _ _ _ => nofun, fun _ => rfl⟩
  | some r =>
    have named : (∀ q o, some r = some q → findRecord n.outages q = some o → o.state = .restored) ↔
        ∀ o, findRecord n.outages r = some o → o.state = .restored :=
      ⟨fun h o => h r o rfl, fun h q o hq => Option.some.inj hq ▸ h o⟩
    rw [named, Option.bind_some]
    cases findRecord n.outages r <;> simp

theorem Net.mayClose_iff (n : Net) (x : Incident) :
    n.mayClose x = true ↔ (∀ r ∈ x.plans, ∀ q, findRecord n.plans r = some q → q.state = .complete ∨ q.state = .abandoned) ∧
      (∀ r o, x.outage = some r → findRecord n.outages r = some o → o.state = .restored) ∧ x.reservations = 0 := by
  unfold Net.mayClose
  rw [Bool.and_eq_true, Bool.and_eq_true, List.all_eq_true, decide_eq_true_eq, Net.outageLinkDone_iff, and_assoc]
  simp only [Net.planLinkDone_iff]

/-- R97: a SAFE incident with everything ended closes. -/
theorem closeRule_ended {j : Nat} (hx : slotRecord n.incidents j = some x) (hclose : x.state = .safe ∧ n.mayClose x = true) :
    closeRule j x n =
      ({ n with
          incidents := putRecord n.incidents j { x with state := .closed, armed := false }
          marks := n.marks.add .ordinary (.incident j) },
        .done) := by
  unfold closeRule
  rw [if_pos hclose, Net.updateIncident_changed hx (Incident.reported_ne_of_state (by simp [hclose.1]))]

/-- R98: the record reclassified, its deadline not yet judged. -/
theorem Incident.reclass_eq (p : IncidentParams) (cls : Nat) (x : Incident) :
    x.reclass p cls =
      { x with
        cls := cls, escalated := x.escalated && decide (cls = 1), deadline := x.opened + p.deadline cls
        armed := x.armed || decide (x.opened + p.deadline cls ≠ x.deadline) } := by
  unfold Incident.reclass Incident.setDeadline
  have hescalated : (if cls = 1 then x.escalated else false) = (x.escalated && decide (cls = 1)) := by split <;> simp [*]
  rw [hescalated]
  dsimp only
  split
  · next same => simp [same]
  · next moved => simp [moved]

/-- R98, R93: a RECLASS, a deadline that lies in the past expired. -/
theorem reclassRule_eq {j cls : Nat} (hx : slotRecord n.incidents j = some x) :
    let y := x.reclass n.params cls
    let marks := if x.cls ≠ 1 ∧ cls = 1 then (n.marks.add .ordinary (.incident j)).add .urgent (.incident j)
      else n.marks.add .ordinary (.incident j)
    reclassRule j cls x n =
      ({ n with
          incidents := putRecord n.incidents j (y.expired n.now)
          marks := if (y.armed = true ∧ y.deadline ≤ n.now) ∧ y.state = .opened then marks.add .urgent (.incident j) else marks },
        .done) := by
  intro y marks
  have written : (if x.cls ≠ 1 ∧ cls = 1 then ((n.setIncident j (Incident.reclass n.params cls)).mark .ordinary (.incident j)).mark .urgent
        (.incident j)
      else (n.setIncident j (Incident.reclass n.params cls)).mark .ordinary (.incident j)) =
      { n with incidents := putRecord n.incidents j y, marks := marks } := by
    rw [Net.setIncident_eq hx]
    dsimp only [marks]
    split <;> rfl
  unfold reclassRule
  dsimp only
  rw [written, Net.expireIfDue_eq (slotRecord_putRecord hx y), putRecord_putRecord]

/-- R99: ACK clears OVERDUE, and marks the record when it was set. -/
theorem ackRule_eq {j : Nat} (hx : slotRecord n.incidents j = some x) :
    ackRule j x n =
      ({ n with
          incidents := putRecord n.incidents j { x with overdue := false }
          marks := if x.overdue then n.marks.add .ordinary (.incident j) else n.marks },
        .done) := by
  have changed : ({ x with overdue := false } : Incident).reported ≠ x.reported ↔ x.overdue = true := by
    cases hover : x.overdue <;> simp [Incident.reported, hover]
  unfold ackRule
  rw [Net.updateIncident_eq hx]
  simp only [changed]

end

/-- Settles O20: each order by the state of the incident it finds. -/
theorem attendAndSafeAnswer : Obligations.AttendAndSafeAnswer := by
  unfold Obligations.AttendAndSafeAnswer
  refine ⟨fun s i p b x h hx => ⟨fun hstate => ?_, fun hstate => ?_⟩, fun s i p b x h hx => ⟨fun hstate => ?_, fun hstate => ?_⟩⟩
  · exact State.acts h (s.net.takeAct_attend b) hx (by simp [hstate]) (attendRule_opened (heldRecord_of_findRecord hx).2 hstate)
  · have hrefused : x.state ≠ .opened ∧ x.state ≠ .closed := by rcases hstate with e | e <;> simp [e]
    exact State.act_refused h (s.net.takeAct_attend b) hx hrefused.2 (if_neg hrefused.1)
  · exact State.acts h (s.net.takeAct_safe b) hx (by simp [hstate]) (safeRule_attending (heldRecord_of_findRecord hx).2 hstate)
  · have hrefused : x.state ≠ .attending ∧ x.state ≠ .closed := by rcases hstate with e | e <;> simp [e]
    exact State.act_refused h (s.net.takeAct_safe b) hx hrefused.2 (if_neg hrefused.1)

/-- Settles O21: the rule of CLOSE, by whether everything it asks for has ended. -/
theorem closeNeedsEverythingEnded : Obligations.CloseNeedsEverythingEnded := by
  unfold Obligations.CloseNeedsEverythingEnded
  intro s i p b x h hx hopen plansEnded outageEnded
  have ended : (x.state = .safe ∧ s.net.mayClose x = true) ↔ (x.state = .safe ∧ plansEnded ∧ outageEnded ∧ x.reservations = 0) :=
    and_congr_right fun _ => s.net.mayClose_iff x
  refine ⟨fun hclose => ?_, fun hclose => ?_⟩
  · exact State.acts h (s.net.takeAct_close b) hx hopen (closeRule_ended (heldRecord_of_findRecord hx).2 (ended.2 hclose))
  · exact State.act_refused h (s.net.takeAct_close b) hx hopen (if_neg (mt ended.1 hclose))

/-- Settles O22: a RECLASS sets class and deadline and judges the new deadline; an ACK clears OVERDUE. -/
theorem reclassAndAckAnswer : Obligations.ReclassAndAckAnswer := by
  unfold Obligations.ReclassAndAckAnswer
  refine ⟨fun s i p b cls x h hx hopen hlow hhigh => ?_, fun s i p b x h hx hopen => ?_⟩
  · have hrule := reclassRule_eq (cls := cls.toNat) (heldRecord_of_findRecord hx).2
    dsimp only at hrule
    rw [Incident.expired_eq, Incident.reclass_eq] at hrule
    exact State.acts h (s.net.takeAct_reclass ⟨hlow, hhigh⟩ b) hx hopen hrule
  · exact State.acts h (s.net.takeAct_ack b) hx hopen (ackRule_eq (heldRecord_of_findRecord hx).2)

end Sys2Proof.Machine
end

section
/-! CALL orders (R84 to R91): the checks, the attachment of a call (R89, R90), the record it makes (R83), and the incident it finds
(R85, R87, R88). -/

namespace Sys2Proof.Machine

section
variable {s : State} {i : Nat} {p : Post} {b : CallBody} {n m : Net} {a : Answer} {k : CallKind} {z : Zone}

theorem callBody_length (slot : Nat) (serial : Half) (x : Incident) (time : Time) : (callBody slot serial x time).length = 24 := rfl

/-- R158: a ready CALL is answered by the incident unit. -/
theorem State.serves_call (h : s.ready i p (.call b) = true) (htake : s.net.takeCall b = (n, a)) (hlen : a.body.length ≤ 240) :
    ∃ t, exec (.call p b) s = .next t ∧ s.Serves t i p (.call b) a n :=
  State.serves_answered h nofun (onNetAnswer_begun htake) hlen

/-- R158: a call answered with the incident that takes it. -/
theorem State.serves_callBody (h : s.ready i p (.call b) = true) {c : AnswerCode} {slot : Nat} {serial : Half} {y : Incident}
    (htake : s.net.takeCall b = (n, .withBody c (callBody slot serial y s.net.now))) :
    ∃ t, exec (.call p b) s = .next t ∧ s.Serves t i p (.call b) (.withBody c (callBody slot serial y s.net.now)) n :=
  State.serves_call h htake (by rw [Answer.withBody, callBody_length]; decide)

/-! ## The checks of a call (R84) -/

theorem Net.takeCall_badForm (h : CallKind.ofCode b.kind.toNat = none ∨ 4095 < b.gridX.toNat ∨ 4095 < b.gridY.toNat) (n : Net) :
    n.takeCall b = (n, .plain .badForm) := by
  unfold Net.takeCall
  split
  · rfl
  · next k hk =>
    have offGrid : Config.gridMax < b.gridX.toNat ∨ Config.gridMax < b.gridY.toNat := h.resolve_left (by simp [hk])
    rw [if_pos offGrid]

theorem CallBody.onGrid (hx : b.gridX.toNat ≤ 4095) (hy : b.gridY.toNat ≤ 4095) :
    ¬ (Config.gridMax < b.gridX.toNat ∨ Config.gridMax < b.gridY.toNat) := not_or.2 ⟨Nat.not_lt.2 hx, Nat.not_lt.2 hy⟩

theorem Net.takeCall_absent (hk : CallKind.ofCode b.kind.toNat = some k) (hx : b.gridX.toNat ≤ 4095) (hy : b.gridY.toNat ≤ 4095)
    (hz : n.zones.length ≤ b.zone.toNat) : n.takeCall b = (n, .plain .noSuch) := by
  unfold Net.takeCall
  rw [hk]
  dsimp only
  rw [if_neg (CallBody.onGrid hx hy), List.getElem?_eq_none hz]

/-- R84: a good call goes by its group, and in the supply group by the zone's outage link. -/
theorem Net.takeCall_good (h : n.callGood b k z) :
    n.takeCall b =
      if k.escapeGroup then n.escapeCall b.zone.toNat (callEntry n b k)
      else z.outage.elim (n.unlinkedSupplyCall b.zone.toNat z (callEntry n b k))
        (fun r => n.outageCall b.zone.toNat r (callEntry n b k)) := by
  obtain ⟨hk, hx, hy, hz⟩ := h
  unfold Net.takeCall
  rw [hk]
  dsimp only
  rw [if_neg (CallBody.onGrid hx hy), hz]
  dsimp only
  cases z.outage <;> rfl

theorem Net.takeCall_escape (h : n.callGood b k z) (hgroup : k.escapeGroup = true) :
    n.takeCall b = n.escapeCall b.zone.toNat (callEntry n b k) := by
  rw [Net.takeCall_good h, if_pos hgroup]

theorem Net.takeCall_outage {r : Ref} (h : n.callGood b k z) (hgroup : k.escapeGroup = false) (hlink : z.outage = some r) :
    n.takeCall b = n.outageCall b.zone.toNat r (callEntry n b k) := by
  rw [Net.takeCall_good h, if_neg (by simp [hgroup]), hlink, Option.elim_some]

theorem Net.takeCall_unlinked (h : n.callGood b k z) (hgroup : k.escapeGroup = false) (hlink : z.outage = none) :
    n.takeCall b = n.unlinkedSupplyCall b.zone.toNat z (callEntry n b k) := by
  rw [Net.takeCall_good h, if_neg (by simp [hgroup]), hlink, Option.elim_none]

theorem CallKind.escapeGroup_iff (k : CallKind) :
    k.escapeGroup = true ↔ k = .smellInside ∨ k = .audible ∨ k = .damage ∨ k = .smellOutside := by
  cases k <;> simp [CallKind.escapeGroup]

/-- R84: the supply group and its class. -/
theorem CallKind.supplyGroup (h : k = .noSupply ∨ k = .lowPressure) : k.escapeGroup = false ∧ k.cls = 3 := by
  rcases h with rfl | rfl <;> exact ⟨rfl, rfl⟩

end

/-! ## A call attached (R89, R90) -/

section
variable {n : Net} {i : Nat} {x y : Incident} {e : CallEntry} {p : IncidentParams}

theorem Incident.setDeadline_eq (d : Time) (x : Incident) :
    x.setDeadline d = { x with deadline := d, armed := x.armed || decide (d ≠ x.deadline) } := by
  unfold Incident.setDeadline
  split
  · next same => simp [same]
  · next moved => simp [moved]

/-- R89: the entry joins the call list, or is counted. -/
def Incident.listed (e : CallEntry) (x : Incident) : Incident :=
  { x with
    calls := if x.calls.length < 8 then x.calls ++ [e] else x.calls
    further := if x.calls.length < 8 then x.further else min (x.further + 1) 65535 }

theorem Incident.attach_listed (p : IncidentParams) (e : CallEntry) (cls : Nat) (x : Incident) :
    x.attach p e cls =
      (Incident.setDeadline (min x.deadline (e.time + p.deadline (min x.cls cls)))
        { x.listed e with lastCall := some e.time, cls := min x.cls cls }).escalate p e.time := by
  have hlisted : (if x.calls.length < Config.callListMax then { x with calls := x.calls ++ [e] }
      else { x with further := min (x.further + 1) 65535 } : Incident) = x.listed e := by
    unfold Incident.listed
    change (if x.calls.length < 8 then _ else _) = _
    split <;> rfl
  unfold Incident.attach
  rw [hlisted]
  rfl

/-- R92: a deadline that only moves earlier arms its timer in one of two moves exactly when the last differs from the first. -/
theorem armed_twice (a c d : Nat) :
    (decide (min a c ≠ a) || decide (min (min a c) d ≠ min a c)) = decide (min (min a c) d ≠ a) := by
  rw [← Bool.decide_or, decide_eq_decide]
  omega

/-- R89, R90: the steps of an attachment come to what the statements say of it. -/
theorem Incident.attach_eq_withCall (p : IncidentParams) (e : CallEntry) (x : Incident) : x.attach p e e.kind.cls = x.withCall p e := by
  rw [Incident.attach_listed, Incident.setDeadline_eq]
  unfold Incident.escalate Incident.withCall Incident.listed Incident.attachedCalls
  dsimp only
  generalize (if x.calls.length < 8 then x.calls ++ [e] else x.calls) = calls
  generalize (if x.calls.length < 8 then x.further else min (x.further + 1) 65535) = further
  by_cases escalates : p.escalation ≤ calls.length + further ∧ min x.cls e.kind.cls ≠ 1
  · rw [if_pos escalates, Incident.setDeadline_eq]
    simp only [if_pos escalates, decide_eq_true escalates, Bool.or_true, Bool.or_assoc, armed_twice]
  · simp only [if_neg escalates, decide_eq_false escalates, Bool.or_false]

/-- R89: the first call leaves the class of a record that is no worse than the call's: a single call does not escalate it (R90). -/
theorem Incident.withCall_first (hcalls : x.calls = []) (hfurther : x.further = 0) (hcls : x.cls ≤ e.kind.cls)
    (he : x.cls = 1 ∨ 2 ≤ p.escalation) : (x.withCall p e).cls = x.cls := by
  have noEscalation : ¬ (p.escalation ≤ 1 ∧ x.cls ≠ 1) := fun ⟨hcount, hne⟩ => he.elim hne fun h => absurd (h.trans hcount) (by decide)
  unfold Incident.withCall
  rw [hcalls, hfurther, Nat.min_eq_left hcls]
  exact if_neg noEscalation

/-- R89, R104: a call attached to a slot's incident. -/
theorem Net.attachCall_eq (h : slotRecord n.incidents i = some x) :
    n.attachCall i e e.kind.cls = n.afterCall i x (x.withCall n.params e) := by
  unfold Net.attachCall Net.afterCall
  rw [h]
  dsimp only
  rw [Net.setIncident_eq h, Incident.attach_eq_withCall]
  split <;> rfl

/-- R91: the answer shows the record of the slot. -/
theorem Net.callAnswer_eq (h : slotRecord n.incidents i = some x) (c : AnswerCode) (time : Time) :
    n.callAnswer c i time = .withBody c (callBody i (slotRef n.incidents i).serial x time) := by
  unfold Net.callAnswer
  rw [h]

theorem Net.attachAndAnswer_eq (h : slotRecord n.incidents i = some x) (c : AnswerCode) :
    n.attachAndAnswer c i e =
      (n.afterCall i x (x.withCall n.params e),
        .withBody c (callBody i (slotRef n.incidents i).serial (x.withCall n.params e) e.time)) := by
  have written : slotRecord (n.afterCall i x (x.withCall n.params e)).incidents i = some (x.withCall n.params e) := slotRecord_putRecord h _
  unfold Net.attachAndAnswer
  rw [Net.attachCall_eq h]
  dsimp only
  rw [Net.callAnswer_eq written, show (n.afterCall i x (x.withCall n.params e)).incidents = putRecord n.incidents i _ from rfl,
    slotRef_putRecord]

end

/-! ## A record made by a call (R83, R86, R88) -/

section
variable {n : Net} {b : CallBody} {k : CallKind} {cls j : Nat} {x y : Incident}

theorem Net.slotRecord_afterNewCall (hj : LowestFree n.incidents j) (x : Incident) (cls : Nat) :
    slotRecord (n.afterNewCall j x cls).incidents j = some x := slotRecord_fillSlot hj.lt_length x

theorem Net.slotRef_afterNewCall (hj : LowestFree n.incidents j) (x : Incident) (cls : Nat) :
    slotRef (n.afterNewCall j x cls).incidents j = { slot := j, serial := (slotRef n.incidents j).serial + 1 } :=
  slotRef_fillSlot hj.lt_length x

/-- R83: the record made in the lowest FREE slot, marked by its class. -/
theorem Net.makeIncident_eq (hj : LowestFree n.incidents j) (kind : IncidentKind) (cls : Nat) (b : CallBody) :
    n.makeIncident kind cls b.zone.toNat b.gridX.toNat b.gridY.toNat = some (n.afterNewCall j (madeByCall n kind cls [] b) cls, j) := by
  unfold Net.makeIncident Net.openIncident
  rw [freeSlot_of_lowestFree hj]
  rfl

theorem Net.makeIncident_full (hfull : ∀ sl ∈ n.incidents, sl.state ≠ .free) (kind : IncidentKind) (cls zone gridX gridY : Nat) :
    n.makeIncident kind cls zone gridX gridY = none := by
  unfold Net.makeIncident Net.openIncident
  rw [freeSlot_of_none_free hfull]
  rfl

/-- A new record written again before its event ends. -/
theorem Net.setIncident_afterNewCall (hj : LowestFree n.incidents j) (x : Incident) (cls : Nat) (f : Incident → Incident) :
    (n.afterNewCall j x cls).setIncident j f = n.afterNewCall j (f x) cls := by
  rw [Net.setIncident_eq (Net.slotRecord_afterNewCall hj x cls)]
  unfold Net.afterNewCall
  rw [putRecord_fillSlot]

/-- R89: a call that leaves the class of a new record adds nothing to its mark. -/
theorem Net.afterCall_afterNewCall (n : Net) (j cls : Nat) (hcls : y.cls = x.cls) :
    (n.afterNewCall j x cls).afterCall j x y = n.afterNewCall j y cls := by
  have kept : ¬ (x.cls ≠ 1 ∧ y.cls = 1) := fun ⟨hne, heq⟩ => hne (hcls ▸ heq)
  unfold Net.afterCall Net.afterNewCall
  rw [if_neg kept, putRecord_fillSlot, Marks.add_ordinary_after]

/-- R86, R88: a call that makes a record, attached to it. -/
theorem Net.newForCall_eq (hj : LowestFree n.incidents j) (hcls : cls ≤ k.cls) (he : cls = 1 ∨ 2 ≤ n.params.escalation)
    (kind : IncidentKind) (points : List Nat) :
    let y := (madeByCall n kind cls points b).withCall n.params (callEntry n b k)
    n.newForCall kind cls b.zone.toNat points (callEntry n b k) =
      (n.afterNewCall j y cls, .withBody .new (callBody j ((slotRef n.incidents j).serial + 1) y n.now)) := by
  intro y
  have classKept : y.cls = (madeByCall n kind cls points b).cls := Incident.withCall_first rfl rfl hcls he
  unfold Net.newForCall
  rw [show n.makeIncident kind cls b.zone.toNat (callEntry n b k).gridX (callEntry n b k).gridY = _ from Net.makeIncident_eq hj kind cls b]
  dsimp only
  rw [Net.setIncident_afterNewCall hj, Net.attachAndAnswer_eq (Net.slotRecord_afterNewCall hj _ _), Net.slotRef_afterNewCall hj]
  exact congrArg (·, _) (Net.afterCall_afterNewCall n j cls classKept)

theorem Net.newForCall_full (hfull : ∀ sl ∈ n.incidents, sl.state ≠ .free) (kind : IncidentKind) (cls zone : Nat) (points : List Nat)
    (e : CallEntry) : n.newForCall kind cls zone points e = (n, .plain .noRoom) := by
  unfold Net.newForCall
  rw [Net.makeIncident_full hfull]

end

/-! ## The incident a call finds (R85, R88) -/

section
variable {n : Net} {b : CallBody} {k : CallKind} {j : Nat} {x : Incident}

theorem Net.incidentIn.slotRecord (h : n.incidentIn j x) : slotRecord n.incidents j = some x := by
  obtain ⟨sl, hsl, -, hx⟩ := h
  exact slotRecord_eq_some_iff.2 ⟨sl, hsl, hx⟩

/-- The slots among which a search by a test chooses. -/
theorem Net.mem_incidentsWhere (n : Net) (p : Incident → Bool) (j : Nat) :
    j ∈ n.incidentsWhere p ↔ ∃ x, n.incidentIn j x ∧ p x = true := by
  unfold Net.incidentsWhere Net.incidentIn
  rw [Net.mem_idsWhere]
  constructor
  · rintro ⟨sl, hsl, htest⟩
    obtain ⟨huse, hrecord⟩ := Bool.and_eq_true_iff.1 htest
    obtain ⟨x, hx, hp⟩ := (Option.any_eq_true _ _).1 hrecord
    exact ⟨x, ⟨sl, hsl, of_decide_eq_true huse, hx⟩, hp⟩
  · rintro ⟨x, ⟨sl, hsl, huse, hx⟩, hp⟩
    exact ⟨sl, hsl, by simp [huse, hx, hp]⟩

/-- R85, R88: the search finds the latest of the incidents that pass its test. -/
theorem Net.latestBy_of_latest {key : Incident → Time} {p : Incident → Bool}
    (h : Latest key (fun i y => n.incidentIn i y ∧ p y = true) j x) : n.latestBy key (n.incidentsWhere p) = some j := by
  obtain ⟨⟨hx, hp⟩, hmax⟩ := h
  have keyAt {i : Nat} {y : Incident} (hy : n.incidentIn i y) : n.keyAt key i = key y := by
    unfold Net.keyAt
    rw [hy.slotRecord]
    rfl
  have hj := (n.mem_incidentsWhere p j).2 ⟨x, hx, hp⟩
  obtain ⟨i, hi, hlatest, himax⟩ := n.latestBy_spec key _ (idsWhere_pairwise _ _) (List.ne_nil_of_mem hj)
  obtain ⟨y, hy⟩ := (n.mem_incidentsWhere p i).1 hi
  have hji := himax j hj
  have hij : n.keyAt key i < n.keyAt key j ∨ n.keyAt key i = n.keyAt key j ∧ j ≤ i := by
    rw [keyAt hx, keyAt hy.1]
    exact hmax i y hy
  have same : i = j := by omega
  exact same ▸ hlatest

theorem Net.latestBy_of_none {key : Incident → Time} {p : Incident → Bool} (h : ∀ i y, ¬ (n.incidentIn i y ∧ p y = true)) :
    n.latestBy key (n.incidentsWhere p) = none := by
  have empty : n.incidentsWhere p = [] := List.eq_nil_iff_forall_not_mem.2 fun i hi =>
    have ⟨y, hy⟩ := (n.mem_incidentsWhere p i).1 hi
    h i y hy
  rw [empty]
  rfl

/-- R85: the candidates of a call, as the incident unit tests them. -/
theorem Net.callCandidate_iff (n : Net) (b : CallBody) (i : Nat) (y : Incident) :
    n.CallCandidate b i y ↔
      n.incidentIn i y ∧ y.candidate n.params b.zone.toNat b.gridX.toNat b.gridY.toNat n.now = true := by
  unfold Net.CallCandidate Incident.candidate
  simp only [Bool.and_eq_true, decide_eq_true_eq, Option.any_eq_true, and_assoc]

theorem Net.callCandidate_eq (n : Net) (b : CallBody) :
    n.CallCandidate b =
      fun i y => n.incidentIn i y ∧ y.candidate n.params b.zone.toNat b.gridX.toNat b.gridY.toNat n.now = true :=
  funext₂ fun i y => propext (n.callCandidate_iff b i y)

/-! ## Escape-group calls (R85, R86) -/

/-- R85: an escape-group call attaches to the latest candidate. -/
theorem Net.escapeCall_attached (h : Latest (fun x => x.lastCall.getD 0) (n.CallCandidate b) j x) :
    n.escapeCall b.zone.toNat (callEntry n b k) = n.attachAndAnswer .attached j (callEntry n b k) := by
  rw [Net.callCandidate_eq] at h
  have found := Net.latestBy_of_latest h
  unfold Net.escapeCall callEntry
  dsimp only
  rw [found]

/-- R86: without a candidate it asks for a record. -/
theorem Net.escapeCall_new (h : ∀ j x, ¬ n.CallCandidate b j x) :
    n.escapeCall b.zone.toNat (callEntry n b k) =
      n.newForCall (if k = .damage then .damage else .escape) k.cls b.zone.toNat [] (callEntry n b k) := by
  rw [Net.callCandidate_eq] at h
  have found := Net.latestBy_of_none (key := fun x => x.lastCall.getD 0) h
  unfold Net.escapeCall callEntry
  dsimp only
  rw [found]

/-! ## Supply-group calls without an outage (R88) -/

variable {z : Zone} {e : CallEntry} {zone : Nat}

theorem Net.unlinkedSupplyCall_attached (h : Latest Incident.opened (n.PressureLowOpen zone) j x) :
    n.unlinkedSupplyCall zone z e = n.attachAndAnswer .attached j e := by
  unfold Net.unlinkedSupplyCall
  rw [Net.openPressure_of_latest h]

theorem Net.unlinkedSupplyCall_pressure {q : Nat} {rest : List Nat} (h : ∀ j x, ¬ n.PressureLowOpen zone j x)
    (hlow : n.lowPoints z = q :: rest) : n.unlinkedSupplyCall zone z e = n.newForCall .pressureLow 2 zone [q] e := by
  unfold Net.unlinkedSupplyCall
  rw [Net.openPressure_of_none h, hlow]

theorem Net.unlinkedSupplyCall_loss (h : ∀ j x, ¬ n.PressureLowOpen zone j x) (hlow : n.lowPoints z = []) :
    n.unlinkedSupplyCall zone z e = n.newForCall .supplyLoss 3 zone [] e := by
  unfold Net.unlinkedSupplyCall
  rw [Net.openPressure_of_none h, hlow]

theorem Net.unlinkedSupplyCall_full (h : ∀ j x, ¬ n.PressureLowOpen zone j x) (hfull : ∀ sl ∈ n.incidents, sl.state ≠ .free) :
    n.unlinkedSupplyCall zone z e = (n, .plain .noRoom) := by
  cases hlow : n.lowPoints z with
  | nil => rw [Net.unlinkedSupplyCall_loss h hlow, Net.newForCall_full hfull]
  | cons q rest => rw [Net.unlinkedSupplyCall_pressure h hlow, Net.newForCall_full hfull]

/-! ## Supply-group calls under an outage (R87) -/

variable {r q : Ref} {o : Outage} {y : Incident}

theorem Net.outageCall_attached (ho : findRecord n.outages r = some o) (hlink : o.incident = some q)
    (hx : findRecord n.incidents q = some x) : n.outageCall zone r e = n.attachAndAnswer .attachedOutage q.slot e := by
  unfold Net.outageCall
  rw [ho, Option.bind_some, hlink]
  exact if_pos (by rw [hx]; rfl)

theorem Net.outageCall_repair (ho : findRecord n.outages r = some o) (hlink : o.incident = none) :
    n.outageCall zone r e = n.repairOutageLink zone r e := by
  unfold Net.outageCall
  rw [ho, Option.bind_some, hlink]

/-- R102: an incident just made is linked with its outage under the mark it has. -/
theorem Net.linkOutage_afterNewCall (hj : LowestFree n.incidents j) (y : Incident) (cls : Nat) (r : Ref) :
    (n.afterNewCall j y cls).linkOutage j r = n.afterNewCall j { y with outage := some r } cls := by
  unfold Net.linkOutage
  rw [Net.updateIncident_eq (Net.slotRecord_afterNewCall hj y cls)]
  unfold Net.afterNewCall
  rw [putRecord_fillSlot, Marks.add_ordinary_after, ite_self]

/-- R144, R146: an outage that named no incident names one, and is marked. -/
theorem Net.nameIncident_eq (ho : findRecord n.outages r = some o) (hlink : o.incident = none) (q : Ref) :
    n.updateOutage r.slot (fun o => { o with incident := some q }) =
      { n with
        outages := putRecord n.outages r.slot { o with incident := some q }
        marks := n.marks.add .ordinary (.outage r.slot) } := by
  have hrecord := (heldRecord_of_findRecord ho).2
  have changed : ({ o with incident := some q } : Outage).reported ≠ o.reported := by simp [Outage.reported, hlink]
  unfold Net.updateOutage Net.setOutage
  rw [modify_update_of_slotRecord hrecord, hrecord, Option.any_some, decide_eq_true changed]
  rfl

/-- R87, R102, R144: the record made under an outage that names none, linked both ways. -/
theorem Net.repairOutageLink_eq (hj : LowestFree n.incidents j) (ho : findRecord n.outages r = some o) (hlink : o.incident = none)
    (hcls : 1 ≤ k.cls) :
    let y := { (madeByCall n .supplyLoss 1 [] b).withCall n.params (callEntry n b k) with outage := some r }
    n.repairOutageLink b.zone.toNat r (callEntry n b k) =
      (n.afterRepair j y r o, .withBody .new (callBody j ((slotRef n.incidents j).serial + 1) y n.now)) := by
  intro y
  have classKept : ((madeByCall n .supplyLoss 1 [] b).withCall n.params (callEntry n b k)).cls = (madeByCall n .supplyLoss 1 [] b).cls :=
    Incident.withCall_first rfl rfl hcls (Or.inl rfl)
  have named : (n.afterNewCall j y 1).updateOutage r.slot
      (fun o => { o with incident := some { slot := j, serial := (slotRef n.incidents j).serial + 1 } }) = n.afterRepair j y r o :=
    Net.nameIncident_eq (n := n.afterNewCall j y 1) ho hlink _
  have hrecord : slotRecord (n.afterRepair j y r o).incidents j = some y := Net.slotRecord_afterNewCall hj y 1
  have hserial : slotRef (n.afterRepair j y r o).incidents j = _ := Net.slotRef_afterNewCall hj y 1
  unfold Net.repairOutageLink
  rw [show n.makeIncident .supplyLoss 1 b.zone.toNat (callEntry n b k).gridX (callEntry n b k).gridY = _ from
    Net.makeIncident_eq hj .supplyLoss 1 b]
  dsimp only
  rw [Net.attachCall_eq (Net.slotRecord_afterNewCall hj _ _), show (n.afterNewCall j _ 1).params = n.params from rfl,
    Net.afterCall_afterNewCall n j 1 classKept, Net.linkOutage_afterNewCall hj, Net.slotRef_afterNewCall hj, named,
    Net.callAnswer_eq hrecord, hserial]
  rfl

theorem Net.repairOutageLink_full (hfull : ∀ sl ∈ n.incidents, sl.state ≠ .free) :
    n.repairOutageLink zone r e = (n, .plain .noRoom) := by
  unfold Net.repairOutageLink
  rw [Net.makeIncident_full hfull]

end

/-- Settles O17: a call by its form and its zone; each action by its class and the incident it finds. -/
theorem callsAndActsAreChecked : Obligations.CallsAndActsAreChecked := by
  unfold Obligations.CallsAndActsAreChecked
  refine ⟨fun s i p b h => ⟨fun hbad => ?_, fun hk hx hy hz => ?_⟩,
    fun s i p b cls c o hposted hc h => ⟨fun hreclass hcls => ?_, fun hcls => ?_⟩⟩
  · exact State.serves_call h (Net.takeCall_badForm hbad _) (Nat.zero_le _)
  · obtain ⟨k, hk⟩ := Option.ne_none_iff_exists'.1 hk
    exact State.serves_call h (Net.takeCall_absent hk hx hy hz) (Nat.zero_le _)
  · subst hreclass
    cases hposted
    exact State.serves_act h (Net.takeAct_noClass hcls _ b) (Nat.zero_le _)
  · rcases hc with rfl | rfl | rfl | rfl | rfl <;> cases hposted
    · exact State.act_unmet h (s.net.takeAct_attend b)
    · exact State.act_unmet h (s.net.takeAct_safe b)
    · exact State.act_unmet h (s.net.takeAct_close b)
    · exact State.act_unmet h (s.net.takeAct_ack b)
    · exact State.act_unmet h (s.net.takeAct_reclass (hcls rfl) b)

/-- Settles O18: by whether there is a candidate, and then a FREE slot. -/
theorem escapeCallAttachesOrOpens : Obligations.EscapeCallAttachesOrOpens := by
  unfold Obligations.EscapeCallAttachesOrOpens
  intro s i p b k z h hgood hgroup hescalation
  have routed := Net.takeCall_escape hgood (k.escapeGroup_iff.2 hgroup)
  refine ⟨fun j x hlatest => ?_, fun hnone j hj => ?_, fun hnone hfull => ?_⟩
  · rw [Net.escapeCall_attached hlatest, Net.attachAndAnswer_eq hlatest.1.1.slotRecord] at routed
    exact State.serves_callBody h routed
  · rw [Net.escapeCall_new hnone, Net.newForCall_eq hj le_rfl (Or.inr hescalation)] at routed
    exact State.serves_callBody h routed
  · rw [Net.escapeCall_new hnone, Net.newForCall_full hfull] at routed
    exact State.serves_call h routed (Nat.zero_le _)

/-- Settles O19: by the zone's outage link; without one, by the incident and the points found; under one, by the incident it names; and by
whether a slot is FREE. -/
theorem supplyCallAttachesOrOpens : Obligations.SupplyCallAttachesOrOpens := by
  unfold Obligations.SupplyCallAttachesOrOpens
  refine ⟨fun s i p b k z h hgood hsupply hlink hescalation => ?_, fun s i p b k z r q o x h hgood hsupply hlink ho hq hx => ?_,
    fun s i p b k z r o h hgood hsupply hlink ho hq => ?_⟩ <;>
    obtain ⟨hgroup, hcls⟩ := CallKind.supplyGroup hsupply
  · have routed := Net.takeCall_unlinked hgood hgroup hlink
    refine ⟨fun j x hlatest => ?_, fun hnone j hj => ⟨fun q rest hlow => ?_, fun hlow => ?_⟩, fun hnone hfull => ?_⟩
    · rw [Net.unlinkedSupplyCall_attached hlatest, Net.attachAndAnswer_eq hlatest.1.1.slotRecord] at routed
      exact State.serves_callBody h routed
    · rw [Net.unlinkedSupplyCall_pressure hnone hlow, Net.newForCall_eq hj (by rw [hcls]; decide) (Or.inr hescalation)] at routed
      exact State.serves_callBody h routed
    · rw [Net.unlinkedSupplyCall_loss hnone hlow, Net.newForCall_eq hj hcls.ge (Or.inr hescalation)] at routed
      exact State.serves_callBody h routed
    · rw [Net.unlinkedSupplyCall_full hnone hfull] at routed
      exact State.serves_call h routed (Nat.zero_le _)
  · have routed := Net.takeCall_outage hgood hgroup hlink
    rw [Net.outageCall_attached ho hq hx, Net.attachAndAnswer_eq (heldRecord_of_findRecord hx).2, slotRef_of_findRecord hx] at routed
    exact State.serves_callBody h routed
  · have routed := Net.takeCall_outage hgood hgroup hlink
    rw [Net.outageCall_repair ho hq] at routed
    refine ⟨fun j hj => ?_, fun hfull => ?_⟩
    · rw [Net.repairOutageLink_eq hj ho hq (by rw [hcls]; decide)] at routed
      exact State.serves_callBody h routed
    · rw [Net.repairOutageLink_full hfull] at routed
      exact State.serves_call h routed (Nat.zero_le _)

end Sys2Proof.Machine
end

section
/-! PLAN intake (R110, R111): the checks of a PLAN in their order, and the plan and reservation it leaves when it passes them. -/

namespace Sys2Proof.Machine

/-! ## The entries of an order (R110, checks 1 to 4) -/

section
variable {b : PlanBody} {n : Net} {k : Nat}

/-- R108: the entry the plan engine keeps is the one ordered. -/
theorem entryOf_eq (e : EntryBody) : entryOf e = orderedEntry e := by
  have holds (h : Byte) : decide (h ≠ 0) = decide (h.toNat ≠ 0) := by
    simp [BitVec.toNat_eq]
  unfold entryOf orderedEntry Quad.toList
  simp only [holds]

theorem checkingPlan_eq (b : PlanBody) (folio : Nat) : checkingPlan b folio = orderedPlan b folio := by
  unfold checkingPlan orderedPlan
  rw [show entryOf = orderedEntry from funext entryOf_eq]
  rfl

theorem entryFormOk_iff (e : EntryBody) : entryFormOk e = true ↔ EntryBody.formGood e := by
  unfold entryFormOk EntryBody.formGood
  rw [entryOf_eq]
  simp only [Bool.and_eq_true, List.all_eq_true, decide_eq_true_eq, and_assoc]
  rfl

theorem Net.presentTest_iff (n : Net) (e : EntryBody) : decide (e.valve.toNat < n.valves.length) = true ↔ n.valvePresent e :=
  decide_eq_true_iff

theorem Net.unclaimedTest_iff (n : Net) (e : EntryBody) :
    (n.valves[e.valve.toNat]?).all (fun x => x.claim.isNone) = true ↔ n.valveUnclaimed e := by
  unfold Net.valveUnclaimed
  simp [Option.all_eq_true]

theorem Net.lineMaster_iff (n : Net) (e : EntryBody) : n.lineMaster e.valve.toNat = true ↔ n.valveMaster e := by
  unfold Net.lineMaster Net.valveMaster
  simp [Option.all_eq_true]

/-- R110: an answer numbers the first entry at fault from 1. -/
theorem firstFault_of_firstBad {P : EntryBody → Prop} {ok : EntryBody → Bool} (hok : ∀ e, ok e = true ↔ P e) {es : List EntryBody}
    (h : FirstBad P es k) : firstFault es ok = some (k + 1) := by
  obtain ⟨⟨e, he, hbad⟩, hbefore⟩ := h
  obtain ⟨hlt, rfl⟩ := List.getElem?_eq_some_iff.1 he
  have hfind : es.findIdx? (fun e => !ok e) = some k := by
    refine List.findIdx?_eq_some_iff_getElem.2 ⟨hlt, by simpa [← hok] using hbad, fun j hj => ?_⟩
    simpa [← hok] using hbefore j _ hj (List.getElem?_eq_getElem (hj.trans hlt))
  rw [firstFault, hfind, Option.map_some]

theorem firstFault_of_all {P : EntryBody → Prop} {ok : EntryBody → Bool} (hok : ∀ e, ok e = true ↔ P e) {es : List EntryBody}
    (h : ∀ e ∈ es, P e) : firstFault es ok = none := by
  have hfind : es.findIdx? (fun e => !ok e) = none := List.findIdx?_eq_none_iff.2 fun e he => by simpa [← hok] using h e he
  rw [firstFault, hfind, Option.map_none]

/-- R110 check 1: an entry count from 1 to 8. -/
def countGood (b : PlanBody) : Prop := 1 ≤ b.entryCount.toNat ∧ b.entryCount.toNat ≤ 8

theorem countGood_iff (b : PlanBody) : ¬ (b.entryCount = 0 ∨ Config.entryMax < b.entryCount.toNat) ↔ countGood b := by
  have hzero : b.entryCount = 0 ↔ b.entryCount.toNat = 0 := by simp [BitVec.toNat_eq]
  unfold countGood
  rw [hzero, show Config.entryMax = 8 from rfl]
  omega

theorem Net.planFault_count (h : ¬ countGood b) : n.planFault b = some (.badForm, 0) := if_pos (not_not.1 (mt (countGood_iff b).1 h))

/-- R110: the four checks of an order whose entry count is good, each made where those before it pass. -/
theorem Net.planFault_counted (h : countGood b) :
    n.planFault b =
      (((((firstFault b.entries entryFormOk).map (Prod.mk AnswerCode.badForm)).or
        ((firstFault b.entries (fun e => decide (e.valve.toNat < n.valves.length))).map (Prod.mk .noSuch))).or
        ((firstFault b.entries (fun e => (n.valves[e.valve.toNat]?).all (fun x => x.claim.isNone))).map (Prod.mk .claimed))).or
        ((firstFault b.entries (fun e => n.lineMaster e.valve.toNat)).map (Prod.mk .notMaster))) := by
  unfold Net.planFault
  rw [if_neg ((countGood_iff b).2 h)]
  cases firstFault b.entries entryFormOk with
  | some e => rfl
  | none =>
    cases firstFault b.entries (fun e => decide (e.valve.toNat < n.valves.length)) with
    | some e => rfl
    | none => cases firstFault b.entries (fun e => (n.valves[e.valve.toNat]?).all (fun x => x.claim.isNone)) <;> rfl

/-- R110: a fault with an entry is answered with its number. -/
theorem Net.takePlan_fault {c : AnswerCode} {folio : Nat} (h : n.planFault b = some (c, k + 1)) :
    n.takePlan b folio = (n, .answered (.withBody c (out 1 (k + 1)))) := by
  unfold Net.takePlan
  rw [h]
  rfl

theorem Net.takePlan_count {folio : Nat} (h : ¬ countGood b) : n.takePlan b folio = (n, .answered (.plain .badForm)) := by
  unfold Net.takePlan
  rw [Net.planFault_count h]
  rfl

/-- R110: an order whose entries pass all four checks. -/
structure Net.EntriesPass (n : Net) (b : PlanBody) : Prop where
  counted : countGood b
  form : ∀ e ∈ b.entries, EntryBody.formGood e
  present : ∀ e ∈ b.entries, n.valvePresent e
  unclaimed : ∀ e ∈ b.entries, n.valveUnclaimed e
  master : ∀ e ∈ b.entries, n.valveMaster e

theorem Net.takePlan_passing {folio : Nat} (h : n.EntriesPass b) : n.takePlan b folio = n.admitPlan b folio := by
  have hfault : n.planFault b = none := by
    rw [Net.planFault_counted h.counted, firstFault_of_all entryFormOk_iff h.form, firstFault_of_all n.presentTest_iff h.present,
      firstFault_of_all n.unclaimedTest_iff h.unclaimed, firstFault_of_all n.lineMaster_iff h.master]
    rfl
  unfold Net.takePlan
  rw [hfault]

end

/-! ## Slot and incident (R110, checks 5 and 6) -/

section
variable {b : PlanBody} {n : Net} {folio : Nat} {x : Incident}

/-- R100: an incident that is found, by its state and its links. -/
theorem Net.placeFor_found {r : Ref} (h : findRecord n.incidents r = some x) :
    n.placeFor r = if x.state = .closed then .closed else if 4 ≤ x.plans.length + x.reservations then .full else .reserved := by
  unfold Net.placeFor
  rw [h]
  rfl

theorem Net.placeFor_unknown {r : Ref} (h : findRecord n.incidents r = none) : n.placeFor r = .unknown := by
  unfold Net.placeFor
  rw [h]

theorem Net.admitPlan_full (h : ∀ sl ∈ n.plans, sl.state ≠ .free) : n.admitPlan b folio = (n, .answered (.plain .noRoom)) := by
  unfold Net.admitPlan
  rw [freeSlot_of_none_free h]

/-- R110 check 6: with a FREE slot, the incident decides. -/
theorem Net.admitPlan_refused (h : ∃ sl ∈ n.plans, sl.state = .free) {c : AnswerCode}
    (hplace : n.placeFor (refOf b.slot.toNat b.serial) = .unknown ∧ c = .noSuch ∨
      n.placeFor (refOf b.slot.toNat b.serial) = .closed ∧ c = .badState ∨
      n.placeFor (refOf b.slot.toNat b.serial) = .full ∧ c = .noRoom) :
    n.admitPlan b folio = (n, .answered (.plain c)) := by
  obtain ⟨i, hi⟩ : ∃ i, freeSlot n.plans = some i := by
    cases hfree : freeSlot n.plans with
    | some i => exact ⟨i, rfl⟩
    | none =>
      obtain ⟨sl, hsl, hstate⟩ := h
      simpa [hstate] using List.findIdx?_eq_none_iff.1 hfree sl hsl
  unfold Net.admitPlan
  rw [hi]
  rcases hplace with ⟨hplace, rfl⟩ | ⟨hplace, rfl⟩ | ⟨hplace, rfl⟩ <;> rw [hplace]

/-- R111: the net with the ordered plan in CHECKING and its reservation. -/
def Net.planMade (n : Net) (b : PlanBody) (j folio : Nat) (x : Incident) : Net :=
  { n with
    plans := fillSlot n.plans j (orderedPlan b folio)
    incidents := putRecord n.incidents b.slot.toNat { x with reservations := x.reservations + 1 } }

theorem Net.admitPlan_passing {j : Nat} (hj : LowestFree n.plans j) (hx : n.mayPlan b x) :
    n.admitPlan b folio =
      (n.planMade b j folio x).offerPlan { slot := j, serial := (slotRef n.plans j).serial + 1 } folio := by
  obtain ⟨hfound, hopen, hroom⟩ := hx
  obtain ⟨sl, hsl, -, -, hrecord⟩ := slotRecord_of_findRecord hfound
  have hplace : n.placeFor (refOf b.slot.toNat b.serial) = .reserved :=
    (Net.placeFor_found hfound).trans ((if_neg hopen).trans (if_neg (Nat.not_le.2 hroom)))
  have hmade : { n with plans := n.plans.modify j (fun sl => sl.take (checkingPlan b folio)) }.reserve (refOf b.slot.toNat b.serial) =
      n.planMade b j folio x := by
    rw [checkingPlan_eq]
    unfold Net.reserve Net.setIncident Net.planMade
    rw [show (refOf b.slot.toNat b.serial).slot = b.slot.toNat from rfl]
    dsimp only
    rw [modify_update_eq_putRecord _ hsl hrecord]
    rfl
  have href : slotRef (n.planMade b j folio x).plans j = { slot := j, serial := (slotRef n.plans j).serial + 1 } := by
    obtain ⟨sl, hsl, -⟩ := hj.1
    unfold slotRef Net.planMade fillSlot refOf
    rw [List.getElem?_modify, hsl]
    simp
  unfold Net.admitPlan
  rw [freeSlot_of_lowestFree hj]
  dsimp only
  rw [hplace]
  dsimp only
  rw [hmade, href]

end

/-! ## The order's event -/

section
variable {s : State} {i : Nat} {p : Post} {o : Order} {b : PlanBody} {n : Net} {r : OrderResult} {a : Answer}

/-- An owner's result, as the state in which it gets the order shows it. -/
theorem onNetResult_begun {f : Net → Net × OrderResult} (h : f s.net = (n, r)) :
    onNetResult f (s.begun i p o) = ({ s.begun i p o with net := n }, r) := by
  unfold onNetResult
  rw [show (s.begun i p o).net = s.net from rfl, h]

/-- R110: a PLAN answered at once changes nothing. -/
theorem State.refuses_plan (h : s.ready i p (.plan b) = true) (htake : s.net.takePlan b i = (s.net, .answered a))
    (hlen : a.body.length ≤ 240) : ∃ t, exec (.plan p b) s = .next t ∧ s.Refuses t i p (.plan b) a :=
  State.serves_answered h nofun (onNetResult_begun htake) hlen

/-- R110: a PLAN at fault is answered with its first entry at fault. -/
theorem State.refuses_planFault (h : s.ready i p (.plan b) = true) {c : AnswerCode} {k : Nat}
    (hfault : s.net.planFault b = some (c, k + 1)) :
    ∃ t, exec (.plan p b) s = .next t ∧ s.Refuses t i p (.plan b) (.withBody c (out 1 (k + 1))) :=
  State.refuses_plan h (Net.takePlan_fault hfault) (by rw [show (Answer.withBody c (out 1 (k + 1))).body.length = 1 from rfl]; decide)

end

/-- Settles O24: each check in its turn, those before it passed; then the slot, and the incident. -/
theorem planRefusedAtFirstFault : Obligations.PlanRefusedAtFirstFault := by
  unfold Obligations.PlanRefusedAtFirstFault
  intro s i p b hready _ refused count form present unclaimed master
  have noForm (h : form) := firstFault_of_all entryFormOk_iff h.2
  have noAbsent (h : present) := firstFault_of_all s.net.presentTest_iff h.2
  have noClaim (h : unclaimed) := firstFault_of_all s.net.unclaimedTest_iff h.2
  have passing (h : master) : s.net.EntriesPass b := ⟨h.1.1.1.1, h.1.1.1.2, h.1.1.2, h.1.2, h.2⟩
  have incident (h : master) (hfree : ∃ sl ∈ s.net.plans, sl.state = .free) {c : AnswerCode} hplace : refused (.plain c) :=
    State.refuses_plan hready ((Net.takePlan_passing (passing h)).trans (Net.admitPlan_refused hfree hplace)) (Nat.zero_le _)
  refine ⟨fun h => ?_, fun k h hbad => State.refuses_planFault hready ?_, fun k h hbad => State.refuses_planFault hready ?_,
    fun k h hbad => State.refuses_planFault hready ?_, fun k h hbad => State.refuses_planFault hready ?_, fun h hfull => ?_,
    fun h hfree => ⟨fun hnone => ?_, fun x hx => ⟨fun hclosed => ?_, fun hopen hlinks => ?_⟩⟩⟩
  · exact State.refuses_plan hready (Net.takePlan_count h) (Nat.zero_le _)
  · rw [Net.planFault_counted h, firstFault_of_firstBad entryFormOk_iff hbad]
    rfl
  · rw [Net.planFault_counted h.1, noForm h, firstFault_of_firstBad s.net.presentTest_iff hbad]
    rfl
  · rw [Net.planFault_counted h.1.1, noForm h.1, noAbsent h, firstFault_of_firstBad s.net.unclaimedTest_iff hbad]
    rfl
  · rw [Net.planFault_counted h.1.1.1, noForm h.1.1, noAbsent h.1, noClaim h, firstFault_of_firstBad s.net.lineMaster_iff hbad]
    rfl
  · exact State.refuses_plan hready ((Net.takePlan_passing (passing h)).trans (Net.admitPlan_full hfull)) (Nat.zero_le _)
  · exact incident h hfree (Or.inl ⟨Net.placeFor_unknown hnone, rfl⟩)
  · exact incident h hfree (Or.inr (Or.inl ⟨(Net.placeFor_found hx).trans (if_pos hclosed), rfl⟩))
  · exact incident h hfree (Or.inr (Or.inr ⟨(Net.placeFor_found hx).trans ((if_neg hopen).trans (if_pos hlinks)), rfl⟩))

/-- Settles O23: the plan made, then its trial queued or, with four queued, the order stalled. -/
theorem planIntakeQueuesATrial : Obligations.PlanIntakeQueuesATrial := by
  unfold Obligations.PlanIntakeQueuesATrial
  intro s i j p b x hready _ hmin hmax hgood hj hx n
  have pass : s.net.EntriesPass b := ⟨⟨hmin, hmax⟩, fun e he => (hgood e he).1, fun e he => (hgood e he).2.1,
    fun e he => (hgood e he).2.2.1, fun e he => (hgood e he).2.2.2⟩
  have htake : s.net.takePlan b i = n.offerPlan { slot := j, serial := (slotRef s.net.plans j).serial + 1 } i :=
    (Net.takePlan_passing pass).trans (Net.admitPlan_passing hj hx)
  by_cases hroom : s.net.survey.queue.length < 4
  · rw [Net.offerPlan, Net.offerTrial_room (n := n) hroom] at htake
    have hrun : (s.begun i p (.plan b)).runOrder i (.plan b) = _ := onNetResult_begun htake
    obtain ⟨t, ht, took, hnet, htod, hunset⟩ := s.takeOrder_pending i p (.plan b) hready nofun (by rw [hrun])
    rw [hrun] at hnet htod hunset
    exact ⟨t, ht, fun _ => ⟨took, ⟨htod, hunset⟩, hnet⟩, fun hfull => absurd hroom (Nat.not_lt.2 hfull)⟩
  · rw [Net.offerPlan, Net.offerTrial_full (n := n) (Nat.not_lt.1 hroom)] at htake
    have hrun : (s.begun i p (.plan b)).runOrder i (.plan b) = _ := onNetResult_begun htake
    obtain ⟨t, ht, took, hnet, -, -⟩ := State.takeOrder_stalled hready nofun (congrArg Prod.snd hrun) (by rw [hrun])
    rw [hrun] at hnet
    refine ⟨t, ht, fun h => absurd h hroom, fun _ => ⟨hnet, ?_, ?_, ?_, took.turn⟩⟩ <;> rw [took.exch]

end Sys2Proof.Machine
end

section
/-! The plan engine as it writes one plan and one valve (R108, R109, R113, R114, R121): each operation as an equation of nets. -/

namespace Sys2Proof.Machine

/-! ## Marks taken twice (R167) -/

/-- A record on either list. -/
def Marks.Marked (m : Marks) (r : RecordName) : Prop := r ∈ m.urgent ∨ r ∈ m.ordinary

theorem Marks.add_of_marked {m : Marks} {r : RecordName} (h : m.Marked r) : m.add .ordinary r = m := if_pos h

theorem Marks.marked_add (m : Marks) (k : MarkKind) (r : RecordName) : (m.add k r).Marked r := by
  cases k with
  | urgent => exact Or.inl (m.mem_add_urgent r)
  | ordinary => exact m.mem_add_ordinary r

theorem Marks.Marked.add {m : Marks} {r : RecordName} (h : m.Marked r) (k : MarkKind) (r' : RecordName) : (m.add k r').Marked r :=
  (m.grows_add k r').marked r h

/-- The marks an event has taken of a valve and its plan, in that order. -/
def Marks.valvePlan (m : Marks) (v slot : Nat) : Marks := (m.add .ordinary (.valve v)).add .ordinary (.plan slot)

theorem Marks.valvePlan_valve (m : Marks) (v slot : Nat) : (m.valvePlan v slot).add .ordinary (.valve v) = m.valvePlan v slot :=
  Marks.add_of_marked ((m.marked_add _ _).add _ _)

theorem Marks.valvePlan_plan (m : Marks) (v slot : Nat) : (m.valvePlan v slot).add .ordinary (.plan slot) = m.valvePlan v slot :=
  Marks.add_of_marked (Marks.marked_add _ _ _)

/-! ## A valve and a plan written -/

/-- The net with the plan of a slot, one valve and the marks written. -/
def Net.writing (n : Net) (slot : Nat) (q : Plan) (v : Nat) (x : Valve) (ms : Marks) : Net :=
  { n with plans := putRecord n.plans slot q, valves := n.valves.set v x, marks := ms }

theorem Net.writing_writing (n : Net) (slot : Nat) (q q' : Plan) (v : Nat) (x x' : Valve) (ms ms' : Marks) :
    (n.writing slot q v x ms).writing slot q' v x' ms' = n.writing slot q' v x' ms' := by
  unfold Net.writing
  dsimp only
  rw [putRecord_putRecord, List.set_set]

section
variable {n : Net} {v : Nat} {x : Valve} {k : Ref} {q : Plan}

/-- R15: an update of a valve that changes a reported field marks it. -/
theorem Net.updateValve_changed (hx : n.valves[v]? = some x) {f : Valve → Valve} (hc : (f x).reported ≠ x.reported) :
    n.updateValve v f = { n with valves := n.valves.set v (f x), marks := n.marks.add .ordinary (.valve v) } := by
  unfold Net.updateValve Net.setValve
  rw [List.modify_eq_set_of_getElem? f hx, hx, Option.any_some, decide_eq_true hc]
  rfl

theorem Net.updateValve_same (hx : n.valves[v]? = some x) {f : Valve → Valve} (hc : (f x).reported = x.reported) :
    n.updateValve v f = { n with valves := n.valves.set v (f x) } := by
  unfold Net.updateValve Net.setValve
  rw [List.modify_eq_set_of_getElem? f hx, hx, Option.any_some, decide_eq_false (not_not.2 hc)]
  rfl

theorem Net.updateValveMarked_eq (hx : n.valves[v]? = some x) (f : Valve → Valve) :
    n.updateValveMarked v f = { n with valves := n.valves.set v (f x), marks := n.marks.add .ordinary (.valve v) } := by
  unfold Net.updateValveMarked Net.setValve
  rw [List.modify_eq_set_of_getElem? f hx]
  rfl

/-- R15: the step state is a reported field of a valve. -/
theorem Valve.reported_ne_of_stepState {x y : Valve} (h : y.stepState ≠ x.stepState) : y.reported ≠ x.reported :=
  mt (congrArg fun r => r.2.2.2) h

theorem Valve.stepState_of_staged {x : Valve} {s : Staged} (h : x.staged = some s) : x.stepState = .staged := by
  unfold Valve.stepState
  rw [h]

theorem Valve.stepState_of_unstaged {x : Valve} (h : x.staged = none) : x.stepState ≠ .staged := by
  unfold Valve.stepState
  rw [h]
  cases x.inFlight with
  | some f => cases hf : f.accepted <;> simp [hf]
  | none => cases x.dwellEnd <;> simp

/-- R15, R109: so an update that enters or drops a staged step changes a reported field. -/
theorem Valve.reported_ne_of_unstaged {x y : Valve} {s : Staged} (hx : x.staged = some s) (hy : y.staged = none) :
    y.reported ≠ x.reported :=
  Valve.reported_ne_of_stepState (by rw [Valve.stepState_of_staged hx]; exact Valve.stepState_of_unstaged hy)

/-- R129: an update of a plan that changes a reported field marks it, unless it leaves the plan in CHECKING. -/
theorem Net.updatePlan_eq {slot : Nat} (hq : slotRecord n.plans slot = some q) (f : Plan → Plan) :
    n.updatePlan slot f =
      { n with
        plans := putRecord n.plans slot (f q)
        marks := if (f q).reported ≠ q.reported ∧ (f q).state ≠ .checking then n.marks.add .ordinary (.plan slot) else n.marks } := by
  unfold Net.updatePlan Net.setPlan
  rw [modify_update_of_slotRecord hq, hq, Option.any_some]
  by_cases hc : (f q).reported ≠ q.reported ∧ (f q).state ≠ .checking
  · rw [if_pos hc, decide_eq_true hc]
    rfl
  · rw [if_neg hc, decide_eq_false hc]
    rfl

theorem Net.updatePlan_changed {slot : Nat} (hq : slotRecord n.plans slot = some q) {f : Plan → Plan} (hc : (f q).reported ≠ q.reported)
    (hs : (f q).state ≠ .checking) :
    n.updatePlan slot f = { n with plans := putRecord n.plans slot (f q), marks := n.marks.add .ordinary (.plan slot) } := by
  rw [Net.updatePlan_eq hq, if_pos ⟨hc, hs⟩]

/-- R129: state, running entry and block are reported fields of a plan. -/
theorem Plan.reported_ne_of_state {p q : Plan} (h : p.state ≠ q.state) : p.reported ≠ q.reported := mt (congrArg Prod.fst) h

/-- R129: so is the state and the current step of each entry. -/
theorem Plan.reported_ne_of_entry {p q : Plan} {e : Nat} {a b : PlanEntry} (ha : p.entries[e]? = some a) (hb : q.entries[e]? = some b)
    (h : (a.state, a.current) ≠ (b.state, b.current)) : p.reported ≠ q.reported := by
  intro same
  have hmap : p.entries.map (fun e => (e.state, e.current)) = q.entries.map (fun e => (e.state, e.current)) :=
    congrArg (fun r => r.2.2.1) same
  have hat := congrArg (·[e]?) hmap
  simp only [List.getElem?_map, ha, hb, Option.map_some, Option.some.injEq] at hat
  exact h hat

/-! ### The plan and the valve as they stand -/

theorem Net.RunningAt.stand {e : Nat} {ent : PlanEntry} (h : n.RunningAt k q e ent x) : n.Stands k ent.valve q x := ⟨h.plan, h.valve⟩

theorem slotRecord_eq_of_findRecord {α : Type} {slots : List (Slot α)} {r : Ref} {y : α} (h : findRecord slots r = some y) :
    slotRecord slots r.slot = some y := by
  obtain ⟨sl, hsl, -, -, hrecord⟩ := slotRecord_of_findRecord h
  exact slotRecord_eq_some_iff.2 ⟨sl, hsl, hrecord⟩

theorem Net.Stands.slotRecord (h : n.Stands k v q x) : slotRecord n.plans k.slot = some q := slotRecord_eq_of_findRecord h.plan

theorem Net.Stands.plans_self (h : n.Stands k v q x) : putRecord n.plans k.slot q = n.plans := putRecord_self h.slotRecord

theorem Net.Stands.valves_self (h : n.Stands k v q x) : n.valves.set v x = n.valves :=
  (List.modify_eq_set_of_getElem? id h.valve).symm.trans (List.modify_id v n.valves)

theorem Net.Stands.writing (h : n.Stands k v q x) (q' : Plan) (x' : Valve) (ms : Marks) :
    (n.writing k.slot q' v x' ms).Stands k v q' x' :=
  ⟨findRecord_putRecord h.plan q', List.getElem?_set_self (List.getElem?_eq_some_iff.1 h.valve).1⟩

theorem Net.Stands.updateValve_changed (h : n.Stands k v q x) {f : Valve → Valve} (hc : (f x).reported ≠ x.reported) :
    n.updateValve v f = n.writing k.slot q v (f x) (n.marks.add .ordinary (.valve v)) := by
  rw [Net.updateValve_changed h.valve hc, Net.writing, h.plans_self]

theorem Net.Stands.updateValve_same (h : n.Stands k v q x) {f : Valve → Valve} (hc : (f x).reported = x.reported) :
    n.updateValve v f = n.writing k.slot q v (f x) n.marks := by
  rw [Net.updateValve_same h.valve hc, Net.writing, h.plans_self]

theorem Net.Stands.updateValveMarked (h : n.Stands k v q x) (f : Valve → Valve) :
    n.updateValveMarked v f = n.writing k.slot q v (f x) (n.marks.add .ordinary (.valve v)) := by
  rw [Net.updateValveMarked_eq h.valve, Net.writing, h.plans_self]

theorem Net.Stands.updatePlan (h : n.Stands k v q x) (f : Plan → Plan) :
    n.updatePlan k.slot f = n.writing k.slot (f q) v x
      (if (f q).reported ≠ q.reported ∧ (f q).state ≠ .checking then n.marks.add .ordinary (.plan k.slot) else n.marks) := by
  rw [Net.updatePlan_eq h.slotRecord, Net.writing, h.valves_self]

theorem Net.Stands.updatePlan_changed (h : n.Stands k v q x) {f : Plan → Plan} (hc : (f q).reported ≠ q.reported)
    (hs : (f q).state ≠ .checking) : n.updatePlan k.slot f = n.writing k.slot (f q) v x (n.marks.add .ordinary (.plan k.slot)) := by
  rw [Net.updatePlan_changed h.slotRecord hc hs, Net.writing, h.valves_self]

/-- A plan marked in the event gains nothing by an update. -/
theorem Net.Stands.updatePlan_marked (h : n.Stands k v q x) (f : Plan → Plan) (hm : n.marks.Marked (.plan k.slot)) :
    n.updatePlan k.slot f = n.writing k.slot (f q) v x n.marks := by
  rw [h.updatePlan, Marks.add_of_marked hm, ite_self]

/-- A running entry written, with its plan and its valve, still runs. -/
theorem Net.RunningAt.writing {e e' : Nat} {ent ent' : PlanEntry} (h : n.RunningAt k q e ent x) {q' : Plan} {x' : Valve} (ms : Marks)
    (hr : q'.running = some e') (he : q'.entries[e']? = some ent') (hv : ent'.valve = ent.valve) (hc : x'.claim = some k) :
    (n.writing k.slot q' ent.valve x' ms).RunningAt k q' e' ent' x' :=
  ⟨(h.stand.writing q' x' ms).plan, hr, he, hv ▸ (h.stand.writing q' x' ms).valve, hc⟩

end

/-! ## The conditions of R114 over what is written -/

section
variable {a b : Net} {v st : Nat} {l : Fin 4} {x y : Valve}

/-- R2, R7: the line and station of a valve are read off its record and the station's. -/
theorem Net.valveLine_congr (hs : b.stations = a.stations) (hv : (b.valves[v]?).map Valve.station = (a.valves[v]?).map Valve.station) :
    b.valveLine v = a.valveLine v := by
  have hbind (m : Net) : (m.valves[v]?).bind Valve.station = ((m.valves[v]?).map Valve.station).bind id := by cases m.valves[v]? <;> rfl
  unfold Net.valveLine
  rw [hbind b, hv, ← hbind a, hs]

/-- R114: a valve that may be entered, written with its kind and selector as they are. -/
theorem Net.MayEnter.congr (h : a.MayEnter v x l st) (hl : b.lines = a.lines) (hs : b.stations = a.stations)
    (hplace : b.valveLine v = a.valveLine v) (hkind : y.kind = x.kind) (hselector : y.selector = x.selector) : b.MayEnter v y l st := by
  have hstatus : b.statusOf st = a.statusOf st := by rw [Net.statusOf, hs, Net.statusOf]
  have hline : b.line l = a.line l := by rw [Net.line, hl, Net.line]
  exact ⟨hkind.trans h.kind, hplace.trans h.place, hline ▸ h.master, hstatus ▸ h.reachable, hselector ▸ h.selector⟩

theorem Net.valveLine_writing {w : Nat} (hx : a.valves[v]? = some x) (hstation : y.station = x.station) (slot : Nat) (q : Plan)
    (ms : Marks) : (a.writing slot q v y ms).valveLine w = a.valveLine w := by
  refine Net.valveLine_congr rfl ?_
  change (a.valves.set v y)[w]?.map _ = _
  by_cases hw : v = w
  · subst hw
    rw [List.getElem?_set_self (List.getElem?_eq_some_iff.1 hx).1, hx, Option.map_some, Option.map_some, hstation]
  · rw [List.getElem?_set_ne hw]

theorem Net.stepCondition_writing (hx : a.valves[v]? = some x) (hstation : y.station = x.station) (hselector : y.selector = x.selector)
    (slot : Nat) (q : Plan) (ms : Marks) : (a.writing slot q v y ms).stepCondition v = a.stepCondition v :=
  Net.stepCondition_congr (b := a.writing slot q v y ms) rfl rfl hx (List.getElem?_set_self (List.getElem?_eq_some_iff.1 hx).1) hstation
    hselector

theorem Net.MayEnter.writing (h : a.MayEnter v x l st) (hx : a.valves[v]? = some x) (hstation : y.station = x.station)
    (hkind : y.kind = x.kind)
    (hselector : y.selector = x.selector) (slot : Nat) (q : Plan) (ms : Marks) : (a.writing slot q v y ms).MayEnter v y l st :=
  h.congr rfl rfl (Net.valveLine_writing hx hstation slot q ms) hkind hselector

end

/-! ## A step entered (R29, R114) -/

/-- R109, R114: a valve whose staged step has been entered under a tag. -/
def Valve.entering (x : Valve) (s : Staged) (tag : Byte) : Valve :=
  { x with
    staged := none
    inFlight := some { entry := s.entry, step := s.step, tag := tag, target := s.target, accepted := none, unverified := false } }

/-- R29: a line after a STEP is entered behind no STOP of its station. -/
def Line.stepListed (y : Line) (st target : Nat) : Line :=
  { y with tagCounter := y.tagCounter + 1, commands := stepEntered y.commands st y.tagCounter target }

/-- R29, R114: a staged step entered past its conditions, behind no STOP. -/
theorem Net.Stands.enterStaged {n : Net} {k : Ref} {q : Plan} {v st : Nat} {x : Valve} {l : Fin 4} {s : Staged} (h : n.Stands k v q x)
    (hs : x.staged = some s) (hm : n.MayEnter v x l st) (hstop : x.stopPending = false)
    (hlisted : listedCommand (n.line l).commands st ≠ some .stop) :
    n.enterStaged k.slot v =
      { n.writing k.slot q v (x.entering s (n.line l).tagCounter) (n.marks.add .ordinary (.valve v)) with
        lines := n.lines.set l ((n.line l).stepListed st s.target) } := by
  have hcond := Net.stepCondition_mayEnter h.valve hm
  have hline : Line.enterStep st s.target (n.line l) = (n.line l).stepListed st s.target := by
    unfold Line.enterStep Line.stepListed placeStep
    rw [if_neg hlisted]
    rfl
  have hentered : n.enterStep l st s.target = ({ n with lines := n.lines.set l ((n.line l).stepListed st s.target) }, none) := by
    unfold Net.enterStep
    rw [if_neg hlisted, Net.entryRemoval_of_stepCondition hm.place hcond, ← hline]
    rfl
  have hchanged : (x.entering s (n.line l).tagCounter).reported ≠ x.reported := Valve.reported_ne_of_unstaged hs rfl
  have hupdated := Net.updateValve_changed (n := { n with lines := n.lines.set l ((n.line l).stepListed st s.target) })
    (f := fun x => x.entering s (n.line l).tagCounter) h.valve hchanged
  unfold Net.enterStaged
  rw [h.valve, hm.place]
  dsimp only
  rw [hs]
  dsimp only
  rw [hcond]
  dsimp only
  rw [hstop, if_neg Bool.false_ne_true, hentered]
  refine hupdated.trans ?_
  rw [Net.writing, h.plans_self]

/-! ## A running entry blocked (R121) -/

section
variable {n : Net} {k : Ref} {q : Plan} {e : Nat} {ent : PlanEntry} {x : Valve} {reason : BlockReason} {moved : Option Nat}

theorem Plan.runningEntry_of_running (h : n.RunningAt k q e ent x) : q.runningEntry = some ent := by
  unfold Plan.runningEntry
  rw [h.running, Option.bind_some, h.entry]

/-- R121: the plan BLOCKED and marked URGENT, then its valve staged again. -/
theorem Net.RunningAt.blockPlan (h : n.RunningAt k q e ent x) (hs : q.state = .active ∨ q.state = .holding)
    (hmoved : moved.getD ent.valve = ent.valve) (reason : BlockReason) :
    n.blockPlan k.slot reason moved =
      (n.writing k.slot (q.blockedBy e reason ent.valve) ent.valve x (n.marks.add .urgent (.plan k.slot))).restage q ent.valve := by
  have hset : (n.setPlan k.slot (fun p =>
      { p.setEntry e (fun x => { x with state := .blocked }) with
        state := .blocked, block := some { reason := reason, valve := ent.valve } })).mark .urgent (.plan k.slot) =
      n.writing k.slot (q.blockedBy e reason ent.valve) ent.valve x (n.marks.add .urgent (.plan k.slot)) := by
    unfold Net.setPlan Net.writing
    rw [modify_update_of_slotRecord h.stand.slotRecord, h.stand.valves_self]
    rfl
  unfold Net.blockPlan
  rw [h.stand.slotRecord]
  dsimp only
  rw [if_pos hs, h.running, Plan.runningEntry_of_running h]
  dsimp only
  rw [hmoved, hset]

/-- R121: with no step in flight there is nothing to stage again. -/
theorem Net.restage_landed {v : Nat} (hx : n.valves[v]? = some x) (hf : x.inFlight = none) (q : Plan) : n.restage q v = n := by
  unfold Net.restage
  rw [hx, Option.bind_some, hf]

theorem Net.RunningAt.blockPlan_landed (h : n.RunningAt k q e ent x) (hs : q.state = .active ∨ q.state = .holding)
    (hmoved : moved.getD ent.valve = ent.valve) (hf : x.inFlight = none) (reason : BlockReason) :
    n.blockPlan k.slot reason moved =
      n.writing k.slot (q.blockedBy e reason ent.valve) ent.valve x (n.marks.add .urgent (.plan k.slot)) := by
  rw [h.blockPlan hs hmoved, Net.restage_landed (h.stand.writing _ x _).valve hf]

end

end Sys2Proof.Machine
end

section
/-! Positions set without a reading (R12, R14): a VALVE-NOTE (R127), and the crew's position at a MANUAL step (R120). -/

namespace Sys2Proof.Machine

/-! ## A position written and its passing state handed on (R14) -/

/-- R12, R14: the net after valve `v` has gone from `x` to `y`, with plans and marks as an event goes on to write them. -/
def Net.positioned (n : Net) (v : Nat) (x y : Valve) (ps : List (Slot Plan)) (ms : Marks) : Net :=
  { n.afterPosition v x y with plans := ps, marks := ms }

section
variable {n : Net} {v : Nat} {x y : Valve} {ps : List (Slot Plan)} {ms : Marks}

theorem Net.handPassing_written (hx : n.valves[v]? = some x) (hc : y.claim = x.claim) (ms : Marks) :
    Net.handPassing v x.posState { n with valves := n.valves.set v y, marks := ms } = n.positioned v x y n.plans ms := by
  have hy : (n.valves.set v y)[v]? = some y := List.getElem?_set_self (List.getElem?_eq_some_iff.1 hx).1
  unfold Net.handPassing Net.positioned Net.afterPosition
  dsimp only
  rw [hy]
  dsimp only
  by_cases hp : passingOf y.posState ≠ passingOf x.posState
  · rw [if_pos hp, if_pos hp]
    unfold Net.setValve Net.passingChanged
    dsimp only
    rw [if_neg (List.cons_ne_nil _ _), List.modify_eq_set_of_getElem? _ hy, List.set_set]
    simp [Net.setSurvey, Survey.afterPassing, (List.getElem?_eq_some_iff.1 hx).1, hc]
  · rw [if_neg hp, if_neg hp]

theorem Net.valves_positioned (hx : n.valves[v]? = some x) (y : Valve) (ps : List (Slot Plan)) (ms : Marks) :
    ∃ p, (n.positioned v x y ps ms).valves[v]? = some { y with passing := p } := Net.getElem?_afterPosition hx y

/-- R14: a valve's other fields may be written after its passing state is handed on. -/
theorem Net.setValve_positioned (hx : n.valves[v]? = some x) {g : Valve → Valve} (hpos : (g y).posState = y.posState)
    (hpass : ∀ p, g { y with passing := p } = { g y with passing := p }) :
    (n.positioned v x y ps ms).setValve v g = n.positioned v x (g y) ps ms := by
  have hset (z : Valve) : (n.valves.set v z).modify v g = n.valves.set v (g z) := by
    rw [List.modify_eq_set_of_getElem? g (List.getElem?_set_self (List.getElem?_eq_some_iff.1 hx).1), List.set_set]
  unfold Net.setValve Net.positioned Net.afterPosition
  by_cases h : passingOf y.posState ≠ passingOf x.posState
  · rw [if_pos h, if_pos (by rw [hpos]; exact h)]
    dsimp only
    rw [hset, hpass, ← hpos]
  · rw [if_neg h, if_neg (by rw [hpos]; exact h)]
    dsimp only
    rw [hset]

theorem Net.updateValveMarked_positioned (hx : n.valves[v]? = some x) {g : Valve → Valve} (hpos : (g y).posState = y.posState)
    (hpass : ∀ p, g { y with passing := p } = { g y with passing := p }) :
    (n.positioned v x y ps ms).updateValveMarked v g = n.positioned v x (g y) ps (ms.add .ordinary (.valve v)) := by
  unfold Net.updateValveMarked
  rw [Net.setValve_positioned hx hpos hpass]
  rfl

/-- R15: an update that changes a reported field of the valve marks it. -/
theorem Net.updateValve_positioned (hx : n.valves[v]? = some x) {g : Valve → Valve} (hpos : (g y).posState = y.posState)
    (hpass : ∀ p, g { y with passing := p } = { g y with passing := p }) (hc : (g y).reported ≠ y.reported) :
    (n.positioned v x y ps ms).updateValve v g = n.positioned v x (g y) ps (ms.add .ordinary (.valve v)) := by
  obtain ⟨p, hp⟩ := n.valves_positioned hx y ps ms
  have hchanged : (g { y with passing := p }).reported ≠ ({ y with passing := p } : Valve).reported := by
    rw [hpass]
    exact hc
  unfold Net.updateValve
  rw [Net.setValve_positioned hx hpos hpass, hp, Option.any_some, decide_eq_true hchanged]
  rfl

/-- R15: an update marks the valve or changes no reported field, so that a mark after it is the valve's one mark. -/
theorem Net.updateValve_cases (hx : n.valves[v]? = some x) (f : Valve → Valve) : ∃ ms : Marks,
    n.updateValve v f = { n with valves := n.valves.set v (f x), marks := ms } ∧
      ms.add .ordinary (.valve v) = n.marks.add .ordinary (.valve v) := by
  by_cases hc : (f x).reported = x.reported
  · exact ⟨_, Net.updateValve_same hx hc, rfl⟩
  · exact ⟨_, Net.updateValve_changed hx hc, Marks.add_of_marked (Marks.marked_add _ _ _)⟩

end

/-! ## VALVE-NOTE (R127) -/

theorem noteBody_length (y : Valve) : (noteBody y).length = 3 := by
  unfold noteBody outOptByte out
  simp [leBytes]

section
variable {n : Net} {b : NoteBody} {x : Valve}

theorem Net.takeNote_badForm (h : 100 < b.position.toNat) : n.takeNote b = (n, .plain .badForm) := if_pos h

/-- R127: a VALVE-NOTE with a position, by the checks of its valve. -/
theorem Net.takeNote_position (h : b.position.toNat ≤ 100) (hx : n.valves[b.valve.toNat]? = some x) :
    n.takeNote b =
      if x.claim.isSome then (n, .plain .claimed)
      else if n.stationReports b.valve.toNat then (n, .plain .notPermitted)
      else
        let n1 := (n.updateValveMarked b.valve.toNat (Valve.note n.now b.position.toNat)).handPassing b.valve.toNat x.posState
        (n1, match n1.valves[b.valve.toNat]? with
             | some y => .withBody .done (noteBody y)
             | none => .plain .done) := by
  unfold Net.takeNote
  rw [if_neg (show ¬ Config.positionMax < b.position.toNat from Nat.not_lt.2 h), hx] <;> rfl

theorem Net.takeNote_absent (h : b.position.toNat ≤ 100) (hx : n.valves.length ≤ b.valve.toNat) : n.takeNote b = (n, .plain .noSuch) := by
  unfold Net.takeNote
  rw [if_neg (show ¬ Config.positionMax < b.position.toNat from Nat.not_lt.2 h), List.getElem?_eq_none hx]

theorem Status.unreachable_iff (z : Status) : z.unreachable = true ↔ z = .lost ∨ z = .siteOut := by
  cases z <;> simp [Status.unreachable]

/-- R127 check 4: a valve of a station within reach. -/
theorem Net.stationReports_iff (n : Net) (v : Nat) :
    n.stationReports v = true ↔ ∃ l st, n.valveLine v = some (l, st) ∧ ¬ (n.statusOf st = .lost ∨ n.statusOf st = .siteOut) := by
  unfold Net.stationReports
  simp only [Option.any_eq_true, Bool.not_eq_true', ← Bool.not_eq_true, Status.unreachable_iff, Prod.exists]

/-- R127, R12: the position written, and DONE with the valve as it is then. -/
theorem Net.takeNote_noted (h : b.position.toNat ≤ 100) (hx : n.valves[b.valve.toNat]? = some x) (hc : x.claim = none)
    (hreports : n.stationReports b.valve.toNat = false) :
    n.takeNote b =
      (n.positioned b.valve.toNat x (x.note n.now b.position.toNat) n.plans (n.marks.add .ordinary (.valve b.valve.toNat)),
        .withBody .done (noteBody (x.note n.now b.position.toNat))) := by
  have hclaim : (x.note n.now b.position.toNat).claim = x.claim := by
    unfold Valve.note
    split <;> rfl
  have hwritten : (n.updateValveMarked b.valve.toNat (Valve.note n.now b.position.toNat)).handPassing b.valve.toNat x.posState =
      n.positioned b.valve.toNat x (x.note n.now b.position.toNat) n.plans (n.marks.add .ordinary (.valve b.valve.toNat)) := by
    rw [Net.updateValveMarked_eq hx]
    exact Net.handPassing_written hx hclaim _
  obtain ⟨p, hp⟩ := n.valves_positioned hx (x.note n.now b.position.toNat) n.plans (n.marks.add .ordinary (.valve b.valve.toNat))
  rw [Net.takeNote_position h hx, hc, hreports, if_neg (by decide), if_neg (by decide)]
  dsimp only
  rw [hwritten, hp]
  rfl

end

/-- Settles O28: each check in its turn; past them all, the position as `Net.takeNote_noted` writes it. -/
theorem valveNoteSetsThePosition : Obligations.ValveNoteSetsThePosition := by
  unfold Obligations.ValveNoteSetsThePosition
  intro s i p b hready v refused
  have served {n : Net} {a : Answer} (htake : s.net.takeNote b = (n, a)) (hlen : a.body.length ≤ 240) :
      ∃ t, exec (.valveNote p b) s = .next t ∧ s.Serves t i p (.valveNote b) a n :=
    State.serves_answered hready nofun (onNetAnswer_begun htake) hlen
  refine ⟨fun hbad => ?_, fun hgood habsent => ?_, fun x hgood hx => ⟨fun hclaim => ?_, fun l st hclaim hl hlost hsite => ?_,
    fun hclaim hout => ?_⟩⟩
  · exact served (Net.takeNote_badForm hbad) (Nat.zero_le _)
  · exact served (Net.takeNote_absent hgood habsent) (Nat.zero_le _)
  · refine served ((Net.takeNote_position hgood hx).trans (if_pos ?_)) (Nat.zero_le _)
    exact Option.isSome_iff_ne_none.2 hclaim
  · have hreports : s.net.stationReports v = true := (s.net.stationReports_iff v).2 ⟨l, st, hl, not_or.2 ⟨hlost, hsite⟩⟩
    have htake := Net.takeNote_position hgood hx
    rw [hclaim, if_neg (by decide), if_pos hreports] at htake
    exact served htake (Nat.zero_le _)
  · intro y z
    have hreports : s.net.stationReports v = false := by
      rw [← Bool.not_eq_true, s.net.stationReports_iff]
      rintro ⟨l, st, hl, hreach⟩
      exact hreach (hout l st hl)
    have hnote : x.note s.net.now b.position.toNat = z := by
      unfold Valve.note
      split
      · next hk => exact (if_neg (by rw [hk]; decide)).symm
      · next hk => exact (if_pos hk).symm
    have htake := Net.takeNote_noted hgood hx hclaim hreports
    rw [hnote] at htake
    have hplans : s.net.positioned v x z s.net.plans (s.net.marks.add .ordinary (.valve v)) =
        { s.net.afterPosition v x z with marks := s.net.marks.add .ordinary (.valve v) } := by
      unfold Net.positioned Net.afterPosition
      split <;> rfl
    rw [← hplans]
    exact served htake (by rw [Answer.withBody, noteBody_length]; decide)

end Sys2Proof.Machine
end

section
/-! PROCEED (R119, R120, R123): its checks, a hold released, the crew's position taken, and a block resumed. -/

namespace Sys2Proof.Machine

/-! ## The order's event -/

section
variable {s : State} {i : Nat} {p : Post} {o : Order} {n : Net} {a : Answer}

/-- An owner's answer with the choices of the lines after it, as the state in which it gets the order shows it. -/
theorem onNetAnswerLines_begun {f : Net → Net × Answer} (h : f s.net = (n, a)) :
    onNetAnswerLines f (s.begun i p o) = ({ s.begun i p o with net := n.arbitrateAll }, .answered a) := by
  unfold onNetAnswerLines
  rw [show (s.begun i p o).net = s.net from rfl, h]

theorem proceedAnswerBody_length (q : Plan) : (proceedAnswerBody q).length = 3 := by
  unfold proceedAnswerBody outOptByte out
  simp [leBytes]

theorem State.serves_proceed {b : ProceedBody} (h : s.ready i p (.proceed b) = true) (htake : s.net.takeProceed b = (n, a))
    (hlen : a.body.length ≤ 240) : ∃ t, exec (.proceed p b) s = .next t ∧ s.Serves t i p (.proceed b) a n.arbitrateAll :=
  State.serves_answered h nofun (onNetAnswerLines_begun htake) hlen

/-- R119: a PROCEED taken is answered with the plan after it. -/
theorem State.serves_proceedDone {b : ProceedBody} {q : Plan} (h : s.ready i p (.proceed b) = true)
    (htake : s.net.takeProceed b = (n, .withBody .done (proceedAnswerBody q))) :
    ∃ t, exec (.proceed p b) s = .next t ∧ s.Serves t i p (.proceed b) (.withBody .done (proceedAnswerBody q)) n.arbitrateAll :=
  State.serves_proceed h htake (by rw [Answer.withBody, proceedAnswerBody_length]; decide)

end

/-! ## The checks (R119) -/

/-- R119: a position, or none. -/
def positionGood (b : ProceedBody) : Prop := b.position.toNat ≤ 100 ∨ b.position.toNat = 255

section
variable {n : Net} {b : ProceedBody} {q : Plan} {e : Nat} {ent : PlanEntry} {x : Valve}

theorem Net.takeProceed_badPosition (h : ¬ positionGood b) : n.takeProceed b = (n, .plain .badForm) := by
  refine if_pos ?_
  unfold positionGood at h
  rwa [not_or, Nat.not_le] at h

theorem not_badPosition (h : positionGood b) : ¬ (Config.positionMax < b.position.toNat ∧ b.position.toNat ≠ Config.noneByte) := by
  rintro ⟨habove, hnone⟩
  exact h.elim (Nat.not_le.2 habove) hnone

theorem Net.takeProceed_unknown (h : positionGood b) (hq : findRecord n.plans (refOf b.slot.toNat b.serial) = none) :
    n.takeProceed b = (n, .plain .noSuch) := by
  unfold Net.takeProceed
  rw [if_neg (not_badPosition h), hq]

/-- R119: a plan neither HOLDING nor BLOCKED, with a running entry or without. -/
theorem Net.takeProceed_badState (h : positionGood b) (hq : findRecord n.plans (refOf b.slot.toNat b.serial) = some q)
    (hholding : q.state ≠ .holding) (hblocked : q.state ≠ .blocked) : n.takeProceed b = (n, .plain .badState) := by
  unfold Net.takeProceed
  rw [if_neg (not_badPosition h), hq]
  dsimp only
  split
  · rw [if_neg hblocked, if_neg hholding]
  · rfl

/-- R119: a plan with a running entry, by its state. -/
theorem Net.takeProceed_running (h : positionGood b) (hrun : n.RunningAt (refOf b.slot.toNat b.serial) q e ent x) :
    n.takeProceed b =
      if q.state = .blocked then n.proceedBlocked b.slot.toNat e ent.valve q
      else if q.state = .holding then n.proceedHolding b.slot.toNat e ent.valve b.position.toNat
      else (n, .plain .badState) := by
  unfold Net.takeProceed
  rw [if_neg (not_badPosition h), hrun.plan]
  dsimp only
  rw [hrun.running, Plan.runningEntry_of_running hrun]

theorem Net.takeProceed_holding (h : positionGood b) (hrun : n.RunningAt (refOf b.slot.toNat b.serial) q e ent x)
    (hs : q.state = .holding) : n.takeProceed b = n.proceedHolding b.slot.toNat e ent.valve b.position.toNat := by
  rw [Net.takeProceed_running h hrun, if_neg (by rw [hs]; decide), if_pos hs]

theorem Net.takeProceed_blocked (h : positionGood b) (hrun : n.RunningAt (refOf b.slot.toNat b.serial) q e ent x)
    (hs : q.state = .blocked) : n.takeProceed b = n.proceedBlocked b.slot.toNat e ent.valve q := by
  rw [Net.takeProceed_running h hrun, if_pos hs]

theorem Net.proceedDone_of_slotRecord {slot : Nat} (h : slotRecord n.plans slot = some q) :
    n.proceedDone slot = (n, .withBody .done (proceedAnswerBody q)) := by
  unfold Net.proceedDone
  rw [h]

end

/-! ## Back to RUNNING (R119, R123) -/

/-- R119, R123: a plan ACTIVE again, its running entry RUNNING. -/
def Plan.resumed (q : Plan) (e : Nat) : Plan := { q with entries := q.entryState e .running, state := .active, block := none }

section
variable {n : Net} {k : Ref} {q : Plan} {e st : Nat} {ent : PlanEntry} {x : Valve} {l : Fin 4} {stg : Staged}

theorem Net.resumeRunning_eq {slot : Nat} (hq : slotRecord n.plans slot = some q) (hs : q.state ≠ .active) (e : Nat) :
    n.resumeRunning slot e = { n with plans := putRecord n.plans slot (q.resumed e), marks := n.marks.add .ordinary (.plan slot) } :=
  Net.updatePlan_changed (f := fun p => { p.setEntry e (fun y => { y with state := .running }) with state := .active, block := none }) hq
    (Plan.reported_ne_of_state (Ne.symm hs)) nofun

theorem Net.Stands.resumeRunning {v : Nat} (h : n.Stands k v q x) (hs : q.state ≠ .active) (e : Nat) :
    n.resumeRunning k.slot e = n.writing k.slot (q.resumed e) v x (n.marks.add .ordinary (.plan k.slot)) := by
  rw [Net.resumeRunning_eq h.slotRecord hs, Net.writing, h.valves_self]

theorem Net.RunningAt.resumed (h : n.RunningAt k q e ent x) (ms : Marks) :
    (n.writing k.slot (q.resumed e) ent.valve x ms).RunningAt k (q.resumed e) e { ent with state := .running } x := by
  refine h.writing ms h.running ?_ rfl h.claim
  change (q.entries.modify e _)[e]? = _
  rw [List.getElem?_modify, h.entry]
  simp

/-- R114, R123: the running entry resumed and its staged step entered. -/
theorem Net.RunningAt.resumeRunning_enterStaged (h : n.RunningAt k q e ent x) (hs : q.state ≠ .active) (hstg : x.staged = some stg)
    (hm : n.MayEnter ent.valve x l st) (hstop : x.stopPending = false) (hlisted : listedCommand (n.line l).commands st ≠ some .stop) :
    (n.resumeRunning k.slot e).enterStaged k.slot ent.valve = n.afterEntry k.slot q e ent.valve x stg l st := by
  have stands := h.stand.writing (q.resumed e) x (n.marks.add .ordinary (.plan k.slot))
  rw [h.stand.resumeRunning hs, stands.enterStaged hstg (hm.writing h.valve rfl rfl rfl _ _ _) hstop hlisted, Net.writing_writing]
  rfl

/-- R119, case 6: a valve whose staged step awaits PROCEED no longer. -/
def Valve.released (x : Valve) (s : Staged) : Valve := { x with staged := some { s with awaiting := false } }

/-- R119, case 6: the hold taken from a staged step changes no reported field. -/
theorem Net.RunningAt.hold_dropped (h : n.RunningAt k q e ent x) (hstg : x.staged = some stg) :
    n.updateValve ent.valve (fun x => { x with staged := x.staged.map (fun s => { s with awaiting := false }) }) =
      n.writing k.slot q ent.valve (x.released stg) n.marks := by
  have hsame : ({ x with staged := x.staged.map (fun s => { s with awaiting := false }) } : Valve).reported = x.reported := by
    simp [Valve.reported, Valve.stepState, hstg]
  rw [h.stand.updateValve_same hsame, hstg]
  rfl

/-- R119, case 6: a hold released and its step entered. -/
theorem Net.RunningAt.releaseHold_enters (h : n.RunningAt k q e ent x) (hs : q.state = .holding) (hstg : x.staged = some stg)
    (hm : n.MayEnter ent.valve x l st) (hstop : x.stopPending = false) (hlisted : listedCommand (n.line l).commands st ≠ some .stop) :
    n.releaseHold k.slot e ent.valve = n.afterEntry k.slot q e ent.valve x stg l st := by
  have hrun : (n.writing k.slot q ent.valve (x.released stg) n.marks).RunningAt k q e ent
      (x.released stg) := h.writing n.marks h.running h.entry rfl h.claim
  unfold Net.releaseHold
  rw [h.hold_dropped hstg, hrun.resumeRunning_enterStaged (by rw [hs]; decide) rfl
    (hm.writing (y := x.released stg) h.valve rfl rfl rfl _ _ _) hstop hlisted]
  unfold Net.afterEntry Net.writing
  dsimp only
  rw [putRecord_putRecord, List.set_set]
  rfl

/-- R114: a staged step of which a condition fails. -/
theorem Net.enterStaged_fails {v slot : Nat} {reason : BlockReason} (hx : n.valves[v]? = some x) (hl : n.valveLine v = some (l, st))
    (hstg : x.staged = some stg) (hfails : n.stepCondition v = some reason) : n.enterStaged slot v = n.blockPlan slot reason none := by
  unfold Net.enterStaged
  rw [hx, hl]
  dsimp only
  rw [hstg]
  dsimp only
  rw [hfails]

theorem Plan.resumed_blockedBy (q : Plan) (e : Nat) (reason : BlockReason) (v : Nat) :
    (q.resumed e).blockedBy e reason v = q.blockedBy e reason v := by
  unfold Plan.resumed Plan.blockedBy Plan.entryState
  dsimp only
  rw [List.modify_modify_eq]
  rfl

/-- R114, R121: the running entry resumed, and blocked again by a condition that fails. -/
theorem Net.RunningAt.resumeRunning_fails {reason : BlockReason} (h : n.RunningAt k q e ent x) (hs : q.state ≠ .active)
    (hstg : x.staged = some stg) (hf : x.inFlight = none) (hl : n.valveLine ent.valve = some (l, st))
    (hfails : n.stepCondition ent.valve = some reason) :
    (n.resumeRunning k.slot e).enterStaged k.slot ent.valve =
      n.writing k.slot (q.blockedBy e reason ent.valve) ent.valve x
        ((n.marks.add .ordinary (.plan k.slot)).add .urgent (.plan k.slot)) := by
  have hvalve := (h.stand.writing (q.resumed e) x (n.marks.add .ordinary (.plan k.slot))).valve
  have hblocked := (h.resumed (n.marks.add .ordinary (.plan k.slot))).blockPlan_landed (moved := none) (Or.inl rfl) rfl hf reason
  rw [h.stand.resumeRunning hs, Net.enterStaged_fails hvalve ((Net.valveLine_writing h.valve rfl _ _ _).trans hl) hstg
    ((Net.stepCondition_writing h.valve rfl rfl _ _ _).trans hfails)]
  refine hblocked.trans ?_
  rw [Net.writing_writing, Plan.resumed_blockedBy]
  rfl

/-- R119, case 6, R114: a hold released, and the plan blocked by a condition that fails. -/
theorem Net.RunningAt.releaseHold_fails {reason : BlockReason} (h : n.RunningAt k q e ent x) (hs : q.state = .holding)
    (hstg : x.staged = some stg) (hf : x.inFlight = none) (hl : n.valveLine ent.valve = some (l, st))
    (hfails : n.EntryFails x l st reason) :
    n.releaseHold k.slot e ent.valve =
      n.writing k.slot (q.blockedBy e reason ent.valve) ent.valve (x.released stg)
        ((n.marks.add .ordinary (.plan k.slot)).add .urgent (.plan k.slot)) := by
  have hrun : (n.writing k.slot q ent.valve (x.released stg) n.marks).RunningAt k q e ent (x.released stg) :=
    h.writing n.marks h.running h.entry rfl h.claim
  have hcondition := (Net.stepCondition_writing (y := x.released stg) h.valve rfl rfl k.slot q n.marks).trans
    (Net.stepCondition_fails h.valve hl hfails)
  unfold Net.releaseHold
  rw [h.hold_dropped hstg, hrun.resumeRunning_fails (by rw [hs]; decide) rfl hf
    ((Net.valveLine_writing (y := x.released stg) h.valve rfl _ _ _).trans hl) hcondition,
    Net.writing_writing]
  rfl

/-! ## The crew's position (R120) -/

/-- R118: a dwell not over is not taken. -/
theorem Net.takeDwellEnd_undue {v : Nat} (h : ∀ x, n.valves[v]? = some x → ∀ d, x.dwellEnd = some d → n.now < d) :
    n.takeDwellEnd v = n := by
  have hundue : n.dwellDue v = false := by
    have hover : (n.valves[v]?).any (fun x => x.dwellEnd.any (fun t => decide (t ≤ n.now))) = false := by
      rw [← Bool.not_eq_true, Option.any_eq_true]
      rintro ⟨x, hx, hd⟩
      obtain ⟨d, hd, hle⟩ := (Option.any_eq_true _ _).1 hd
      exact Nat.not_lt.2 (of_decide_eq_true hle) (h x hx d hd)
    unfold Net.dwellDue
    rw [hover, Bool.and_false, Bool.false_and]
  unfold Net.takeDwellEnd
  rw [hundue]
  rfl

/-- R116: a dwell that does not end at once only begins. -/
theorem Net.startDwell_begins {v dwell : Nat} (h : dwell ≠ 0) (n : Net) :
    n.startDwell v dwell = n.updateValveMarked v (fun x => { x with dwellEnd := some (n.now + 1000 * dwell) }) := by
  refine Net.takeDwellEnd_undue fun x hx d hd => ?_
  rw [Net.updateValveMarked, Net.mark_valves, Net.setValve_valves, List.getElem?_modify] at hx
  obtain ⟨y, -, rfl⟩ := Option.map_eq_some_iff.1 hx
  rw [if_pos rfl] at hd
  obtain rfl := Option.some.inj hd
  exact Nat.lt_add_of_pos_right (by omega)

/-- R120, R12: a valve at the crew's position, its dwell begun. -/
def Valve.crewPlaced (x : Valve) (now : Time) (position dwell : Nat) : Valve :=
  { x with
    position := some position, positionTime := some now, posState := posStateOfPosition position, staged := none
    dwellEnd := some (now + 1000 * dwell) }

/-- R120: a valve at the crew's position, its step arrived. -/
def Valve.crewArrived (x : Valve) (now : Time) (position : Nat) : Valve := { x.setPosition now position with staged := none }

/-- R120: the crew's position set and the step arrived: the valve marked once. -/
theorem Net.RunningAt.crewArrived (h : n.RunningAt k q e ent x) (hstg : x.staged = some stg) (position : Nat) :
    ((n.updateValve ent.valve (Valve.setPosition n.now position)).handPassing ent.valve x.posState).updateValve ent.valve
        (fun x => { x with staged := none }) =
      n.positioned ent.valve x (x.crewArrived n.now position) n.plans (n.marks.add .ordinary (.valve ent.valve)) := by
  obtain ⟨ms, hset, hms⟩ := Net.updateValve_cases h.valve (Valve.setPosition n.now position)
  have hunstaged : (x.crewArrived n.now position).reported ≠ (x.setPosition n.now position).reported :=
    Valve.reported_ne_of_unstaged (s := stg) hstg rfl
  rw [hset, Net.handPassing_written (y := x.setPosition n.now position) h.valve rfl, ← hms]
  exact Net.updateValve_positioned (g := fun x => { x with staged := none }) h.valve rfl (fun _ => rfl) hunstaged

/-- R120: the crew's position set, the step arrived, and its dwell begun. -/
theorem Net.RunningAt.crewReport (h : n.RunningAt k q e ent x) (hs : q.state = .holding) (hstg : x.staged = some stg) (hd : stg.dwell ≠ 0)
    (position : Nat) :
    n.crewReport k.slot e ent.valve position =
      n.positioned ent.valve x (x.crewPlaced n.now position stg.dwell) (putRecord n.plans k.slot (q.resumed e))
        ((n.marks.add .ordinary (.valve ent.valve)).add .ordinary (.plan k.slot)) := by
  have hresumed : (n.positioned ent.valve x (x.crewArrived n.now position) n.plans
      (n.marks.add .ordinary (.valve ent.valve))).resumeRunning k.slot e =
      n.positioned ent.valve x (x.crewArrived n.now position) (putRecord n.plans k.slot (q.resumed e))
        ((n.marks.add .ordinary (.valve ent.valve)).add .ordinary (.plan k.slot)) :=
    Net.resumeRunning_eq (n := n.positioned ent.valve x (x.crewArrived n.now position) n.plans _) h.stand.slotRecord (by rw [hs]; decide) e
  have hnow (ps : List (Slot Plan)) (ms : Marks) : (n.positioned ent.valve x (x.crewArrived n.now position) ps ms).now = n.now := by
    unfold Net.positioned Net.afterPosition
    split <;> rfl
  unfold Net.crewReport
  rw [h.valve]
  dsimp only
  rw [h.crewArrived hstg, hresumed, hstg, Option.map_some, Option.getD_some, Net.startDwell_begins hd, hnow]
  refine (Net.updateValveMarked_positioned (g := fun x => { x with dwellEnd := some (n.now + 1000 * stg.dwell) }) h.valve rfl
    (fun _ => rfl)).trans ?_
  rw [Marks.add_of_marked ((Marks.marked_add _ _ _).add _ _)]
  rfl

end

/-- Settles O26: the refusals in their order; at a MANUAL valve, no position, or the crew's. -/
theorem proceedTakesTheCrewPosition : Obligations.ProceedTakesTheCrewPosition := by
  unfold Obligations.ProceedTakesTheCrewPosition
  refine ⟨?_, fun s i p b q e ent x stg hready hrun hmanual hstg hs => ⟨fun habove => ?_, fun hgood hdwell => ?_⟩⟩
  · intro s i p b hready refused plan
    refine ⟨fun hlow hhigh => ?_, fun hgood => ⟨fun hnone => ?_, fun q hq hholding hblocked => ?_⟩⟩
    · exact State.serves_proceed hready (Net.takeProceed_badPosition (by unfold positionGood; omega)) (Nat.zero_le _)
    · exact State.serves_proceed hready (Net.takeProceed_unknown hgood hnone) (Nat.zero_le _)
    · exact State.serves_proceed hready (Net.takeProceed_badState hgood hq hholding hblocked) (Nat.zero_le _)
  · by_cases hgood : positionGood b
    · have hnone : b.position.toNat = Config.noneByte := hgood.resolve_left (Nat.not_le.2 habove)
      have hform : s.net.proceedHolding b.slot.toNat e ent.valve b.position.toNat = (s.net, .plain .badForm) := by
        unfold Net.proceedHolding
        rw [hrun.valve, Option.any_some, decide_eq_true hmanual, if_pos rfl, if_pos hnone]
      exact State.serves_proceed hready ((Net.takeProceed_holding hgood hrun hs).trans hform) (Nat.zero_le _)
    · exact State.serves_proceed hready (Net.takeProceed_badPosition hgood) (Nat.zero_le _)
  · intro y q1
    have hreport := hrun.crewReport hs hstg hdwell b.position.toNat
    have hdone : (s.net.crewReport b.slot.toNat e ent.valve b.position.toNat).proceedDone b.slot.toNat =
        (s.net.crewReport b.slot.toNat e ent.valve b.position.toNat, .withBody .done (proceedAnswerBody q1)) := by
      refine Net.proceedDone_of_slotRecord ?_
      rw [hreport]
      exact slotRecord_putRecord hrun.stand.slotRecord q1
    have hposition : b.position.toNat ≠ Config.noneByte := by
      rw [show Config.noneByte = 255 from rfl]
      omega
    have hholding : s.net.proceedHolding b.slot.toNat e ent.valve b.position.toNat =
        (s.net.crewReport b.slot.toNat e ent.valve b.position.toNat).proceedDone b.slot.toNat := by
      unfold Net.proceedHolding
      rw [hrun.valve, Option.any_some, decide_eq_true hmanual, if_pos rfl, if_neg hposition]
    have served := State.serves_proceedDone hready
      (((Net.takeProceed_holding (Or.inl hgood) hrun hs).trans hholding).trans hdone)
    rw [hreport] at served
    exact served

/-! ## A block resumed (R123) -/

section
variable {n : Net} {k : Ref} {q : Plan} {e : Nat} {ent : PlanEntry} {x : Valve} {stg : Staged}

theorem Net.causeCleared_iff (n : Net) (v : Nat) : n.causeCleared v = true ↔ n.Cleared v := by
  unfold Net.causeCleared Net.Cleared
  cases n.valves[v]? with
  | none => exact ⟨fun _ _ => nofun, fun _ => rfl⟩
  | some x => cases hk : x.kind <;> simp [hk, and_assoc, Option.all_eq_true]

/-- R123: the cause has cleared at the running valve and at the block's. -/
def Net.BlockCleared (n : Net) (q : Plan) (v : Nat) : Prop := n.Cleared v ∧ ∀ bl, q.block = some bl → n.Cleared bl.valve

theorem Net.blockCleared_iff (n : Net) (q : Plan) (v : Nat) :
    (n.causeCleared v && q.block.all (fun b => n.causeCleared b.valve)) = true ↔ n.BlockCleared q v := by
  rw [Bool.and_eq_true, n.causeCleared_iff, Option.all_eq_true]
  simp only [n.causeCleared_iff]
  rfl

theorem Net.proceedBlocked_stands {slot v : Nat} (h : ¬ n.BlockCleared q v) : n.proceedBlocked slot e v q = (n, .plain .badState) :=
  if_neg (mt (n.blockCleared_iff q v).1 h)

theorem Net.proceedBlocked_cleared {slot v : Nat} (h : n.BlockCleared q v) :
    n.proceedBlocked slot e v q = (n.resume slot e v).proceedDone slot :=
  if_pos ((n.blockCleared_iff q v).2 h)

/-- R123: a staged step that awaits PROCEED awaits it again. -/
theorem Net.RunningAt.resume_awaiting (h : n.RunningAt k q e ent x) (hs : q.state = .blocked) (hstg : x.staged = some stg)
    (haw : stg.awaiting = true) :
    n.resume k.slot e ent.valve =
      { n with
        plans := putRecord n.plans k.slot { q with entries := q.entryState e .hold, state := .holding, block := none }
        marks := n.marks.add .ordinary (.plan k.slot) } := by
  unfold Net.resume
  rw [h.valve, Option.bind_some, hstg]
  dsimp only
  rw [if_pos haw]
  exact Net.updatePlan_changed (f := fun p => { p.setEntry e (fun y => { y with state := .hold }) with state := .holding, block := none })
    h.stand.slotRecord (Plan.reported_ne_of_state (by rw [hs]; exact nofun)) nofun

theorem Net.RunningAt.resume_entering (h : n.RunningAt k q e ent x) (hstg : x.staged = some stg) (haw : stg.awaiting = false) :
    n.resume k.slot e ent.valve = (n.resumeRunning k.slot e).enterStaged k.slot ent.valve := by
  unfold Net.resume
  rw [h.valve, Option.bind_some, hstg]
  dsimp only
  rw [if_neg (by rw [haw]; decide)]

/-- R123: a dwell not over goes on. -/
theorem Net.RunningAt.resume_dwelling (h : n.RunningAt k q e ent x) (hs : q.state = .blocked) (hstg : x.staged = none)
    (hd : ∀ d, x.dwellEnd = some d → n.now < d) :
    n.resume k.slot e ent.valve =
      { n with plans := putRecord n.plans k.slot (q.resumed e), marks := n.marks.add .ordinary (.plan k.slot) } := by
  unfold Net.resume
  rw [h.valve, Option.bind_some, hstg]
  dsimp only
  rw [Net.resumeRunning_eq h.stand.slotRecord (by rw [hs]; decide)]
  refine Net.takeDwellEnd_undue fun y hy => ?_
  obtain rfl := Option.some.inj (h.valve.symm.trans hy)
  exact hd

/-- R123: the one valve of a block has cleared past the conditions of R114, its station ONLINE. -/
theorem Net.blockCleared_of_mayEnter {v st : Nat} {l : Fin 4} (hx : n.valves[v]? = some x) (hm : n.MayEnter v x l st)
    (hstop : x.stopPending = false) (honline : n.statusOf st = .online) (hbl : ∀ bl, q.block = some bl → bl.valve = v) :
    n.BlockCleared q v := by
  have cleared : n.Cleared v := by
    intro y hy
    obtain rfl := Option.some.inj (hx.symm.trans hy)
    refine Or.inr ⟨hm.selector, hstop, fun l' st' hl => ?_⟩
    obtain ⟨rfl, rfl⟩ := Prod.mk.inj (Option.some.inj (hm.place.symm.trans hl))
    exact ⟨honline, hm.master⟩
  exact ⟨cleared, fun bl h => (hbl bl h).symm ▸ cleared⟩

end

section
variable {s : State} {i : Nat} {p : Post} {b : ProceedBody} {q q1 : Plan} {e : Nat} {ent : PlanEntry} {x : Valve} {n : Net}

/-- R119: a HOLDING plan at a REMOTE valve, its hold released. -/
theorem State.serves_release (h : s.ready i p (.proceed b) = true) (hgood : positionGood b)
    (hrun : s.net.RunningAt (refOf b.slot.toNat b.serial) q e ent x) (hs : q.state = .holding) (hkind : x.kind = .remote)
    (hn : s.net.releaseHold b.slot.toNat e ent.valve = n) (hq : slotRecord n.plans b.slot.toNat = some q1) :
    ∃ t, exec (.proceed p b) s = .next t ∧ s.Serves t i p (.proceed b) (.withBody .done (proceedAnswerBody q1)) n.arbitrateAll := by
  have hholding : s.net.proceedHolding b.slot.toNat e ent.valve b.position.toNat =
      (s.net.releaseHold b.slot.toNat e ent.valve).proceedDone b.slot.toNat := by
    unfold Net.proceedHolding
    rw [hrun.valve, Option.any_some, hkind, if_neg (by decide)]
  refine State.serves_proceedDone h ((Net.takeProceed_holding hgood hrun hs).trans (hholding.trans ?_))
  rw [hn, Net.proceedDone_of_slotRecord hq]

/-- R123: a BLOCKED plan whose cause has cleared. -/
theorem State.serves_resume (h : s.ready i p (.proceed b) = true) (hgood : positionGood b)
    (hrun : s.net.RunningAt (refOf b.slot.toNat b.serial) q e ent x) (hs : q.state = .blocked) (hcleared : s.net.BlockCleared q ent.valve)
    (hn : s.net.resume b.slot.toNat e ent.valve = n) (hq : slotRecord n.plans b.slot.toNat = some q1) :
    ∃ t, exec (.proceed p b) s = .next t ∧ s.Serves t i p (.proceed b) (.withBody .done (proceedAnswerBody q1)) n.arbitrateAll := by
  refine State.serves_proceedDone h ((Net.takeProceed_blocked hgood hrun hs).trans ((Net.proceedBlocked_cleared hcleared).trans ?_))
  rw [hn, Net.proceedDone_of_slotRecord hq]

end

/-- Settles O25: a hold released, past the conditions of R114 or not; a block resumed, by its cause and by what stays staged. -/
theorem proceedEntersTheStagedStep : Obligations.ProceedEntersTheStagedStep := by
  unfold Obligations.ProceedEntersTheStagedStep
  refine ⟨fun s i p b q e ent x stg l st hready hgood hrun hm hstg hstop hlisted hs => ?_,
    fun s i p b q e ent x stg l st reason hready hgood hrun hs hkind hl hstg hf hfails => ?_,
    fun s i p b q e ent x hready hgood hrun hs => ?_⟩
  · have hq := slotRecord_putRecord hrun.stand.slotRecord (q.resumed e)
    rcases hs with hs | ⟨hs, haw, honline, hbl⟩
    · exact State.serves_release hready hgood hrun hs hm.kind (hrun.releaseHold_enters hs hstg hm hstop hlisted) hq
    · have hresume := (hrun.resume_entering hstg haw).trans
        (hrun.resumeRunning_enterStaged (by rw [hs]; decide) hstg hm hstop hlisted)
      exact State.serves_resume hready hgood hrun hs (Net.blockCleared_of_mayEnter hrun.valve hm hstop honline hbl) hresume hq
  · exact State.serves_release hready hgood hrun hs hkind (hrun.releaseHold_fails hs hstg hf hl hfails)
      (slotRecord_putRecord hrun.stand.slotRecord _)
  · intro cleared resumed
    refine ⟨fun hstands => ?_, fun hcleared stg hstg haw => ?_, fun hcleared hstg hd => ?_⟩
    · exact State.serves_proceed hready ((Net.takeProceed_blocked hgood hrun hs).trans (Net.proceedBlocked_stands hstands)) (Nat.zero_le _)
    · exact State.serves_resume hready hgood hrun hs hcleared (hrun.resume_awaiting hs hstg haw)
        (slotRecord_putRecord hrun.stand.slotRecord _)
    · exact State.serves_resume hready hgood hrun hs hcleared (hrun.resume_dwelling hs hstg hd)
        (slotRecord_putRecord hrun.stand.slotRecord _)

end Sys2Proof.Machine
end

section
/-! Claims released (R109), STOPs entered (R30) and ABANDON (R125, R126). -/

namespace Sys2Proof.Machine

/-! ## Valves updated one by one -/

/-- R15: valves marked in the order of a list. -/
def Marks.addValves (m : Marks) (vs : List Nat) : Marks := vs.foldl (fun m v => m.add .ordinary (.valve v)) m

theorem Marks.Marked.addValves {m : Marks} {r : RecordName} (h : m.Marked r) (vs : List Nat) : (m.addValves vs).Marked r := by
  induction vs generalizing m with
  | nil => exact h
  | cons v vs ih => exact ih (h.add _ _)

theorem Marks.marked_addValves {vs : List Nat} {v : Nat} (h : v ∈ vs) (m : Marks) : (m.addValves vs).Marked (.valve v) := by
  induction vs generalizing m with
  | nil => exact nomatch h
  | cons w vs ih =>
    rcases List.mem_cons.1 h with rfl | h
    · exact (m.marked_add _ _).addValves vs
    · exact ih h _

/-- Updates of listed valves write these valves, and marks. -/
theorem overEach_updateValve (f : Valve → Valve) (vs : List Nat) (n : Net) :
    ∃ ms, overEach (fun v n => n.updateValve v f) vs n =
      { n with valves := vs.foldl (fun ys v => ys.modify v f) n.valves, marks := ms } := by
  unfold overEach
  induction vs generalizing n with
  | nil => exact ⟨n.marks, rfl⟩
  | cons v vs ih =>
    obtain ⟨c, hc⟩ : ∃ c, n.updateValve v f = { n with valves := n.valves.modify v f, marks := c } := by
      unfold Net.updateValve Net.markIf
      split <;> exact ⟨_, rfl⟩
    obtain ⟨ms, heq⟩ := ih (n.updateValve v f)
    refine ⟨ms, ?_⟩
    rw [List.foldl_cons, heq, hc]
    rfl

/-- R15: updates that each change a reported field mark every valve. -/
theorem overEach_updateValve_changed {f : Valve → Valve} {vs : List Nat} {n : Net} (hvs : vs.Nodup)
    (hf : ∀ v ∈ vs, ∃ x, n.valves[v]? = some x ∧ (f x).reported ≠ x.reported) :
    overEach (fun v n => n.updateValve v f) vs n =
      { n with valves := vs.foldl (fun ys v => ys.modify v f) n.valves, marks := n.marks.addValves vs } := by
  unfold overEach Marks.addValves
  induction vs generalizing n with
  | nil => rfl
  | cons v vs ih =>
    obtain ⟨hv, hvs⟩ := List.nodup_cons.1 hvs
    obtain ⟨x, hx, hc⟩ := hf v List.mem_cons_self
    have hrest : ∀ w ∈ vs, ∃ y, (n.updateValve v f).valves[w]? = some y ∧ (f y).reported ≠ y.reported := by
      intro w hw
      obtain ⟨y, hy, hcy⟩ := hf w (List.mem_cons_of_mem v hw)
      refine ⟨y, ?_, hcy⟩
      rw [Net.updateValve, Net.markIf_valves, Net.setValve_valves, List.getElem?_modify, hy]
      exact congrArg some (if_neg fun e : v = w => hv (e ▸ hw))
    rw [List.foldl_cons, ih hvs hrest, Net.updateValve_changed hx hc, List.foldl_cons, List.foldl_cons, List.modify_eq_set_of_getElem? f hx]

/-! ## Claims (R109) -/

/-- R109: the valves of a plan updated, as a list. -/
def valvesOf (r : Ref) (f : Valve → Valve) (xs : List Valve) : List Valve := xs.map (fun x => if x.claim = some r then f x else x)

theorem valvesOf_foldl (n : Net) (r : Ref) (f : Valve → Valve) :
    (n.claimedBy r).foldl (fun ys v => ys.modify v f) n.valves = valvesOf r f n.valves := by
  refine (foldl_modify_idsWhere n.valves (fun v => v.claim = some r) f).trans (List.map_congr_left fun x _ => ?_)
  simp only [decide_eq_true_eq]

theorem Net.mem_claimedBy {n : Net} {r : Ref} {v : Nat} : v ∈ n.claimedBy r ↔ ∃ x, n.valves[v]? = some x ∧ x.claim = some r := by
  refine (Net.mem_idsWhere _ _ _).trans (exists_congr fun x => and_congr_right fun _ => ?_)
  rw [decide_eq_true_iff]

theorem Net.claimedBy_eq_singleton {n : Net} {r : Ref} {v : Nat} {x : Valve} (hx : n.valves[v]? = some x) (hc : x.claim = some r)
    (honly : ∀ w y, n.valves[w]? = some y → y.claim = some r → w = v) : n.claimedBy r = [v] := by
  refine List.perm_singleton.1 ((List.perm_ext_iff_of_nodup (Net.nodup_idsWhere _ _) (List.nodup_singleton v)).2 fun w => ?_)
  rw [List.mem_singleton]
  refine Net.mem_claimedBy.trans ⟨fun ⟨y, hy, hcy⟩ => honly w y hy hcy, ?_⟩
  rintro rfl
  exact ⟨x, hx, hc⟩

/-- R109: a claim released. -/
def Valve.unclaimed (x : Valve) : Valve := { x with claim := none }

/-- R109: a plan's claims released: its valves, each marked, and one claim change. -/
def Net.released (n : Net) (r : Ref) : Net :=
  { n with
    valves := valvesOf r Valve.unclaimed n.valves
    survey := { n.survey with generation := n.survey.generation + 1 }
    marks := n.marks.addValves (n.claimedBy r) }

theorem Net.releaseClaims_eq (n : Net) (r : Ref) : n.releaseClaims r = n.released r := by
  have hchanges : ∀ v ∈ n.claimedBy r, ∃ x, n.valves[v]? = some x ∧ x.unclaimed.reported ≠ x.reported := by
    intro v hv
    obtain ⟨x, hx, hc⟩ := Net.mem_claimedBy.1 hv
    refine ⟨x, hx, fun same => ?_⟩
    have hclaim : none = x.claim := congrArg (fun r => r.2.2.1) same
    exact nomatch hclaim.trans hc
  have hupdated := overEach_updateValve_changed (vs := n.claimedBy r) (Net.nodup_idsWhere _ _) hchanges
  rw [valvesOf_foldl] at hupdated
  exact congrArg Net.claimsChanged hupdated

/-- R118, R126: a plan in its last state. -/
def Plan.ended (q : Plan) (final : PlanState) (now : Time) : Plan := { q with state := final, running := none, endedTime := some now }

theorem Net.endPlan_eq {n : Net} {k : Ref} {q : Plan} (hq : slotRecord n.plans k.slot = some q) (hk : slotRef n.plans k.slot = k)
    (final : PlanState) :
    n.endPlan k.slot final =
      Net.released { n with plans := putRecord n.plans k.slot (q.ended final n.now), marks := n.marks.add .ordinary (.plan k.slot) } k := by
  unfold Net.endPlan
  rw [Net.releaseClaims_eq, hk, Net.setPlan, modify_update_of_slotRecord hq]
  rfl

/-! ## A STOP entered (R30) -/

theorem placeStop_eq (cs : List Listed) (st : Nat) : placeStop cs st = stopEntered cs st := by
  have hlisted : (listedCommand cs st).isSome = cs.any (fun c => c.station = st) := by
    unfold listedCommand
    rw [Option.isSome_map, List.isSome_find?]
  have hstop : (fun c : Listed => if c.station = st then { c with command := .stop } else c) =
      (fun c => if c.station = st then { station := st, command := .stop } else c) := by
    funext c
    by_cases hc : c.station = st
    · rw [if_pos hc, if_pos hc, hc]
    · rw [if_neg hc, if_neg hc]
  unfold placeStop stopEntered
  rw [hlisted, hstop]

/-- R30: a line after a STOP is entered. -/
def Net.stopListed (n : Net) (l : Fin 4) (st : Nat) : Net :=
  { n with lines := n.lines.set l { n.line l with commands := stopEntered (n.line l).commands st } }

/-- R30, R126: a STOP for a station its line can reach. -/
theorem Net.sendStop_listed {n : Net} {v st : Nat} {l : Fin 4} (hl : n.valveLine v = some (l, st)) (hm : (n.line l).role = .master)
    (hlost : n.statusOf st ≠ .lost) (hout : n.statusOf st ≠ .siteOut) :
    n.sendStop v = n.stopListed l st := by
  have hkept : n.entryRemoval l st = none := by
    unfold Net.entryRemoval
    rw [hm, if_neg (by decide), if_neg fun h => ((Status.unreachable_iff _).1 h).elim hlost hout]
  unfold Net.sendStop Net.enterStop Net.stopListed
  rw [hl]
  dsimp only
  rw [hkept, ← placeStop_eq]
  rfl

/-! ## ABANDON (R125, R126) -/

/-- R109: a step in flight shows in the step state. -/
theorem Valve.stepState_ne_none_of_inFlight {x : Valve} (h : x.inFlight.isSome = true) : x.stepState ≠ .none := by
  obtain ⟨f, hf⟩ := Option.isSome_iff_exists.1 h
  unfold Valve.stepState
  rw [hf]
  cases x.staged with
  | some s => exact nofun
  | none => cases ha : f.accepted <;> simp [ha]

/-- R15, R109: an abandoned valve has no step state. -/
theorem Valve.abandon_reported_iff (x : Valve) : x.abandon.reported = x.reported ↔ x.stepState = .none := by
  have hnone : x.abandon.stepState = .none := rfl
  refine ⟨fun same => ?_, fun h => ?_⟩
  · exact (congrArg (fun r => r.2.2.2) same).symm.trans hnone
  · unfold Valve.reported
    rw [hnone, h]
    rfl

theorem Net.finishAbandon_waits {n : Net} {k : Ref} {v : Nat} {x : Valve} (hk : slotRef n.plans k.slot = k) (hx : n.valves[v]? = some x)
    (hc : x.claim = some k) (hstop : x.stopPending = true) : n.finishAbandon k.slot = n := by
  have hpending : ¬ (n.claimedBy k).all (fun v => (n.valves[v]?).all (fun x => !x.stopPending)) = true := by
    intro hall
    have hv := List.all_eq_true.1 hall v (Net.mem_claimedBy.2 ⟨x, hx, hc⟩)
    rw [hx, Option.all_some, hstop] at hv
    exact nomatch hv
  unfold Net.finishAbandon
  rw [hk]
  split
  · rw [if_neg fun h => hpending h.2]
  · rfl

theorem Net.finishAbandon_ends {n : Net} {k : Ref} {q : Plan} (hq : slotRecord n.plans k.slot = some q) (hk : slotRef n.plans k.slot = k)
    (hs : q.state = .abandoning) (hfree : ∀ x ∈ n.valves, x.claim = some k → x.stopPending = false) :
    n.finishAbandon k.slot = n.endPlan k.slot .abandoned := by
  have hall : (n.claimedBy k).all (fun v => (n.valves[v]?).all (fun x => !x.stopPending)) = true := by
    refine List.all_eq_true.2 fun v hv => ?_
    obtain ⟨x, hx, hc⟩ := Net.mem_claimedBy.1 hv
    rw [hx, Option.all_some, hfree x (List.mem_of_getElem? hx) hc]
    rfl
  unfold Net.finishAbandon
  rw [hq, hk]
  exact if_pos ⟨hs, hall⟩

/-- R125: a valve with nothing in flight and no STOP pending loses its staged step and its dwell. -/
theorem Valve.abandon_idle {x : Valve} (hf : x.inFlight = none) (hs : x.stopPending = false) :
    x.abandon = { x with staged := none, dwellEnd := none } := by
  unfold Valve.abandon
  rw [hf, hs, Option.isSome_none, Bool.or_false, ← hf, ← hs]

/-- R125, R126: what is left of such a valve when its plan has ended. -/
def Valve.dropped (x : Valve) : Valve := { x with staged := none, dwellEnd := none, claim := none }

section
variable {n : Net} {k : Ref} {q : Plan} {v st : Nat} {x : Valve} {l : Fin 4}

theorem valvesOf_abandon_unclaimed {xs : List Valve} (h : ∀ x ∈ xs, x.claim = some k → x.inFlight = none ∧ x.stopPending = false) :
    valvesOf k Valve.unclaimed (valvesOf k Valve.abandon xs) = valvesOf k Valve.dropped xs := by
  unfold valvesOf
  rw [List.map_map]
  refine List.map_congr_left fun x hx => ?_
  rw [Function.comp_apply]
  by_cases hc : x.claim = some k
  · obtain ⟨hflight, hstop⟩ := h x hx hc
    rw [if_pos hc, if_pos hc, if_pos (show x.abandon.claim = some k from hc), Valve.abandon_idle hflight hstop]
    rfl
  · rw [if_neg hc, if_neg hc, if_neg hc]

theorem valvesOf_abandon_stopPending {xs : List Valve} (h : ∀ x ∈ xs, x.claim = some k → x.inFlight = none ∧ x.stopPending = false) :
    ∀ y ∈ valvesOf k Valve.abandon xs, y.claim = some k → y.stopPending = false := by
  intro y hy hc
  obtain ⟨x, hx, rfl⟩ := List.mem_map.1 hy
  by_cases hxc : x.claim = some k
  · obtain ⟨hflight, hstop⟩ := h x hx hxc
    rw [if_pos hxc, Valve.abandon_idle hflight hstop]
    exact hstop
  · rw [if_neg hxc] at hc
    exact absurd hc hxc

/-- R125: an abandoned valve keeps its claim. -/
theorem idsWhere_valvesOf_abandon (xs : List Valve) (k : Ref) :
    idsWhere (valvesOf k Valve.abandon xs) (fun x => x.claim = some k) = idsWhere xs (fun x => x.claim = some k) := by
  unfold idsWhere valvesOf
  rw [List.length_map]
  refine List.filter_congr fun v _ => ?_
  rw [List.getElem?_map]
  cases xs[v]? with
  | none => rfl
  | some x =>
    rw [Option.map_some, Option.any_some, Option.any_some]
    by_cases hc : x.claim = some k
    · rw [if_pos hc]
      rfl
    · rw [if_neg hc]

/-- R125: a plan's fields abandoned, and marked. -/
def Net.planAbandoned (n : Net) (k : Ref) (q : Plan) : Net :=
  { n with plans := putRecord n.plans k.slot q.abandon, marks := n.marks.add .ordinary (.plan k.slot) }

theorem Net.updatePlan_abandon (hq : slotRecord n.plans k.slot = some q) (hlive : q.state.live = true) :
    n.updatePlan k.slot Plan.abandon = n.planAbandoned k q :=
  Net.updatePlan_changed hq (Plan.reported_ne_of_state fun h : PlanState.abandoning = q.state => by rw [← h] at hlive; exact nomatch hlive)
    nofun

/-- R125, R126: nothing in flight and no STOP pending at a plan's valves: the plan ends at once. -/
theorem Net.abandonPlan_idle (h : findRecord n.plans k = some q) (hlive : q.state.live = true)
    (hidle : ∀ x ∈ n.valves, x.claim = some k → x.inFlight = none ∧ x.stopPending = false) :
    ∃ ms, n.abandonPlan k.slot =
        { n with
          plans := putRecord n.plans k.slot (q.abandon.ended .abandoned n.now)
          valves := valvesOf k Valve.dropped n.valves
          survey := { n.survey with generation := n.survey.generation + 1 }
          marks := ms } ∧
      ms.Marked (.plan k.slot) ∧ ∀ v ∈ n.claimedBy k, ms.Marked (.valve v) := by
  have hk := slotRef_of_findRecord h
  have hq := slotRecord_eq_of_findRecord h
  have hstops : (n.claimedBy k).filter (fun v => (n.valves[v]?).any (fun x => x.inFlight.isSome && !x.stopPending)) = [] := by
    refine List.filter_eq_nil_iff.2 fun v hv => ?_
    obtain ⟨x, hx, hc⟩ := Net.mem_claimedBy.1 hv
    rw [hx, Option.any_some, (hidle x (List.mem_of_getElem? hx) hc).1]
    exact nofun
  have hput := slotRecord_putRecord hq q.abandon
  have href := (slotRef_putRecord n.plans k.slot q.abandon).trans hk
  obtain ⟨ms, hvalves⟩ := overEach_updateValve Valve.abandon (n.claimedBy k) (n.planAbandoned k q)
  rw [show (n.planAbandoned k q).valves = n.valves from rfl, valvesOf_foldl] at hvalves
  have hends := Net.finishAbandon_ends
    (n := { n.planAbandoned k q with valves := valvesOf k Valve.abandon n.valves, marks := ms }) hput href rfl
    (valvesOf_abandon_stopPending hidle)
  refine ⟨(ms.add .ordinary (.plan k.slot)).addValves (n.claimedBy k), ?_, (ms.marked_add _ _).addValves _,
    fun v hv => Marks.marked_addValves hv _⟩
  unfold Net.abandonPlan
  dsimp only
  rw [hk, hstops, Net.updatePlan_abandon hq hlive, hvalves]
  refine hends.trans ?_
  rw [Net.endPlan_eq (n := { n.planAbandoned k q with valves := valvesOf k Valve.abandon n.valves, marks := ms }) hput href]
  unfold Net.released Net.planAbandoned Net.claimedBy
  dsimp only
  rw [valvesOf_abandon_unclaimed hidle, putRecord_putRecord, idsWhere_valvesOf_abandon]

/-- R125: the one valve of a plan, abandoned with it. -/
def Net.abandoning (n : Net) (k : Ref) (q : Plan) (v : Nat) (x : Valve) : Net :=
  { n with
    plans := putRecord n.plans k.slot q.abandon
    valves := n.valves.set v x.abandon
    marks :=
      if x.stepState = .none then n.marks.add .ordinary (.plan k.slot)
      else (n.marks.add .ordinary (.plan k.slot)).add .ordinary (.valve v) }

theorem Net.updateValve_abandon (hx : n.valves[v]? = some x) :
    (n.planAbandoned k q).updateValve v Valve.abandon = n.abandoning k q v x := by
  unfold Net.abandoning
  by_cases hs : x.stepState = .none
  · rw [if_pos hs]
    exact Net.updateValve_same (n := n.planAbandoned k q) hx (x.abandon_reported_iff.2 hs)
  · rw [if_neg hs]
    exact Net.updateValve_changed (n := n.planAbandoned k q) hx (mt x.abandon_reported_iff.1 hs)

/-- R125: a plan of one valve, by what is in flight there. -/
theorem Net.abandonPlan_single (h : findRecord n.plans k = some q) (hlive : q.state.live = true) (hx : n.valves[v]? = some x)
    (hc : x.claim = some k) (honly : ∀ w y, n.valves[w]? = some y → y.claim = some k → w = v) :
    n.abandonPlan k.slot =
      (if x.inFlight.isSome && !x.stopPending then (n.abandoning k q v x).sendStop v else n.abandoning k q v x).finishAbandon k.slot := by
  have hvalve : overEach (fun v n => n.updateValve v Valve.abandon) [v] (n.planAbandoned k q) = n.abandoning k q v x :=
    Net.updateValve_abandon hx
  unfold Net.abandonPlan
  dsimp only
  rw [slotRef_of_findRecord h, Net.claimedBy_eq_singleton hx hc honly, Net.updatePlan_abandon (slotRecord_eq_of_findRecord h) hlive,
    hvalve, List.filter_singleton, hx, Option.any_some]
  cases x.inFlight.isSome && !x.stopPending <;> rfl

theorem Net.abandoning_valve (hx : n.valves[v]? = some x) : (n.abandoning k q v x).valves[v]? = some x.abandon :=
  List.getElem?_set_self (List.getElem?_eq_some_iff.1 hx).1

/-- R125: with a STOP pending at its one valve the plan waits. -/
theorem Net.abandonPlan_pending (h : findRecord n.plans k = some q) (hlive : q.state.live = true) (hx : n.valves[v]? = some x)
    (hc : x.claim = some k) (honly : ∀ w y, n.valves[w]? = some y → y.claim = some k → w = v) (hstop : x.stopPending = true) :
    n.abandonPlan k.slot = n.abandoning k q v x := by
  rw [Net.abandonPlan_single h hlive hx hc honly, hstop, Bool.not_true, Bool.and_false, if_neg Bool.false_ne_true]
  refine Net.finishAbandon_waits (n := n.abandoning k q v x) ((slotRef_putRecord _ _ _).trans (slotRef_of_findRecord h))
    (Net.abandoning_valve hx) hc ?_
  rw [Valve.abandon, hstop, Bool.true_or]

/-- R125, R30: with a step in flight at its one valve a STOP is listed, and the plan waits for it. -/
theorem Net.abandonPlan_inFlight (h : findRecord n.plans k = some q) (hlive : q.state.live = true) (hx : n.valves[v]? = some x)
    (hc : x.claim = some k) (honly : ∀ w y, n.valves[w]? = some y → y.claim = some k → w = v) (hf : x.inFlight.isSome = true)
    (hstop : x.stopPending = false) (hl : n.valveLine v = some (l, st)) (hm : (n.line l).role = .master) (hlost : n.statusOf st ≠ .lost)
    (hout : n.statusOf st ≠ .siteOut) :
    n.abandonPlan k.slot = (n.abandoning k q v x).stopListed l st := by
  have hplace : (n.abandoning k q v x).valveLine v = some (l, st) := by
    refine (Net.valveLine_congr (a := n) (b := n.abandoning k q v x) rfl ?_).trans hl
    rw [Net.abandoning_valve hx, hx]
    rfl
  rw [Net.abandonPlan_single h hlive hx hc honly, hf, hstop, Bool.not_false, Bool.true_and, if_pos rfl,
    Net.sendStop_listed hplace hm hlost hout]
  refine Net.finishAbandon_waits (n := (n.abandoning k q v x).stopListed l st) ((slotRef_putRecord _ _ _).trans (slotRef_of_findRecord h))
    (Net.abandoning_valve (k := k) (q := q) hx) hc ?_
  rw [Valve.abandon, hf, Bool.or_true]

end

section
variable {s : State} {i : Nat} {p : Post} {b : RefBody} {q : Plan} {n : Net} {c : AnswerCode}

theorem State.serves_abandon (h : s.ready i p (.abandon b) = true) (htake : s.net.takeAbandon (bodyRef b) = (n, .plain c)) :
    ∃ t, exec (.abandon p b) s = .next t ∧ s.Serves t i p (.abandon b) (.plain c) n.arbitrateAll :=
  State.serves_answered h nofun (onNetAnswerLines_begun htake) (Nat.zero_le _)

theorem Net.takeAbandon_found (h : findRecord s.net.plans (bodyRef b) = some q) :
    s.net.takeAbandon (bodyRef b) = if q.state.live then (s.net.abandonPlan b.slot.toNat, .plain .done) else (s.net, .plain .badState) := by
  unfold Net.takeAbandon
  rw [h]
  rfl

/-- R125: a live plan is abandoned, whatever is in flight. -/
theorem State.serves_abandonLive (h : s.ready i p (.abandon b) = true) (hq : findRecord s.net.plans (bodyRef b) = some q)
    (hlive : q.state.live = true) (hn : s.net.abandonPlan b.slot.toNat = n) :
    ∃ t, exec (.abandon p b) s = .next t ∧ s.Serves t i p (.abandon b) (.plain .done) n.arbitrateAll :=
  State.serves_abandon h (by rw [Net.takeAbandon_found hq, if_pos hlive, hn])

end

/-- Settles O27: nothing in flight; the refusals; a step in flight; a STOP pending. -/
theorem abandonStopsOrEndsThePlan : Obligations.AbandonStopsOrEndsThePlan := by
  unfold Obligations.AbandonStopsOrEndsThePlan
  refine ⟨fun s i p b q hready hq hs hidle => ?_, fun s i p b hready => ⟨fun hnone => ?_, fun q hq => ⟨fun hs => ?_, ?_, ?_⟩⟩⟩
  · intro q1
    have hlive := q.state.live_iff.2 hs
    obtain ⟨ms, heq, hplan, hvalves⟩ := Net.abandonPlan_idle hq hlive hidle
    obtain ⟨t, ht, hserves⟩ := State.serves_abandonLive hready hq hlive heq
    exact ⟨t, ms, ht, hserves, hplan, fun v x hx hc => hvalves v (Net.mem_claimedBy.2 ⟨x, hx, hc⟩)⟩
  · exact State.serves_abandon hready (by rw [Net.takeAbandon, hnone])
  · have hdead : ¬ q.state.live = true := by
      rcases hs with h | h | h | h <;> rw [h] <;> decide
    exact State.serves_abandon hready (by rw [Net.takeAbandon_found hq, if_neg hdead])
  · intro v x l st hs hx hc honly hf hstop hl hm hlost hout
    have hlive := q.state.live_iff.2 hs
    have hserves := State.serves_abandonLive hready hq hlive (Net.abandonPlan_inFlight hq hlive hx hc honly hf hstop hl hm hlost hout)
    unfold Net.stopListed Net.abandoning at hserves
    rw [if_neg (Valve.stepState_ne_none_of_inFlight hf), Valve.abandon, hf, hstop] at hserves
    exact hserves
  · intro v x hs hx hc honly hstop marks
    have hlive := q.state.live_iff.2 hs
    have hserves := State.serves_abandonLive hready hq hlive (Net.abandonPlan_pending hq hlive hx hc honly hstop)
    unfold Net.abandoning at hserves
    rw [Valve.abandon, hstop, Bool.true_or, ← hstop] at hserves
    exact hserves

end Sys2Proof.Machine
end

section
/-! A dwell that ends (R113, R118): the next step staged, the next entry started, or the plan completed. -/

namespace Sys2Proof.Machine

/-! ## A step staged (R113) -/

/-- R113: a valve with a step of an entry staged. -/
def Valve.stagedFor (x : Valve) (e k : Nat) (s : PlanStep) (awaiting : Bool) : Valve :=
  { x with
    movedUnplanned := false
    staged := some { entry := e, step := k, target := s.target, dwell := s.dwell, awaiting := awaiting } }

/-- R113, R114: a valve with a step of an entry staged and entered under a tag. -/
def Valve.enteringFor (x : Valve) (e k : Nat) (s : PlanStep) (tag : Byte) : Valve :=
  { x with
    movedUnplanned := false, staged := none
    inFlight := some { entry := e, step := k, tag := tag, target := s.target, accepted := none, unverified := false } }

/-- R113: a plan that awaits PROCEED at one of its entries. -/
def Plan.held (q : Plan) (e : Nat) : Plan := { q with entries := q.entryState e .hold, state := .holding }

/-- R113, R114: a step that awaits PROCEED at a valve where no condition fails. -/
def Net.AwaitsAt (n : Net) (v : Nat) (x : Valve) (s : PlanStep) : Prop :=
  x.kind = .manual ∧ n.valveLine v = none ∨ s.hold = true ∧ ∃ l st, n.MayEnter v x l st

section
variable {n : Net} {k : Ref} {q : Plan} {e st : Nat} {ent : PlanEntry} {x : Valve} {l : Fin 4} {s : PlanStep}

theorem Net.AwaitsAt.awaiting {v : Nat} (h : n.AwaitsAt v x s) : (s.hold || decide (x.kind = .manual)) = true := by
  rcases h with ⟨hmanual, -⟩ | ⟨hhold, -⟩
  · rw [decide_eq_true hmanual, Bool.or_true]
  · rw [hhold, Bool.true_or]

theorem Net.AwaitsAt.stepCondition {v : Nat} (h : n.AwaitsAt v x s) (hx : n.valves[v]? = some x) : n.stepCondition v = none := by
  rcases h with ⟨-, hplace⟩ | ⟨-, l, st, hm⟩
  · unfold Net.stepCondition
    rw [hplace]
  · exact Net.stepCondition_mayEnter hx hm

theorem Net.AwaitsAt.congr {a b : Net} {v : Nat} {y : Valve} (h : a.AwaitsAt v x s) (hl : b.lines = a.lines) (hs : b.stations = a.stations)
    (hplace : b.valveLine v = a.valveLine v) (hkind : y.kind = x.kind) (hselector : y.selector = x.selector) : b.AwaitsAt v y s :=
  h.imp (fun hmanual => ⟨hkind.trans hmanual.1, hplace.trans hmanual.2⟩)
    (fun ⟨hhold, l, st, hm⟩ => ⟨hhold, l, st, hm.congr hl hs hplace hkind hselector⟩)

/-- R113: a step that awaits PROCEED: the entry HOLD, the plan HOLDING. -/
theorem Net.Stands.stageStep_awaits (h : n.Stands k ent.valve q x) (hent : q.entries[e]? = some ent) (hs : ent.steps[ent.current]? = some s)
    (hrunning : ent.state = .running) (haw : n.AwaitsAt ent.valve x s) :
    n.stageStep k.slot e =
      n.writing k.slot (q.held e) ent.valve (x.stagedFor e ent.current s true) (n.marks.valvePlan ent.valve k.slot) := by
  have hheld : (q.held e).reported ≠ q.reported := by
    refine Plan.reported_ne_of_entry (e := e) (a := { ent with state := .hold }) (b := ent) ?_ hent ?_
    · change (q.entries.modify e _)[e]? = _
      rw [List.getElem?_modify, hent]
      simp
    · rw [hrunning]
      simp
  have hupdated : (n.writing k.slot q ent.valve (x.stagedFor e ent.current s true) (n.marks.add .ordinary (.valve ent.valve))).updatePlan
        k.slot (fun p => { p.setEntry e (fun y => { y with state := .hold }) with state := .holding }) =
      n.writing k.slot (q.held e) ent.valve (x.stagedFor e ent.current s true) (n.marks.valvePlan ent.valve k.slot) := by
    refine ((h.writing q (x.stagedFor e ent.current s true) _).updatePlan_changed hheld (by exact nofun)).trans ?_
    rw [Net.writing_writing]
    rfl
  have hcondition := (Net.stepCondition_writing (y := x.stagedFor e ent.current s true) h.valve rfl rfl k.slot (q.held e)
    (n.marks.valvePlan ent.valve k.slot)).trans (haw.stepCondition h.valve)
  unfold Net.stageStep
  rw [h.slotRecord]
  dsimp only
  rw [hent]
  dsimp only
  rw [hs, h.valve]
  dsimp only
  rw [haw.awaiting, if_pos rfl, h.updateValveMarked]
  split
  · next reason hreason =>
    exact absurd (hreason.symm.trans ((congrArg (Net.stepCondition · ent.valve) hupdated).trans hcondition)) (Option.some_ne_none reason)
  · exact hupdated

/-- R113, R29: a step that awaits nothing: entered at once, past the conditions of R114 and behind no STOP. -/
theorem Net.Stands.stageStep_enters (h : n.Stands k ent.valve q x) (hent : q.entries[e]? = some ent) (hs : ent.steps[ent.current]? = some s)
    (hhold : s.hold = false) (hm : n.MayEnter ent.valve x l st) (hstop : x.stopPending = false)
    (hlisted : listedCommand (n.line l).commands st ≠ some .stop) :
    n.stageStep k.slot e =
      { n.writing k.slot q ent.valve (x.enteringFor e ent.current s (n.line l).tagCounter) (n.marks.add .ordinary (.valve ent.valve)) with
        lines := n.lines.set l ((n.line l).stepListed st s.target) } := by
  have hnow : (s.hold || decide (x.kind = .manual)) = false := by
    rw [hhold, hm.kind]
    rfl
  have hentered := (h.writing q (x.stagedFor e ent.current s false) (n.marks.add .ordinary (.valve ent.valve))).enterStaged rfl
    (hm.writing (y := x.stagedFor e ent.current s false) h.valve rfl rfl rfl _ _ _) hstop hlisted
  unfold Net.stageStep
  rw [h.slotRecord]
  dsimp only
  rw [hent]
  dsimp only
  rw [hs, h.valve]
  dsimp only
  rw [hnow, if_neg Bool.false_ne_true, h.updateValveMarked]
  refine hentered.trans ?_
  rw [Net.writing_writing]
  exact congrArg (fun ms => { n.writing k.slot q ent.valve (x.enteringFor e ent.current s (n.line l).tagCounter) ms with
      lines := n.lines.set l ((n.line l).stepListed st s.target) })
    (Marks.add_ordinary_after n.marks .ordinary (.valve ent.valve))

end

/-! ## A step done (R118) -/

/-- A record rewritten to pass a test as before is in its list as before. -/
theorem idsWhere_set {α : Type} {xs : List α} {i : Nat} {a b : α} {p : α → Bool} (ha : xs[i]? = some a) (hp : p b = p a) :
    idsWhere (xs.set i b) p = idsWhere xs p := by
  unfold idsWhere
  rw [List.length_set]
  refine List.filter_congr fun j _ => ?_
  by_cases hj : i = j
  · subst hj
    rw [List.getElem?_set_self (List.getElem?_eq_some_iff.1 ha).1, ha, Option.any_some, Option.any_some, hp]
  · rw [List.getElem?_set_ne hj]

/-- R118: a valve whose dwell is over. -/
def Valve.dwelled (x : Valve) : Valve := { x with dwellEnd := none }

/-- R118: a plan at the next step of an entry. -/
def Plan.advanced (q : Plan) (e : Nat) : Plan := { q with entries := q.entries.modify e (fun y => { y with current := y.current + 1 }) }

/-- R118: a plan one of whose entries is done. -/
def Plan.entryDone (q : Plan) (e : Nat) : Plan := { q with entries := q.entryState e .done }

/-- R113: a plan at the start of an entry. -/
def Plan.started (q : Plan) (e : Nat) : Plan := { q with entries := q.entryState e .running, state := .active, running := some e }

/-- R118, R111: the valve of the step marked, then its plan unless it is CHECKING. -/
def Marks.stepDone (m : Marks) (v slot : Nat) (q : Plan) : Marks :=
  if q.state = .checking then m.add .ordinary (.valve v) else m.valvePlan v slot

theorem Marks.stepDone_active {q : Plan} (h : q.state = .active) (m : Marks) (v slot : Nat) : m.stepDone v slot q = m.valvePlan v slot :=
  if_neg (by rw [h]; exact nofun)

theorem Marks.stepDone_plan (m : Marks) (v slot : Nat) (q : Plan) :
    (m.stepDone v slot q).add .ordinary (.plan slot) = m.valvePlan v slot := by
  unfold Marks.stepDone
  split
  · rfl
  · exact m.valvePlan_plan v slot

theorem Marks.stepDone_valvePlan (m : Marks) (v slot : Nat) (q : Plan) : (m.stepDone v slot q).valvePlan v slot = m.valvePlan v slot := by
  have hvalve : (m.stepDone v slot q).Marked (.valve v) := by
    unfold Marks.stepDone
    split
    · exact m.marked_add _ _
    · exact (m.marked_add _ _).add _ _
  rw [Marks.valvePlan, Marks.add_of_marked hvalve, Marks.stepDone_plan]

section
variable {n : Net} {k : Ref} {q : Plan} {e st : Nat} {ent : PlanEntry} {x : Valve} {l : Fin 4} {s : PlanStep} {d : Time}

/-- R118: an entry of the plan rewritten when its step is done. -/
theorem Net.RunningAt.updateEntry (h : n.RunningAt k q e ent x) {f : PlanEntry → PlanEntry}
    (hf : ((f ent).state, (f ent).current) ≠ (ent.state, ent.current)) :
    (n.updateValveMarked ent.valve Valve.dwelled).updatePlan k.slot (fun p => p.setEntry e f) =
      n.writing k.slot (q.setEntry e f) ent.valve x.dwelled (n.marks.stepDone ent.valve k.slot q) := by
  have hentry : (q.setEntry e f).entries[e]? = some (f ent) := by
    change (q.entries.modify e f)[e]? = _
    rw [List.getElem?_modify, h.entry]
    simp
  have hchanged := Plan.reported_ne_of_entry hentry h.entry hf
  rw [h.stand.updateValveMarked, (h.stand.writing q x.dwelled _).updatePlan, Net.writing_writing]
  unfold Marks.stepDone
  by_cases hs : q.state = .checking
  · rw [if_pos hs, if_neg fun hc => hc.2 hs]
    rfl
  · rw [if_neg hs, if_pos ⟨hchanged, hs⟩]
    rfl

/-- R118: a dwell that ends before the entry's last step. -/
theorem Net.RunningAt.stepDone_next (h : n.RunningAt k q e ent x) (hmore : ent.current + 1 < ent.steps.length) :
    n.stepDone k.slot ent.valve =
      (n.writing k.slot (q.advanced e) ent.valve x.dwelled (n.marks.stepDone ent.valve k.slot q)).stageStep k.slot e := by
  have hupdated := h.updateEntry (f := fun y => { y with current := y.current + 1 }) (by simp)
  unfold Net.stepDone
  rw [h.stand.slotRecord]
  dsimp only
  rw [h.running, Plan.runningEntry_of_running h]
  dsimp only
  rw [if_pos hmore]
  exact congrArg (Net.stageStep k.slot e) hupdated

/-- R118: a dwell that ends after it. -/
theorem Net.RunningAt.stepDone_last (h : n.RunningAt k q e ent x) (hrunning : ent.state = .running)
    (hlast : ent.steps.length ≤ ent.current + 1) :
    n.stepDone k.slot ent.valve =
      if e + 1 < q.entries.length then
        (n.writing k.slot (q.entryDone e) ent.valve x.dwelled (n.marks.stepDone ent.valve k.slot q)).startEntry k.slot (e + 1)
      else (n.writing k.slot (q.entryDone e) ent.valve x.dwelled (n.marks.stepDone ent.valve k.slot q)).endPlan k.slot .complete := by
  have hupdated := h.updateEntry (f := fun y => { y with state := .done }) (by rw [hrunning]; simp)
  unfold Net.stepDone
  rw [h.stand.slotRecord]
  dsimp only
  rw [h.running, Plan.runningEntry_of_running h]
  dsimp only
  rw [if_neg (Nat.not_lt.2 hlast)]
  exact congrArg (fun m : Net => if e + 1 < q.entries.length then m.startEntry k.slot (e + 1) else m.endPlan k.slot .complete) hupdated

/-- R118: a dwell of a RUNNING entry is due when its time has come, in a mode that takes dwells. -/
theorem Net.RunningAt.dwellDue_iff (h : n.RunningAt k q e ent x) (hrunning : ent.state = .running) (hd : x.dwellEnd = some d) :
    n.dwellDue ent.valve = true ↔ n.mode.timersRun = true ∧ d ≤ n.now := by
  unfold Net.dwellDue
  rw [h.valve, Option.any_some, hd, Option.any_some, Net.claimPlan_of_running h, Option.any_some, Net.runs_of_running h,
    Plan.runningEntry_of_running h, Option.any_some, decide_eq_true hrunning, Bool.and_self, Bool.and_true, Bool.and_eq_true,
    decide_eq_true_iff]

theorem Net.RunningAt.takeDwellEnd (h : n.RunningAt k q e ent x) (hrunning : ent.state = .running) (hd : x.dwellEnd = some d) :
    n.takeDwellEnd ent.valve = if n.mode.timersRun = true ∧ d ≤ n.now then n.stepDone k.slot ent.valve else n := by
  unfold Net.takeDwellEnd
  rw [Net.claimPlan_of_running h]
  by_cases hdue : n.mode.timersRun = true ∧ d ≤ n.now
  · rw [if_pos hdue, if_pos ((h.dwellDue_iff hrunning hd).2 hdue)]
  · rw [if_neg hdue, if_neg (mt (h.dwellDue_iff hrunning hd).1 hdue)]

/-! ## Before the last step -/

theorem Plan.advanced_entry (h : q.entries[e]? = some ent) :
    (q.advanced e).entries[e]? = some { ent with current := ent.current + 1 } := by
  change (q.entries.modify e _)[e]? = _
  rw [List.getElem?_modify, h]
  simp

/-- R113, R118: the next step staged, to await PROCEED. -/
theorem Net.RunningAt.stepDone_awaits (h : n.RunningAt k q e ent x) (hrunning : ent.state = .running)
    (hs : ent.steps[ent.current + 1]? = some s) (haw : n.AwaitsAt ent.valve x s) :
    n.stepDone k.slot ent.valve =
      n.writing k.slot ((q.advanced e).held e) ent.valve (x.dwelled.stagedFor e (ent.current + 1) s true)
        (n.marks.valvePlan ent.valve k.slot) := by
  have stands := h.stand.writing (q.advanced e) x.dwelled (n.marks.stepDone ent.valve k.slot q)
  have haw' : (n.writing k.slot (q.advanced e) ent.valve x.dwelled (n.marks.stepDone ent.valve k.slot q)).AwaitsAt ent.valve x.dwelled s :=
    haw.congr rfl rfl (Net.valveLine_writing (y := x.dwelled) h.valve rfl _ _ _) rfl rfl
  rw [h.stepDone_next (List.getElem?_eq_some_iff.1 hs).1]
  refine (stands.stageStep_awaits (ent := { ent with current := ent.current + 1 }) (Plan.advanced_entry h.entry) hs hrunning haw').trans ?_
  rw [Net.writing_writing]
  refine congrArg _ ?_
  exact Marks.stepDone_valvePlan _ _ _ _

/-- R113, R29: the next step staged and entered. -/
theorem Net.RunningAt.stepDone_enters (h : n.RunningAt k q e ent x) (hactive : q.state = .active)
    (hs : ent.steps[ent.current + 1]? = some s) (hhold : s.hold = false) (hm : n.MayEnter ent.valve x l st) (hstop : x.stopPending = false)
    (hlisted : listedCommand (n.line l).commands st ≠ some .stop) :
    n.stepDone k.slot ent.valve =
      { n.writing k.slot (q.advanced e) ent.valve (x.dwelled.enteringFor e (ent.current + 1) s (n.line l).tagCounter)
          (n.marks.valvePlan ent.valve k.slot) with
        lines := n.lines.set l ((n.line l).stepListed st s.target) } := by
  have stands := h.stand.writing (q.advanced e) x.dwelled (n.marks.stepDone ent.valve k.slot q)
  rw [h.stepDone_next (List.getElem?_eq_some_iff.1 hs).1]
  refine (stands.stageStep_enters (ent := { ent with current := ent.current + 1 }) (Plan.advanced_entry h.entry) hs hhold
    (hm.writing (y := x.dwelled) h.valve rfl rfl rfl _ _ _) hstop hlisted).trans ?_
  rw [Net.writing_writing]
  have hmarks : (n.marks.stepDone ent.valve k.slot q).add .ordinary (.valve ent.valve) = n.marks.valvePlan ent.valve k.slot := by
    rw [Marks.stepDone_active hactive, Marks.valvePlan_valve]
  exact congrArg (fun ms =>
    { n.writing k.slot (q.advanced e) ent.valve (x.dwelled.enteringFor e (ent.current + 1) s (n.line l).tagCounter) ms with
      lines := n.lines.set l ((n.line l).stepListed st s.target) }) hmarks

/-! ## After the last step -/

/-- R118: the last step of the last entry: the plan complete, its claims released. -/
theorem Net.RunningAt.stepDone_completes (h : n.RunningAt k q e ent x) (hrunning : ent.state = .running)
    (hlast : ent.steps.length ≤ ent.current + 1) (hentries : q.entries.length = e + 1) :
    n.stepDone k.slot ent.valve =
      { n with
        plans := putRecord n.plans k.slot ((q.entryDone e).ended .complete n.now)
        valves := valvesOf k Valve.unclaimed (n.valves.set ent.valve x.dwelled)
        survey := { n.survey with generation := n.survey.generation + 1 }
        marks := (n.marks.valvePlan ent.valve k.slot).addValves (n.claimedBy k) } := by
  have stands := h.stand.writing (q.entryDone e) x.dwelled (n.marks.stepDone ent.valve k.slot q)
  have hclaimed : idsWhere (n.valves.set ent.valve x.dwelled) (fun x => x.claim = some k) = n.claimedBy k :=
    idsWhere_set h.valve rfl
  rw [h.stepDone_last hrunning hlast, if_neg (by omega), Net.endPlan_eq stands.slotRecord (slotRef_of_findRecord stands.plan)]
  unfold Net.released Net.writing Net.claimedBy
  dsimp only
  rw [hclaimed, Marks.stepDone_plan, putRecord_putRecord]
  rfl

/-- R113, R118: an entry to follow: its start. -/
theorem Net.RunningAt.stepDone_starts (h : n.RunningAt k q e ent x) (hactive : q.state = .active) (hrunning : ent.state = .running)
    (hlast : ent.steps.length ≤ ent.current + 1) (hmore : e + 1 < q.entries.length) :
    n.stepDone k.slot ent.valve =
      (n.writing k.slot ((q.entryDone e).started (e + 1)) ent.valve x.dwelled (n.marks.valvePlan ent.valve k.slot)).stageStep k.slot
        (e + 1) := by
  have stands := h.stand.writing (q.entryDone e) x.dwelled (n.marks.valvePlan ent.valve k.slot)
  have hupdated := stands.updatePlan_marked
    (fun p => { p.setEntry (e + 1) (fun y => { y with state := .running }) with state := .active, running := some (e + 1) })
    (Marks.marked_add _ _ _)
  rw [h.stepDone_last hrunning hlast, if_pos hmore, Marks.stepDone_active hactive]
  unfold Net.startEntry
  rw [hupdated, Net.writing_writing]
  rfl

/-- R113, R118: the net at the start of the entry that follows. -/
def Net.entryStarted (n : Net) (k : Ref) (q : Plan) (e : Nat) (ent : PlanEntry) (x : Valve) : Net :=
  n.writing k.slot ((q.entryDone e).started (e + 1)) ent.valve x.dwelled (n.marks.valvePlan ent.valve k.slot)

variable {next : PlanEntry} {y : Valve}

theorem Plan.started_entry (h : q.entries[e + 1]? = some next) :
    ((q.entryDone e).started (e + 1)).entries[e + 1]? = some { next with state := .running } := by
  change ((q.entries.modify e _).modify (e + 1) _)[e + 1]? = _
  rw [List.getElem?_modify, List.getElem?_modify, h]
  simp

theorem Net.RunningAt.entryStarted_stands (h : n.RunningAt k q e ent x) (hy : (n.valves.set ent.valve x.dwelled)[next.valve]? = some y) :
    (n.entryStarted k q e ent x).Stands k next.valve ((q.entryDone e).started (e + 1)) y :=
  ⟨(h.stand.writing _ _ _).plan, hy⟩

theorem Plan.started_held (q : Plan) (e : Nat) :
    (q.started e).held e = { q with entries := q.entryState e .hold, state := .holding, running := some e } := by
  unfold Plan.held Plan.started Plan.entryState
  dsimp only
  rw [List.modify_modify_eq]
  rfl

theorem Plan.started_active (h : q.state = .active) (e : Nat) :
    q.started e = { q with entries := q.entryState e .running, running := some e } := by
  unfold Plan.started
  rw [← h]

theorem Plan.advanced_held (q : Plan) (e : Nat) :
    (q.advanced e).held e =
      { q with entries := q.entries.modify e (fun y => { y with current := y.current + 1, state := .hold }), state := .holding } := by
  unfold Plan.held Plan.advanced Plan.entryState
  dsimp only
  rw [List.modify_modify_eq]
  rfl

/-- R113, R118: the first step of the entry that follows staged, to await PROCEED. -/
theorem Net.RunningAt.stepDone_startAwaits (h : n.RunningAt k q e ent x) (hactive : q.state = .active) (hrunning : ent.state = .running)
    (hlast : ent.steps.length ≤ ent.current + 1) (hnext : q.entries[e + 1]? = some next) (hs : next.steps[next.current]? = some s)
    (hy : (n.valves.set ent.valve x.dwelled)[next.valve]? = some y) (haw : n.AwaitsAt next.valve y s) :
    n.stepDone k.slot ent.valve =
      { n with
        plans := putRecord n.plans k.slot
          { q.entryDone e with entries := (q.entryDone e).entryState (e + 1) .hold, state := .holding, running := some (e + 1) }
        valves := (n.valves.set ent.valve x.dwelled).set next.valve (y.stagedFor (e + 1) next.current s true)
        marks := (n.marks.valvePlan ent.valve k.slot).add .ordinary (.valve next.valve) } := by
  have hmarks : (n.marks.valvePlan ent.valve k.slot).valvePlan next.valve k.slot =
      (n.marks.valvePlan ent.valve k.slot).add .ordinary (.valve next.valve) :=
    Marks.add_of_marked ((Marks.marked_add _ _ _).add _ _)
  have haw' : (n.entryStarted k q e ent x).AwaitsAt next.valve y s :=
    haw.congr rfl rfl (Net.valveLine_writing (y := x.dwelled) h.valve rfl _ _ _) rfl rfl
  have hstaged := (h.entryStarted_stands hy).stageStep_awaits (ent := { next with state := .running }) (Plan.started_entry hnext) hs
    rfl haw'
  rw [h.stepDone_starts hactive hrunning hlast (List.getElem?_eq_some_iff.1 hnext).1]
  refine hstaged.trans ?_
  unfold Net.entryStarted Net.writing
  dsimp only
  rw [hmarks, putRecord_putRecord, Plan.started_held]

/-- R113, R29: or staged and entered. -/
theorem Net.RunningAt.stepDone_startEnters (h : n.RunningAt k q e ent x) (hactive : q.state = .active) (hrunning : ent.state = .running)
    (hlast : ent.steps.length ≤ ent.current + 1) (hnext : q.entries[e + 1]? = some next) (hs : next.steps[next.current]? = some s)
    (hy : (n.valves.set ent.valve x.dwelled)[next.valve]? = some y) (hhold : s.hold = false) (hm : n.MayEnter next.valve y l st)
    (hstop : y.stopPending = false) (hlisted : listedCommand (n.line l).commands st ≠ some .stop) :
    n.stepDone k.slot ent.valve =
      { n with
        plans := putRecord n.plans k.slot ((q.entryDone e).started (e + 1))
        valves := (n.valves.set ent.valve x.dwelled).set next.valve (y.enteringFor (e + 1) next.current s (n.line l).tagCounter)
        lines := n.lines.set l ((n.line l).stepListed st s.target)
        marks := (n.marks.valvePlan ent.valve k.slot).add .ordinary (.valve next.valve) } := by
  have hm' : (n.entryStarted k q e ent x).MayEnter next.valve y l st :=
    hm.congr rfl rfl (Net.valveLine_writing (y := x.dwelled) h.valve rfl _ _ _) rfl rfl
  have hentered := (h.entryStarted_stands hy).stageStep_enters (ent := { next with state := .running }) (Plan.started_entry hnext) hs hhold
    hm' hstop hlisted
  rw [h.stepDone_starts hactive hrunning hlast (List.getElem?_eq_some_iff.1 hnext).1]
  refine hentered.trans ?_
  unfold Net.entryStarted Net.writing
  dsimp only
  rw [putRecord_putRecord]
  rfl

end

/-! ## The dwell's event -/

section
variable {s : State} {k : Ref} {q : Plan} {e : Nat} {ent : PlanEntry} {x : Valve} {d : Time} {m : Net}

/-- R118: the event of a dwell end, by whether it is due. -/
theorem Net.RunningAt.dwellEnd_event (h : s.net.RunningAt k q e ent x) (hrunning : ent.state = .running) (hd : x.dwellEnd = some d) :
    ∃ t, exec (.dwellEnd ent.valve) s = .next t ∧
      s.OnlyNet t (if s.net.mode.timersRun = true ∧ d ≤ s.net.now then s.net.stepDone k.slot ent.valve else s.net).arbitrateAll := by
  refine ⟨_, rfl, ?_⟩
  rw [← h.takeDwellEnd hrunning hd]
  exact s.onlyNet_onNet (fun n => (n.takeDwellEnd ent.valve).arbitrateAll)

/-- R118: a dwell end that is due. -/
theorem Net.RunningAt.dwellEnd_taken (h : s.net.RunningAt k q e ent x) (hrunning : ent.state = .running) (hd : x.dwellEnd = some d)
    (hdue : d ≤ s.net.now) (hmode : s.net.mode = .running ∨ s.net.mode = .halting ∨ s.net.mode = .detached) :
    ∃ t, exec (.dwellEnd ent.valve) s = .next t ∧ s.OnlyNet t (s.net.stepDone k.slot ent.valve).arbitrateAll := by
  have hevent := h.dwellEnd_event hrunning hd
  rwa [if_pos ⟨s.net.mode.timersRun_iff.2 hmode, hdue⟩] at hevent

end

/-- Settles O30: the plan completed or the dwell not taken; the next step staged, or entered; the next entry started. -/
theorem dwellEndStagesOrCompletes : Obligations.DwellEndStagesOrCompletes := by
  unfold Obligations.DwellEndStagesOrCompletes
  refine ⟨fun s r q e ent x d h hrunning hd => ?_, fun s r q e ent x d nx h hrunning hd hdue hmode hs haw => ?_,
    fun s r q e ent x d nx l st h hactive hrunning hd hdue hmode hs hhold hm hstop hlisted => ?_,
    fun s r q e ent next x y d nx h hactive hrunning hd hdue hmode hlast hnext hs => ?_⟩
  · obtain ⟨t, ht, only⟩ := h.dwellEnd_event hrunning hd
    refine ⟨t, ht, fun hundue => ?_, fun hmode hdue hlast hentries => ?_⟩
    · have hkept : ¬ (s.net.mode.timersRun = true ∧ d ≤ s.net.now) := by
        rintro ⟨hmode, hdue⟩
        rcases hundue with hlt | hhalted | hstarting
        · exact Nat.not_lt.2 hdue hlt
        · exact absurd hmode (by rw [hhalted]; decide)
        · exact absurd hmode (by rw [hstarting]; decide)
      rwa [if_neg hkept] at only
    · intro claimed marks
      rw [if_pos ⟨s.net.mode.timersRun_iff.2 hmode, hdue⟩, h.stepDone_completes hrunning hlast hentries] at only
      exact only
  · obtain ⟨t, ht, only⟩ := h.dwellEnd_taken hrunning hd hdue hmode
    rw [h.stepDone_awaits hrunning hs haw, Plan.advanced_held] at only
    exact ⟨t, ht, only⟩
  · obtain ⟨t, ht, only⟩ := h.dwellEnd_taken hrunning hd hdue hmode
    rw [h.stepDone_enters hactive hs hhold hm hstop hlisted] at only
    exact ⟨t, ht, only⟩
  · intro valves hy marks started
    obtain ⟨t, ht, only⟩ := h.dwellEnd_taken hrunning hd hdue hmode
    refine ⟨t, ht, fun haw => ?_, fun l st hhold hm hstop hlisted => ?_⟩
    · rw [h.stepDone_startAwaits hactive hrunning hlast hnext hs hy haw] at only
      exact only
    · rw [h.stepDone_startEnters hactive hrunning hlast hnext hs hy hhold hm hstop hlisted,
        Plan.started_active (q := q.entryDone e) hactive] at only
      exact only

end Sys2Proof.Machine
end

section
/-! The travel limit (R117), and a reading of a claimed valve judged (R116, R124). -/

namespace Sys2Proof.Machine

/-! ## A TRAVELLING step staged again (R121) -/

/-- R121: a valve whose step in flight is staged again for its plan. -/
def Valve.restagedFor (x : Valve) (q : Plan) (f : StepInFlight) : Valve := { x with inFlight := none, staged := some (restaged q f) }

section
variable {n : Net} {k : Ref} {q : Plan} {e st : Nat} {ent : PlanEntry} {x : Valve} {f : StepInFlight} {a : Time} {l : Fin 4}

/-- R121: an accepted step has no listed STEP to withdraw. -/
theorem Net.restage_travelling {v : Nat} (hx : n.valves[v]? = some x) (hs : x.staged = none) (hf : x.inFlight = some f)
    (ha : f.accepted = some a) (q : Plan) :
    n.restage q v = { n with valves := n.valves.set v (x.restagedFor q f), marks := n.marks.add .ordinary (.valve v) } := by
  have hchanged : (x.restagedFor q f).reported ≠ x.reported :=
    (Valve.reported_ne_of_unstaged (x := x.restagedFor q f) (s := restaged q f) rfl hs).symm
  unfold Net.restage
  rw [hx, Option.bind_some, hf]
  dsimp only
  rw [ha, if_neg nofun]
  exact Net.updateValve_changed (f := fun x => x.restagedFor q f) hx hchanged

/-- R121: a plan blocked at its running entry's valve, the valve written in the same event. -/
def Net.blockedWith (n : Net) (k : Ref) (q : Plan) (e v : Nat) (reason : BlockReason) (y : Valve) : Net :=
  n.writing k.slot (q.blockedBy e reason v) v y ((n.marks.add .urgent (.plan k.slot)).add .ordinary (.valve v))

/-- R117, R121: the plan blocked at its TRAVELLING valve. -/
theorem Net.RunningAt.blockPlan_travelling (h : n.RunningAt k q e ent x) (hactive : q.state = .active) (hs : x.staged = none)
    (hf : x.inFlight = some f) (ha : f.accepted = some a) (reason : BlockReason) :
    n.blockPlan k.slot reason none = n.blockedWith k q e ent.valve reason (x.restagedFor q f) := by
  have stands := h.stand.writing (q.blockedBy e reason ent.valve) x (n.marks.add .urgent (.plan k.slot))
  rw [h.blockPlan (moved := none) (Or.inl hactive) rfl, Net.restage_travelling stands.valve hs hf ha]
  unfold Net.blockedWith Net.writing
  dsimp only
  rw [List.set_set]

/-! ## The travel limit (R117) -/

theorem Net.travelDue_iff {v : Nat} (hx : n.valves[v]? = some x) (hf : x.inFlight = some f) (ha : f.accepted = some a) :
    n.travelDue v = true ↔ n.mode.timersRun = true ∧ a + 1000 * x.travelLimit ≤ n.now := by
  unfold Net.travelDue
  rw [hx, Option.any_some, hf, Option.bind_some, ha, Option.any_some, Bool.and_eq_true, decide_eq_true_iff]

theorem Net.takeTravelLimit_undue {v : Nat} (hx : n.valves[v]? = some x) (hf : x.inFlight = some f) (ha : f.accepted = some a)
    (hlt : n.now < a + 1000 * x.travelLimit) : n.takeTravelLimit v = n :=
  if_neg fun hdue => Nat.not_lt.2 ((Net.travelDue_iff hx hf ha).1 hdue).2 hlt

/-- R117: a valve that waits for its STOP, its step staged again. -/
def Valve.overdue (x : Valve) (q : Plan) (f : StepInFlight) : Valve := { x.restagedFor q f with stopPending := true }

theorem Net.RunningAt.takeTravelLimit (h : n.RunningAt k q e ent x) (hactive : q.state = .active) (hs : x.staged = none)
    (hf : x.inFlight = some f) (ha : f.accepted = some a) (hmode : n.mode.timersRun = true) (hdue : a + 1000 * x.travelLimit ≤ n.now)
    (hl : n.valveLine ent.valve = some (l, st)) (hm : (n.line l).role = .master) (hlost : n.statusOf st ≠ .lost)
    (hout : n.statusOf st ≠ .siteOut) :
    n.takeTravelLimit ent.valve = (n.blockedWith k q e ent.valve .travelFault (x.overdue q f)).stopListed l st := by
  have hvalve : (n.blockedWith k q e ent.valve .travelFault (x.restagedFor q f)).valves[ent.valve]? = some (x.restagedFor q f) :=
    (h.stand.writing _ _ _).valve
  have hpending : (n.blockedWith k q e ent.valve .travelFault (x.restagedFor q f)).setValve ent.valve
      (fun x => { x with stopPending := true }) = n.blockedWith k q e ent.valve .travelFault (x.overdue q f) := by
    unfold Net.setValve
    rw [List.modify_eq_set_of_getElem? _ hvalve]
    unfold Net.blockedWith Net.writing
    dsimp only
    rw [List.set_set]
    rfl
  unfold Net.takeTravelLimit Net.blockClaim
  rw [if_pos ((Net.travelDue_iff h.valve hf ha).2 ⟨hmode, hdue⟩), Net.claimPlan_of_running h]
  dsimp only
  rw [h.blockPlan_travelling hactive hs hf ha, hpending]
  exact Net.sendStop_listed ((Net.valveLine_writing (y := x.overdue q f) h.valve rfl _ _ _).trans hl) hm hlost hout

end

theorem State.travelLimit_event (s : State) (v : Nat) :
    ∃ t, exec (.travelLimitExpiry v) s = .next t ∧ s.OnlyNet t (s.net.takeTravelLimit v).arbitrateAll :=
  ⟨_, rfl, s.onlyNet_onNet (fun n => (n.takeTravelLimit v).arbitrateAll)⟩

/-! ## A reading that lands on a claimed valve (R11, R14, R116) -/

/-- R11, R14: a net after valve `v` has read from `x` to `y`, with these plans. -/
structure Net.Reads (n m : Net) (v : Nat) (x y : Valve) (plans : List (Slot Plan)) : Prop where
  valves : m.valves = (n.afterPosition v x y).valves
  survey : m.survey = (n.afterPosition v x y).survey
  plans : m.plans = plans

section
variable {n m u : Net} {v : Nat} {x y : Valve} {plans plans' : List (Slot Plan)}

/-- A valve written further keeps what its reading handed on. -/
theorem Net.Reads.modify (h : n.Reads u v x y plans) (hx : n.valves[v]? = some x) {g : Valve → Valve} (hpos : (g y).posState = y.posState)
    (hpass : ∀ ps, g { y with passing := ps } = { g y with passing := ps }) (hvalves : m.valves = u.valves.modify v g)
    (hsurvey : m.survey = u.survey) (hplans : m.plans = plans') : n.Reads m v x (g y) plans' := by
  obtain ⟨hmodify, hkept⟩ := Net.modify_afterPosition hx y g hpos hpass
  exact ⟨hvalves.trans ((congrArg (·.modify v g) h.valves).trans hmodify), hsurvey.trans (h.survey.trans hkept), hplans⟩

/-- The net read differs from its place in the event only in what a reading leaves. -/
theorem Net.Reads.congr {a b : Net} (h : a.Reads m v x y plans) (hvalves : a.valves = b.valves) (hsurvey : a.survey = b.survey) :
    b.Reads m v x y plans :=
  ⟨h.valves.trans ((Net.afterPosition_congr v x y).1 hvalves), h.survey.trans ((Net.afterPosition_congr v x y).2 hsurvey), h.plans⟩

end

/-- R11, R116: a valve after a reading, its first after a STOP or a start no longer awaited. -/
def Valve.settled (x : Valve) (now : Time) (b : Byte × Byte) : Valve := { x.afterReading now b with settleNext := false }

section
variable {n u : Net} {k : Ref} {q : Plan} {i : Nat} {ent : PlanEntry} {x : Valve} {b : Byte × Byte} {r : ValveReading} {f : StepInFlight}

theorem Net.handPassing_plans_now (n : Net) (v : Nat) (before : PosState) :
    (n.handPassing v before).plans = n.plans ∧ (n.handPassing v before).now = n.now := by
  unfold Net.handPassing
  split
  · split
    · exact ⟨rfl, rfl⟩
    · exact ⟨rfl, rfl⟩
  · exact ⟨rfl, rfl⟩

theorem Net.updateValve_plans_now (n : Net) (v : Nat) (g : Valve → Valve) :
    (n.updateValve v g).plans = n.plans ∧ (n.updateValve v g).now = n.now := by
  unfold Net.updateValve Net.markIf
  split
  · exact ⟨rfl, rfl⟩
  · exact ⟨rfl, rfl⟩

/-- R116: a reading of a plan's valve written, then judged over the net so far. -/
theorem Net.RunningAt.takeReading (h : n.RunningAt k q i ent x) (hactive : q.state = .active) (hr : readValvePart b = some r) :
    ∃ (u : Net) (ps : Passing) (moved : Bool), n.Reads u ent.valve x (x.settled n.now b) n.plans ∧ u.now = n.now ∧
      u.RunningAt k q i ent { x.settled n.now b with passing := ps } ∧ (moved = true ↔ x.Moved b) ∧
      n.takeReading ent.valve r = u.judgeClaimed k.slot ent.valve q { x.afterReading n.now b with passing := ps } moved := by
  obtain ⟨hvalves, hsurvey⟩ := Net.handPassing_updateValve h.valve (Valve.applyReading n.now r) rfl
  obtain ⟨hplans, hnow⟩ := (n.updateValve ent.valve (Valve.applyReading n.now r)).handPassing_plans_now ent.valve x.posState
  obtain ⟨hplans', hnow'⟩ := n.updateValve_plans_now ent.valve (Valve.applyReading n.now r)
  have htake : n.takeReading ent.valve r =
      ((n.updateValve ent.valve (Valve.applyReading n.now r)).handPassing ent.valve x.posState).judgeReading ent.valve x := by
    unfold Net.takeReading
    rw [h.valve]
  rw [htake]
  rw [Valve.applyReading_eq hr] at hvalves hsurvey
  generalize (n.updateValve ent.valve (Valve.applyReading n.now r)).handPassing ent.valve x.posState = u at *
  obtain ⟨ps, hps⟩ := Net.getElem?_afterPosition h.valve (x.afterReading n.now b)
  rw [← hvalves] at hps
  have written : n.Reads u ent.valve x (x.afterReading n.now b) n.plans := ⟨hvalves, hsurvey, hplans.trans hplans'⟩
  have hplan : findRecord u.plans k = some q := written.plans ▸ h.plan
  have running : u.RunningAt k q i ent { x.afterReading n.now b with passing := ps } := ⟨hplan, h.running, h.entry, hps, h.claim⟩
  have hsettled : (u.setValve ent.valve (fun x => { x with settleNext := false })).valves[ent.valve]? =
      some { x.settled n.now b with passing := ps } := by
    rw [Net.setValve_valves, List.getElem?_modify, hps]
    simp [Valve.settled]
  refine ⟨u.setValve ent.valve (fun x => { x with settleNext := false }), ps, hasMoved x (x.afterReading n.now b) && !x.settleNext,
    written.modify (g := fun x => { x with settleNext := false }) h.valve rfl (fun _ => rfl) rfl rfl written.plans, hnow.trans hnow',
    ⟨hplan, h.running, h.entry, hsettled, h.claim⟩, hasMoved_iff hr n.now x, ?_⟩
  have hclaim : (x.afterReading n.now b).claim = some k := h.claim
  unfold Net.judgeReading
  rw [hps]
  dsimp only
  rw [hclaim]
  dsimp only
  rw [Net.claimPlan_of_running running]
  dsimp only
  rw [if_pos (q.state.live_iff.2 (Or.inl hactive))]
  rfl

/-! ## What the judgement finds (R116, R124) -/

/-- R116: the selector of a reading is LOCAL. -/
theorem selectorBlocks_reading {y : Valve} (h : u.RunningAt k q i ent y) (x : Valve) (hrunning : ent.state = .running) (now : Time)
    (ps : Passing) :
    selectorBlocks q ent.valve { x.afterReading now b with passing := ps } = !b.2.getLsbD 4 := by
  have hselector : ({ x.afterReading now b with passing := ps } : Valve).selector = some (if b.2.getLsbD 4 then .remote else .atSite) := rfl
  unfold selectorBlocks
  rw [hselector, Net.runs_of_running h, Plan.runningEntry_of_running h, Option.any_some, hrunning]
  cases b.2.getLsbD 4 <;> rfl

/-- R116: the valve of a reading is STILL at its step's target. -/
def Valve.Reached (x : Valve) (now : Time) (b : Byte × Byte) (target : Nat) : Prop :=
  b.2.toNat % 4 = 0 ∧
    (if target = 0 then (x.settled now b).posState = .closed else b.1.toNat ≤ target + 2 ∧ target ≤ b.1.toNat + 2)

theorem arrives_reading_iff (f : StepInFlight) (x : Valve) (now : Time) (b : Byte × Byte) (ps : Passing) :
    arrives f { x.afterReading now b with passing := ps } = true ↔ x.Reached now b f.target := by
  have hposition : ({ x.afterReading now b with passing := ps } : Valve).position = some b.1.toNat := rfl
  have hmotion : ({ x.afterReading now b with passing := ps } : Valve).motion = some .still ↔ b.2.toNat % 4 = 0 := by
    change some (if b.2.toNat % 4 = 0 then Motion.still else if b.2.toNat % 4 = 1 then .opening else .closing) = some .still ↔ _
    split
    · next h0 => simp [h0]
    · next h0 => split <;> simp [h0]
  have hposState : ({ x.afterReading now b with passing := ps } : Valve).posState = (x.settled now b).posState := rfl
  unfold arrives targetReached Valve.Reached
  rw [hposition, hposState, Option.any_some, Bool.and_eq_true, decide_eq_true_iff, hmotion]
  refine and_congr_right fun _ => ?_
  by_cases ht : f.target = 0
  · rw [if_pos ht, if_pos ht, decide_eq_true_iff]
  · rw [if_neg ht, if_neg ht, decide_eq_true_iff]
    rfl

/-! ## A claimed valve's reading, by what is found -/

theorem Net.restage_survey (q : Plan) (v : Nat) (n : Net) : (n.restage q v).survey = n.survey := by
  unfold Net.restage
  split
  · rfl
  · dsimp only
    split
    · split
      · simp only [Net.withdrawStep, Net.updateValve, Net.setLine_survey, Net.markIf_survey, Net.setValve_survey]
      · simp only [Net.updateValve, Net.markIf_survey, Net.setValve_survey]
    · simp only [Net.updateValve, Net.markIf_survey, Net.setValve_survey]

/-- R121: a valve whose plan is blocked as its step is in flight. -/
def Valve.stagedAgain (x : Valve) (q : Plan) (f : StepInFlight) : Valve :=
  { x with inFlight := none, staged := some (f.again (((q.stepAt f.entry f.step).map (·.dwell)).getD 0)) }

section
variable {now : Time} {ps : Passing} {y : Valve} {plans : List (Slot Plan)} {reason : BlockReason} {moved : Option Nat}

/-- R121: a valve read and its plan blocked, its step in flight staged again. -/
theorem Net.Reads.blockPlan_inFlight (h : n.Reads u ent.valve x y plans) (hx : n.valves[ent.valve]? = some x)
    (hrun : u.RunningAt k q i ent { y with passing := ps }) (hactive : q.state = .active) (hf : y.inFlight = some f)
    (reason : BlockReason) :
    n.Reads (u.blockPlan k.slot reason none) ent.valve x (y.stagedAgain q f) (putRecord plans k.slot (q.blockedBy i reason ent.valve)) := by
  obtain ⟨hplans, hvalves⟩ := Net.blockPlan_running hrun (Or.inl hactive) reason
  have hsurvey : (u.blockPlan k.slot reason none).survey = u.survey := by
    rw [hrun.blockPlan (moved := none) (Or.inl hactive) rfl, Net.restage_survey]
    rfl
  have hrestaged : u.valvesRestaged q ent.valve { y with passing := ps } = u.valves.modify ent.valve (fun y => y.stagedAgain q f) := by
    rw [List.modify_eq_set_of_getElem? _ hrun.valve]
    unfold Net.valvesRestaged
    rw [show ({ y with passing := ps } : Valve).inFlight = some f from hf]
    rfl
  exact h.modify hx rfl (fun _ => rfl) (hvalves.trans hrestaged) hsurvey (hplans.trans (by rw [h.plans]))

/-- R121: a valve read and its plan blocked with nothing in flight. -/
theorem Net.Reads.blockPlan_landed (h : n.Reads u ent.valve x y plans) (hrun : u.RunningAt k q i ent { y with passing := ps })
    (hactive : q.state = .active) (hf : y.inFlight = none) (hmoved : moved.getD ent.valve = ent.valve) (reason : BlockReason) :
    n.Reads (u.blockPlan k.slot reason moved) ent.valve x y (putRecord plans k.slot (q.blockedBy i reason ent.valve)) := by
  rw [hrun.blockPlan_landed (Or.inl hactive) hmoved hf]
  exact ⟨hrun.stand.valves_self.trans h.valves, h.survey, congrArg (putRecord · k.slot _) h.plans⟩

/-- R116: a valve whose dwell has begun. -/
def Valve.arrived (x : Valve) (now : Time) (dwell : Nat) : Valve := { x with inFlight := none, dwellEnd := some (now + 1000 * dwell) }

/-- R116: a valve read and arrived, its dwell begun. -/
theorem Net.Reads.arrive (h : n.Reads u ent.valve x y plans) (hx : n.valves[ent.valve]? = some x)
    (hdwell : ((q.stepAt f.entry f.step).map (·.dwell)).getD 0 ≠ 0) :
    n.Reads (u.arrive ent.valve q f) ent.valve x (y.arrived u.now (((q.stepAt f.entry f.step).map (·.dwell)).getD 0)) plans := by
  have landed :
      n.Reads (u.updateValveMarked ent.valve (fun x => { x with inFlight := none })) ent.valve x { y with inFlight := none } plans :=
    h.modify (g := fun x => { x with inFlight := none }) hx rfl (fun _ => rfl) rfl rfl h.plans
  unfold Net.arrive
  rw [Net.startDwell_begins hdwell]
  exact landed.modify
    (g := fun x => { x with dwellEnd := some (u.now + 1000 * ((q.stepAt f.entry f.step).map (·.dwell)).getD 0) }) hx rfl (fun _ => rfl) rfl
    rfl landed.plans

end

/-- R116, R124: a reading of a valve with an accepted step in flight. -/
theorem Net.RunningAt.takeReading_inFlight (h : n.RunningAt k q i ent x) (hactive : q.state = .active) (hrunning : ent.state = .running)
    (hr : readValvePart b = some r) (hf : x.inFlight = some f) (hverified : f.unverified = false) (haccepted : f.accepted ≠ none) :
    let dwell := ((q.stepAt f.entry f.step).map (·.dwell)).getD 0
    let m := n.takeReading ent.valve r
    (b.2.getLsbD 4 = false →
      n.Reads m ent.valve x ((x.settled n.now b).stagedAgain q f) (putRecord n.plans k.slot (q.blockedBy i .atSite ent.valve))) ∧
    (b.2.getLsbD 4 = true → x.Reached n.now b f.target → dwell ≠ 0 →
      n.Reads m ent.valve x ((x.settled n.now b).arrived n.now dwell) n.plans) ∧
    (b.2.getLsbD 4 = true → ¬ x.Reached n.now b f.target → n.Reads m ent.valve x (x.settled n.now b) n.plans) := by
  obtain ⟨u, ps, moved, reads, hnow, hrun, -, htake⟩ := h.takeReading hactive hr
  have hselector := selectorBlocks_reading (b := b) hrun x hrunning n.now ps
  have hflight : ({ x.afterReading n.now b with passing := ps } : Valve).inFlight = some f := hf
  have hjudged : n.takeReading ent.valve r =
      if (!b.2.getLsbD 4) = true then u.blockPlan k.slot .atSite none
      else if arrives f { x.afterReading n.now b with passing := ps } = true then u.arrive ent.valve q f
      else u := by
    rw [htake]
    unfold Net.judgeClaimed
    rw [hselector, hflight]
    dsimp only
    rw [hverified, if_neg Bool.false_ne_true, Option.isSome_iff_ne_none.2 haccepted, Bool.true_and]
  have harrives := arrives_reading_iff f x n.now b ps
  intro dwell m
  refine ⟨fun hlocal => ?_, fun hremote hreached hdwell => ?_, fun hremote hreached => ?_⟩
  · rw [show m = _ from hjudged, hlocal, Bool.not_false, if_pos rfl]
    exact reads.blockPlan_inFlight h.valve hrun hactive hf .atSite
  · rw [show m = _ from hjudged, hremote, Bool.not_true, if_neg Bool.false_ne_true, if_pos (harrives.2 hreached)]
    have harrived := reads.arrive h.valve hdwell
    rwa [hnow] at harrived
  · rw [show m = _ from hjudged, hremote, Bool.not_true, if_neg Bool.false_ne_true, if_neg (mt harrives.1 hreached)]
    exact reads

/-- R116, R124: a reading of a valve with no step in flight. -/
theorem Net.RunningAt.takeReading_landed (h : n.RunningAt k q i ent x) (hactive : q.state = .active) (hrunning : ent.state = .running)
    (hr : readValvePart b = some r) (hf : x.inFlight = none) :
    let m := n.takeReading ent.valve r
    let blocked (reason : BlockReason) := putRecord n.plans k.slot (q.blockedBy i reason ent.valve)
    (b.2.getLsbD 4 = false → n.Reads m ent.valve x (x.settled n.now b) (blocked .atSite)) ∧
    (b.2.getLsbD 4 = true → x.Moved b → n.Reads m ent.valve x (x.settled n.now b) (blocked .unplannedMove)) ∧
    (b.2.getLsbD 4 = true → ¬ x.Moved b → n.Reads m ent.valve x (x.settled n.now b) n.plans) := by
  obtain ⟨u, ps, moved, reads, -, hrun, hmoved, htake⟩ := h.takeReading hactive hr
  have hselector := selectorBlocks_reading (b := b) hrun x hrunning n.now ps
  have hflight : ({ x.afterReading n.now b with passing := ps } : Valve).inFlight = none := hf
  have hjudged : n.takeReading ent.valve r =
      if (!b.2.getLsbD 4) = true then u.blockPlan k.slot .atSite none
      else if moved = true then u.blockPlan k.slot .unplannedMove (some ent.valve)
      else u := by
    rw [htake]
    unfold Net.judgeClaimed
    rw [hselector, hflight]
  intro m blocked
  refine ⟨fun hlocal => ?_, fun hremote hmove => ?_, fun hremote hmove => ?_⟩
  · rw [show m = _ from hjudged, hlocal, Bool.not_false, if_pos rfl]
    exact reads.blockPlan_landed hrun hactive hf rfl .atSite
  · rw [show m = _ from hjudged, hremote, Bool.not_true, if_neg Bool.false_ne_true, if_pos (hmoved.2 hmove)]
    exact reads.blockPlan_landed hrun hactive hf rfl .unplannedMove
  · rw [show m = _ from hjudged, hremote, Bool.not_true, if_neg Bool.false_ne_true, if_neg (mt hmoved.1 hmove)]
    exact reads

end

/-! ## The reply that carries the reading (R25, R43, R49, R53) -/

section
variable {n : Net} {l : Fin 4} {e : LineExchange} {z : Station} {p : Payload} {v : Nat} {b : Byte × Byte} {r : ValveReading}

/-- R43, R49: a DATA reply starts its station's reply age anew, whatever it was. -/
theorem Net.endExchange_data (hx : (n.line l).exchange = some e) (hz : n.stations[e.station]? = some z) (hlimit : 0 < n.replyAgeLimit z)
    (p : Payload) : n.endExchange l (endingOf (some (.data p))) = n.endedExchange l e (endingOf (some (.data p))) := by
  have settled := n.outcomeSide_settleCommand l e (endingOf (some (.data p)))
  have side := (n.settleCommand l e (endingOf (some (.data p)))).outcomeSide_stationOutcome e (some (.data p))
  have hended : n.endedExchange l e (endingOf (some (.data p))) = _ := Net.updateLine_eq _ _ _
  have hnow : (n.endedExchange l e (endingOf (some (.data p)))).now = n.now := by
    rw [hended]
    exact side.now.trans settled.now
  have hsettings : (n.endedExchange l e (endingOf (some (.data p)))).points.map Point.settings = n.points.map Point.settings := by
    rw [hended]
    exact side.settings.trans settled.settings
  have hstation : (n.endedExchange l e (endingOf (some (.data p)))).stations[e.station]? =
      some (z.afterEnding n.now e.function (some (.data p))) := by
    rw [hended]
    dsimp only
    rw [side.stations, Net.setStation_stations, settled.stations, settled.now, List.getElem?_modify, hz]
    simp
  rw [Net.endExchange_eq hx]
  refine Net.takeReplyAge_young hstation ?_
  rw [hnow, Net.replyAgeLimit_congr (y := z.afterEnding n.now e.function (some (.data p))) rfl hsettings]
  exact Nat.lt_add_of_pos_right (Nat.mul_pos (by decide) hlimit)

/-- R26, R43, R53: what a READ's DATA reply without point readings does to valves, plans and survey is what its valve part does. -/
theorem Net.endExchange_valvePart (hx : (n.line l).exchange = some e) (hread : e.function = .read) (hz : n.stations[e.station]? = some z)
    (hlimit : 0 < n.replyAgeLimit z) (hk : z.kind ≠ .pressure) (hv : z.valve = some v) (hp : p.readings = []) (hb : p.valve = some b)
    (hr : readValvePart b = some r) :
    ∃ a : Net, (a.valves = n.valves ∧ a.plans = n.plans ∧ a.survey = n.survey ∧ a.now = n.now) ∧
      let m := n.endExchange l (endingOf (some (.data p)))
      m.valves = (a.takeReading v r).valves ∧ m.survey = (a.takeReading v r).survey ∧ m.plans = (a.takeReading v r).plans := by
  have hnone : endingOutcome e (endingOf (some (.data p))) = none := by
    unfold endingOutcome
    rw [hread]
  have hsettled := Net.settleCommand_of_none (n := n) (l := l) hnone
  generalize settledContinuation e (endingOf (some (.data p))) (n.line l).continuation = owed at hsettled
  have quiet := (n.withContinuation l owed).quiet_updateStation e.station (fun z => z.afterEnding n.now e.function (some (.data p)))
    (fun _ _ => Or.inl rfl)
  have hended : n.endedExchange l e (endingOf (some (.data p))) =
      (((n.withContinuation l owed).updateStation e.station
        (fun z => z.afterEnding n.now e.function (some (.data p)))).applyPayload e.station p).updateLine l (Line.endExchange n.now) := by
    unfold Net.endedExchange
    rw [Net.stationOutcome_ending, hsettled]
    rfl
  rw [Net.endExchange_data hx hz hlimit, hended, Net.updateLine_eq]
  generalize (n.withContinuation l owed).updateStation e.station (fun z => z.afterEnding n.now e.function (some (.data p))) = u at *
  have unit := u.applyReadings_pointUnit e.station p
  have hstation : (u.applyReadings e.station p).stations[e.station]? = some (z.afterEnding n.now e.function (some (.data p))) := by
    rw [unit.stations, quiet.stations, Net.setStation_stations, List.getElem?_modify]
    change Option.map _ (n.stations[e.station]?) = _
    rw [hz]
    simp
  have hpart : u.applyPayload e.station p = (u.applyReadings e.station p).takeReading v r := by
    rw [Net.applyPayload_eq, Net.deliverValvePart_eq hstation hk hv hb, hr]
    rfl
  rw [hpart]
  exact ⟨u.applyReadings e.station p, ⟨unit.valves.trans quiet.valves, unit.plans.trans quiet.plans,
    (Net.applyReadings_survey hp).trans quiet.survey, unit.now.trans quiet.now⟩, rfl, rfl, rfl⟩

end

section
variable {s : State} {k : Ref} {q : Plan} {i : Nat} {ent : PlanEntry} {x : Valve} {l : Fin 4} {e : LineExchange} {z : Station}
  {b : Byte × Byte} {p : Payload}

/-- R25, R53: a READ's reply with a valve part is a reading of the valve over a net that has its plan and valves as they were. -/
theorem State.replyFrame_reads (h : s.net.RunningAt k q i ent x) (hrole : (s.net.line l).role = .master)
    (hstate : (s.net.line l).state = .await)
    (hx : (s.net.line l).exchange = some e) (hwindow : (s.net.line l).windowSince ≠ none) (hread : e.function = .read)
    (hz : s.net.stations[e.station]? = some z) (hkind : z.kind ≠ .pressure) (hvalve : z.valve = some ent.valve)
    (hlimit : 0 < s.net.replyAgeLimit z) (hreadings : p.readings = []) (hb : p.valve = some b) (hposition : b.1.toNat ≤ 100)
    (hmotion : b.2.toNat % 4 ≠ 3) :
    ∃ (a : Net) (r : ValveReading), readValvePart b = some r ∧ a.RunningAt k q i ent x ∧ a.now = s.net.now ∧ a.plans = s.net.plans ∧
      ∀ y plans, a.Reads (a.takeReading ent.valve r) ent.valve x y plans →
        ∃ (t : State) (n : Net), exec (.replyFrame l (ReplyFrame.bytes { address := z.address, kind := .data p })) s = .next t ∧
          s.OnlyNet t n.arbitrateAll ∧ n.valves = (s.net.afterPosition ent.valve x y).valves ∧
          n.survey = (s.net.afterPosition ent.valve x y).survey ∧ n.plans = plans := by
  obtain ⟨r, hr⟩ : ∃ r, readValvePart b = some r := by
    refine Option.ne_none_iff_exists'.1 fun hnone => ?_
    exact ((readValvePart_eq_none_iff b).1 hnone).elim (Nat.not_lt.2 hposition) hmotion
  have hawaits : (s.net.line l).awaitsReply = true :=
    (Line.awaitsReply_iff _).2 ⟨⟨hrole, Or.inl hstate, by rw [hx]; exact nofun⟩, hwindow⟩
  have hok : (ReplyKind.data p).ok = true := by
    change p.ok = true
    unfold Payload.ok
    rw [hreadings]
    rfl
  obtain ⟨a, ⟨hvalves, hplans, hsurvey, hnow⟩, hvalves', hsurvey', hplans'⟩ :=
    Net.endExchange_valvePart hx hread hz hlimit hkind hvalve hreadings hb hr
  have hrun : a.RunningAt k q i ent x := ⟨hplans ▸ h.plan, h.running, h.entry, hvalves ▸ h.valve, h.claim⟩
  refine ⟨a, r, hr, hrun, hnow, hplans, fun y plans reads => ?_⟩
  obtain ⟨t, ht, only⟩ := s.onlyNet_replyFrame l (ReplyFrame.bytes { address := z.address, kind := .data p })
  rw [Net.takeFrame_ends hx hawaits, Net.frameEnding_reply hz hok] at only
  have reads' := reads.congr hvalves hsurvey
  exact ⟨t, _, ht, only, hvalves'.trans reads'.valves, hsurvey'.trans reads'.survey, hplans'.trans reads'.plans⟩

end

/-- Settles O29: the travel limit taken or not; a reading by what the judgement of R116 and R124 finds. -/
theorem travelLimitBlocksAndStops : Obligations.TravelLimitBlocksAndStops := by
  unfold Obligations.TravelLimitBlocksAndStops
  refine ⟨fun s r q e ent x f a l st h hactive hs hf ha hl hm hlost hout => ?_, ?_⟩
  · obtain ⟨t, ht, only⟩ := s.travelLimit_event ent.valve
    refine ⟨t, ht, fun hlt => ?_, fun hmode hdue => ?_⟩
    · rwa [Net.takeTravelLimit_undue h.valve hf ha hlt] at only
    · rwa [h.takeTravelLimit hactive hs hf ha (s.net.mode.timersRun_iff.2 hmode) hdue hl hm hlost hout] at only
  · intro s k q i ent x l e z b p h hactive hrunning hrole hstate hx hwindow hread hz hline hkind hvalve hlimit hreadings hb hposition
      hmotion
      read w blocked
    obtain ⟨a, r, hr, hrun, hnow, hplans, hevent⟩ := State.replyFrame_reads h hrole hstate hx hwindow hread hz hkind hvalve hlimit
      hreadings hb hposition hmotion
    refine ⟨fun f hf hverified haccepted => ?_, fun hf => ?_⟩
    · intro dwell reached
      have judged := hrun.takeReading_inFlight hactive hrunning hr hf hverified haccepted
      rw [hnow, hplans] at judged
      obtain ⟨hlocal, harrives, hmoves⟩ := judged
      exact ⟨fun hsel => hevent _ _ (hlocal hsel), fun hsel hreached hdwell => hevent _ _ (harrives hsel hreached hdwell),
        fun hsel hreached => hevent _ _ (hmoves hsel hreached)⟩
    · have judged := hrun.takeReading_landed hactive hrunning hr hf
      rw [hnow, hplans] at judged
      obtain ⟨hlocal, hmoved, hstill⟩ := judged
      exact ⟨fun hsel => hevent _ _ (hlocal hsel), fun hsel hm => hevent _ _ (hmoved hsel hm), fun hsel hm => hevent _ _ (hstill hsel hm)⟩

end Sys2Proof.Machine
end

section
/-! RESTORE orders (R141): the zones an order makes REPRESSURISED, the record it makes RESTORING, and the counts of its answer. -/

namespace Sys2Proof.Machine

/-! ## Zones made REPRESSURISED (R139 to R141) -/

/-- A zone made REPRESSURISED, one with customers to relight. -/
def Zone.repressurised (x : Zone) : Zone := { x with supply := .repressurised }

/-- Every listed zone written, the first on its own: a second writing changes nothing. -/
theorem List.mapIdx_modify_of_idem {α : Type} {f : α → α} (hf : ∀ x, f (f x) = f x) (xs : List α) (z : Nat) (zs : List Nat) :
    (xs.modify z f).mapIdx (fun i x => if i ∈ zs then f x else x) = xs.mapIdx (fun i x => if i ∈ z :: zs then f x else x) := by
  apply List.ext_getElem?
  intro i
  rw [List.getElem?_mapIdx, List.getElem?_mapIdx, List.getElem?_modify]
  by_cases hi : z = i
  · subst hi
    cases xs[z]? with
    | none => rfl
    | some x => by_cases hz : z ∈ zs <;> simp [hz, hf]
  · cases xs[i]? with
    | none => rfl
    | some x => simp [hi, Ne.symm hi]

section
variable {n : Net} {z slot : Nat} {o : Outage} {zs : List Nat}

/-- R140 does not apply to a zone with customers. -/
theorem Net.repressurise_eq (h : ∀ x, n.zones[z]? = some x → x.customers ≠ 0) : n.repressurise z = n.setZone z Zone.repressurised := by
  unfold Net.repressurise
  refine if_neg fun hany => ?_
  obtain ⟨x, hx, hc⟩ := (Option.any_eq_true _ _).1 hany
  exact h x hx (of_decide_eq_true hc)

/-- R15, R141: zones with customers made REPRESSURISED and marked, in the order listed. -/
theorem overEach_repressurise (h : ∀ z ∈ zs, ∀ x, n.zones[z]? = some x → x.customers ≠ 0) :
    overEach (fun z n => (n.repressurise z).mark .ordinary (.zone z)) zs n =
      { n with
        zones := n.zones.mapIdx (fun z x => if z ∈ zs then x.repressurised else x)
        marks := zs.foldl (fun m z => m.add .ordinary (.zone z)) n.marks } := by
  induction zs generalizing n with
  | nil =>
    have hzones : n.zones.mapIdx (fun z x => if z ∈ [] then x.repressurised else x) = n.zones := by
      apply List.ext_getElem?
      simp
    rw [hzones]
    rfl
  | cons z zs ih =>
    have hfirst : (n.repressurise z).mark .ordinary (.zone z) = (n.setZone z Zone.repressurised).mark .ordinary (.zone z) :=
      congrArg _ (Net.repressurise_eq (h z List.mem_cons_self))
    have hrest : ∀ w ∈ zs, ∀ x, (n.zones.modify z Zone.repressurised)[w]? = some x → x.customers ≠ 0 := by
      intro w hw x hx
      rw [List.getElem?_modify] at hx
      obtain ⟨y, hy, rfl⟩ := Option.map_eq_some_iff.1 hx
      have hc := h w (List.mem_cons_of_mem z hw) y hy
      split <;> exact hc
    change overEach _ zs ((n.repressurise z).mark .ordinary (.zone z)) = _
    rw [hfirst, ih hrest, Net.mark_zones, Net.setZone_zones, List.mapIdx_modify_of_idem (f := Zone.repressurised) fun _ => rfl]
    rfl

/-! ## The net a RESTORE leaves -/

/-- R141: the zones of a record that a RESTORE makes REPRESSURISED. -/
def Net.refedZones (n : Net) (o : Outage) : List Nat :=
  (o.held.map (·.zone)).filter (fun z => (n.zones[z]?).any (fun x => x.supply = .refedUncontrolled))

/-- R141: the net with a record made RESTORING and its REFED-UNCONTROLLED zones REPRESSURISED. -/
def Net.restoringDeclared (n : Net) (slot : Nat) (o : Outage) : Net :=
  { n with
    outages := putRecord n.outages slot { o with state := .restoring }
    zones := n.zones.mapIdx (fun z x => if z ∈ n.refedZones o then x.repressurised else x)
    marks := (n.refedZones o).foldl (fun m z => m.add .ordinary (.zone z)) (n.marks.add .ordinary (.outage slot)) }

theorem Net.supply_of_refed (hz : z ∈ n.refedZones o) : ∃ x, n.zones[z]? = some x ∧ x.supply = .refedUncontrolled := by
  obtain ⟨x, hx, hs⟩ := (Option.any_eq_true _ _).1 (List.mem_filter.1 hz).2
  exact ⟨x, hx, of_decide_eq_true hs⟩

theorem Net.zone_of_refed (hz : z ∈ n.refedZones o) : ∃ h ∈ o.held, h.zone = z := List.mem_map.1 (List.mem_filter.1 hz).1

theorem Net.restoringDeclared_zone (n : Net) (slot : Nat) (o : Outage) (z : Nat) :
    (n.restoringDeclared slot o).zones[z]? = (n.zones[z]?).map (fun x => if z ∈ n.refedZones o then x.repressurised else x) :=
  List.getElem?_mapIdx

/-- R141: every REFED-UNCONTROLLED zone that a record holds has customers. -/
def Net.RefedCustomers (n : Net) (o : Outage) : Prop :=
  ∀ h ∈ o.held, ∀ x, n.zones[h.zone]? = some x → x.supply = .refedUncontrolled → x.customers ≠ 0

theorem Net.setOutage_eq (h : slotRecord n.outages slot = some o) (f : Outage → Outage) :
    n.setOutage slot f = { n with outages := putRecord n.outages slot (f o) } := by
  unfold Net.setOutage
  rw [modify_update_of_slotRecord h]

/-- R141: a record made RESTORING; no zone becomes SUPPLIED, and so no point is judged. -/
theorem Net.restoreOutage_eq (ho : slotRecord n.outages slot = some o) (hc : n.RefedCustomers o) :
    n.restoreOutage slot o = n.restoringDeclared slot o := by
  have hmade : overEach (fun z n => (n.repressurise z).mark .ordinary (.zone z)) (n.refedZones o)
      ((n.setOutage slot (fun o => { o with state := .restoring })).mark .ordinary (.outage slot)) = n.restoringDeclared slot o := by
    rw [overEach_repressurise]
    · rw [Net.setOutage_eq ho]
      rfl
    · intro z hz x hx
      obtain ⟨h, hh, rfl⟩ := Net.zone_of_refed hz
      obtain ⟨y, hy, hs⟩ := Net.supply_of_refed hz
      obtain rfl := Option.some.inj (hy.symm.trans hx)
      exact hc h hh y hy hs
  have hnone : (n.refedZones o).filter (fun z => ((n.restoringDeclared slot o).zones[z]?).any (fun x => x.supply = .supplied)) = [] := by
    refine List.filter_eq_nil_iff.2 fun z hz hany => ?_
    rw [Net.restoringDeclared_zone] at hany
    obtain ⟨x, hx, -⟩ := Net.supply_of_refed hz
    simp [hx, hz, Zone.repressurised] at hany
  unfold Net.restoreOutage
  dsimp only
  rw [← Net.refedZones, hmade, hnone]
  rfl

/-! ## The counts of the answer (log 25) -/

/-- Of the zones REFED-UNCONTROLLED before, those of the record stand REPRESSURISED, the others as they were. -/
theorem Net.countMade_eq {s : Supply} (hs : s ≠ .refedUncontrolled) (n : Net) (slot : Nat) (o : Outage) :
    Net.countMade n (n.restoringDeclared slot o) s =
      ((List.range n.zones.length).filter (fun z => z ∈ n.refedZones o ∧ s = .repressurised)).length := by
  have hlength : (n.restoringDeclared slot o).zones.length = n.zones.length := List.length_mapIdx
  unfold Net.countMade idsWhere
  rw [List.filter_filter, hlength]
  refine congrArg _ (List.filter_congr fun z _ => ?_)
  rw [Net.restoringDeclared_zone]
  by_cases hz : z ∈ n.refedZones o
  · obtain ⟨x, hx, hrefed⟩ := Net.supply_of_refed hz
    simp [hx, hrefed, hz, Zone.repressurised, eq_comm]
  · cases hx : n.zones[z]? with
    | none => simp [hz]
    | some x =>
      have hother : x.supply = .refedUncontrolled → x.supply ≠ s := fun e => e ▸ hs.symm
      simpa [hz] using hother

theorem Net.countMade_repressurised (n : Net) (slot : Nat) (o : Outage) :
    Net.countMade n (n.restoringDeclared slot o) .repressurised =
      ((List.range n.zones.length).filter (fun z => z ∈ n.refedZones o)).length := by
  rw [Net.countMade_eq (s := .repressurised) nofun]
  simp

theorem Net.countMade_supplied (n : Net) (slot : Nat) (o : Outage) : Net.countMade n (n.restoringDeclared slot o) .supplied = 0 := by
  rw [Net.countMade_eq (s := .supplied) nofun]
  simp

end

/-! ## The order taken by the outage unit (R141) -/

section
variable {n : Net} {r : Ref} {o : Outage}

theorem Net.takeRestore_unknown (h : findRecord n.outages r = none) : n.takeRestore r = (n, .plain .noSuch) := by
  unfold Net.takeRestore
  rw [h]

theorem Net.takeRestore_badState (h : findRecord n.outages r = some o) (hs : o.state ≠ .isolated) :
    n.takeRestore r = (n, .plain .badState) := by
  unfold Net.takeRestore
  rw [h]
  exact if_neg hs

theorem Net.takeRestore_isolated (h : findRecord n.outages r = some o) (hs : o.state = .isolated) (hc : n.RefedCustomers o) :
    n.takeRestore r =
      (n.restoringDeclared r.slot o,
        .withBody .done
          (restoreBody { o with state := .restoring } ((List.range n.zones.length).filter (fun z => z ∈ n.refedZones o)).length 0)) := by
  have ho := slotRecord_eq_of_findRecord h
  have hafter : slotRecord (n.restoringDeclared r.slot o).outages r.slot = some { o with state := .restoring } := slotRecord_putRecord ho _
  unfold Net.takeRestore
  rw [h]
  dsimp only
  rw [if_pos hs, Net.restoreOutage_eq ho hc, hafter, Option.getD_some, Net.countMade_repressurised, Net.countMade_supplied]

end

/-! ## The order's event -/

theorem restoreBody_length (o : Outage) (repressurised supplied : Nat) : (restoreBody o repressurised supplied).length = 6 := rfl

/-- R158: a ready RESTORE is answered by the outage unit. -/
theorem State.serves_restore {s : State} {i : Nat} {p : Post} {b : RefBody} {n : Net} {a : Answer} (h : s.ready i p (.restore b) = true)
    (htake : s.net.takeRestore (bodyRef b) = (n, a)) (hlen : a.body.length ≤ 240) :
    ∃ t, exec (.restore p b) s = .next t ∧ s.Serves t i p (.restore b) a n :=
  State.serves_answered h nofun (onNetAnswer_begun htake) hlen

/-- Settles O31: by whether the outage is found, and by its state. -/
theorem restoreDeclaresRestoration : Obligations.RestoreDeclaresRestoration := by
  unfold Obligations.RestoreDeclaresRestoration
  intro s i p b hready
  refine ⟨fun hnone => ?_, fun o ho => ⟨fun hs => ?_, fun hs hcustomers => ?_⟩⟩
  · exact State.serves_restore hready (Net.takeRestore_unknown hnone) (Nat.zero_le _)
  · exact State.serves_restore hready (Net.takeRestore_badState ho hs) (Nat.zero_le _)
  · exact State.serves_restore hready (Net.takeRestore_isolated ho hs hcustomers) (by rw [Answer.withBody, restoreBody_length]; decide)

end Sys2Proof.Machine
end

section
/-! RELIGHT orders (R142, R143): the checks in their order, what each refusal shows, and the customers counted back. -/

namespace Sys2Proof.Machine

/-! ## The record that holds a zone (R133), and a zone that leaves it (R140, R143) -/

/-- A zone made SUPPLIED: no record holds it. -/
def Zone.resupplied (x : Zone) : Zone := { x with supply := .supplied, outage := none }

section
variable {n : Net} {z slot : Nat} {o : Outage}

theorem Net.zoneOutage_slotRecord (h : n.zoneOutage z = some (slot, o)) : slotRecord n.outages slot = some o := by
  obtain ⟨r, -, hr⟩ := Option.bind_eq_some_iff.1 h
  obtain ⟨o', ho, hpair⟩ := Option.map_eq_some_iff.1 hr
  cases hpair
  exact slotRecord_eq_of_findRecord ho

/-- A zone's record written in its slot is the zone's record still. -/
theorem Net.zoneOutage_putRecord (h : n.zoneOutage z = some (slot, o)) (o' : Outage) (ms : Marks) :
    { n with outages := putRecord n.outages slot o', marks := ms }.zoneOutage z = some (slot, o') := by
  obtain ⟨r, hlink, hr⟩ := Option.bind_eq_some_iff.1 h
  obtain ⟨_, ho, hpair⟩ := Option.map_eq_some_iff.1 hr
  cases hpair
  unfold Net.zoneOutage
  rw [hlink, Option.bind_some, findRecord_putRecord ho]
  rfl

theorem Net.relitOf_eq {h : HeldZone} (ho : n.zoneOutage z = some (slot, o)) (hh : o.entry z = some h) : n.relitOf z = h.relit := by
  unfold Net.relitOf
  rw [ho, Option.bind_some, hh]
  rfl

/-- R143: the net with a zone made SUPPLIED and gone from the record that held it. -/
def Net.resupplied (n : Net) (z : Nat) (x : Zone) (slot : Nat) (o : Outage) : Net :=
  { n with zones := n.zones.set z x.resupplied, outages := putRecord n.outages slot (o.leave n.now z) }

theorem Net.supplyZone_eq {x : Zone} (hx : n.zones[z]? = some x) (ho : n.zoneOutage z = some (slot, o)) :
    n.supplyZone z = n.resupplied z x slot o := by
  unfold Net.supplyZone
  rw [ho]
  dsimp only
  have hrecord := Net.zoneOutage_slotRecord ho
  rw [Net.setOutage_eq (n := n.setZone z _) hrecord, Net.setZone, List.modify_eq_set_of_getElem? _ hx]
  rfl

/-- R62: points that are NORMAL bring nothing when a zone becomes SUPPLIED. -/
theorem Net.judgePoints_normal {x : Zone} (hx : n.zones[z]? = some x) (hnormal : n.PointsNormal x) (take : Nat → Point → Net → Net) :
    n.judgePoints take z = n := by
  unfold Net.judgePoints
  rw [hx]
  refine overEach_invariant (P := fun m => m = n) (fun i hi m hm => ?_) rfl
  obtain ⟨q, hq, -, hband⟩ := hnormal i hi
  rw [hm, hq]
  exact if_neg fun e => by rw [hband] at e; exact nomatch e.2

/-- R62, R143: a zone with NORMAL points made SUPPLIED by an order. -/
theorem Net.judgeSupplied_supplyZone {x : Zone} (hx : n.zones[z]? = some x) (hnormal : n.PointsNormal x)
    (ho : n.zoneOutage z = some (slot, o)) : (n.supplyZone z).judgeSupplied z = n.resupplied z x slot o := by
  have hzone : (n.resupplied z x slot o).zones[z]? = some x.resupplied := List.getElem?_set_self (List.getElem?_eq_some_iff.1 hx).1
  rw [Net.supplyZone_eq hx ho]
  exact Net.judgePoints_normal hzone hnormal Net.excursion

end

/-! ## The record without the customers relit (R143) -/

/-- R143: a held zone's relit count raised. -/
theorem Outage.setRelit_eq (z relit : Nat) (o : Outage) :
    o.setRelit z relit = o.holding (o.held.map (fun y => if y.zone = z then { y with relit := relit } else y)) := rfl

/-- R143: a relit count is that of its own zone. -/
theorem Outage.setRelit_others (z relit : Nat) (o : Outage) :
    (o.setRelit z relit).held.filter (fun y => y.zone ≠ z) = o.held.filter (fun y => y.zone ≠ z) := by
  rw [Outage.setRelit_eq]
  unfold Outage.holding
  dsimp only
  induction o.held with
  | nil => rfl
  | cons y ys ih => by_cases hy : y.zone = z <;> simpa [hy] using ih

/-- R143: the record a fully relit zone has left; its relit count goes with it. -/
theorem Outage.leave_setRelit (now : Time) (z relit : Nat) (o : Outage) :
    (o.setRelit z relit).leave now z =
      if (o.holding (o.held.filter (fun y => y.zone ≠ z))).held = [] ∧ o.state = .restoring then
        { o.holding (o.held.filter (fun y => y.zone ≠ z)) with state := .restored, restored := some now }
      else o.holding (o.held.filter (fun y => y.zone ≠ z)) := by
  unfold Outage.leave
  rw [Outage.setRelit_others]
  rfl

/-! ## The checks of an order (R142) -/

section
variable {n m : Net} {b : RelightBody} {x : Zone} {c : AnswerCode}

theorem Net.pressureNormal_iff (n : Net) (x : Zone) : n.pressureNormal x = true ↔ n.PointsNormal x := by
  unfold Net.pressureNormal Net.PointsNormal
  simp only [List.all_eq_true, Option.any_eq_true, decide_eq_true_eq]

/-- The answer that shows a present zone and its outage as they stand. -/
def Net.relightShown (n : Net) (z : Nat) (x : Zone) (c : AnswerCode) : Answer :=
  .withBody c (relightBody x.supply (n.relitOf z) x.customers ((n.zoneOutage z).map (·.2)))

theorem Net.relightAnswer_refused {z : Nat} (hx : n.zones[z]? = some x) (c : AnswerCode) :
    relightAnswer n n c z (n.relitOf z) x = n.relightShown z x c := by
  unfold relightAnswer Net.relightShown
  rw [hx]
  cases ho : n.zoneOutage z with
  | none => rfl
  | some q =>
    obtain ⟨slot, o⟩ := q
    rw [Option.bind_some, Net.zoneOutage_slotRecord ho]
    rfl

theorem relightCount_eq_zero_iff (b : RelightBody) : b.count = 0 ↔ b.count.toNat = 0 := BitVec.toNat_inj.symm

/-- R142 checks 1 and 2: a zone that is absent. -/
theorem Net.takeRelight_absent (hz : n.zones.length ≤ b.zone.toNat) :
    n.takeRelight b = (n, .plain (if b.count.toNat = 0 then .badForm else .noSuch)) := by
  unfold Net.takeRelight
  simp only [List.getElem?_eq_none hz, relightCount_eq_zero_iff b]

/-- R142 check 1, of a zone that is present. -/
theorem Net.takeRelight_zero (hx : n.zones[b.zone.toNat]? = some x) (hb : b.count.toNat = 0) :
    n.takeRelight b = (n, n.relightShown b.zone.toNat x .badForm) := by
  unfold Net.takeRelight
  dsimp only
  rw [hx]
  dsimp only
  rw [if_pos ((relightCount_eq_zero_iff b).2 hb), Net.relightAnswer_refused hx]

/-- R142: a check that fails, from check 3 on. -/
theorem Net.takeRelight_fault (hx : n.zones[b.zone.toNat]? = some x) (hb : b.count.toNat ≠ 0)
    (hfault : n.relightFault b.zone.toNat x b.count.toNat = some c) : n.takeRelight b = (n, n.relightShown b.zone.toNat x c) := by
  unfold Net.takeRelight
  dsimp only
  rw [hx]
  dsimp only
  rw [if_neg (mt (relightCount_eq_zero_iff b).1 hb), hfault]
  dsimp only
  rw [Net.relightAnswer_refused hx]

/-- R142, R143: an order that passes every check; its answer shows the zone after it, and the record that held the zone. -/
theorem Net.takeRelight_passing {slot : Nat} {o o' : Outage} {y : Zone} (hx : n.zones[b.zone.toNat]? = some x) (hb : b.count.toNat ≠ 0)
    (hfault : n.relightFault b.zone.toNat x b.count.toNat = none) (ho : n.zoneOutage b.zone.toNat = some (slot, o))
    (hrelight : n.relight b.zone.toNat b.count.toNat x = m) (hy : m.zones[b.zone.toNat]? = some y) (hm : slotRecord m.outages slot = some o') :
    n.takeRelight b =
      (m, .withBody .done (relightBody y.supply (n.relitOf b.zone.toNat + b.count.toNat) x.customers (some o'))) := by
  unfold Net.takeRelight
  dsimp only
  rw [hx]
  dsimp only
  rw [if_neg (mt (relightCount_eq_zero_iff b).1 hb), hfault, hrelight]
  dsimp only
  unfold relightAnswer
  rw [ho, hy, Option.bind_some, hm]
  rfl

end

section
variable {n : Net} {z count : Nat} {x : Zone}

/-- R142 check 3. -/
theorem Net.relightFault_badState (hs : x.supply ≠ .repressurised) : n.relightFault z x count = some .badState := if_pos hs

/-- R142 checks 4 and 5. -/
theorem Net.relightFault_repressurised (hs : x.supply = .repressurised) :
    n.relightFault z x count =
      if n.pressureNormal x = false then some .pressureNotNormal
      else if x.customers < n.relitOf z + count then some .overCount
      else none := if_neg (not_not.2 hs)

/-- R142 check 4. -/
theorem Net.relightFault_pressure (hs : x.supply = .repressurised) (hp : ¬ n.PointsNormal x) :
    n.relightFault z x count = some .pressureNotNormal := by
  rw [Net.relightFault_repressurised hs, if_pos (Bool.eq_false_iff.2 (mt (n.pressureNormal_iff x).1 hp))]

/-- R142 check 5. -/
theorem Net.relightFault_count (hs : x.supply = .repressurised) (hp : n.PointsNormal x) :
    n.relightFault z x count = if x.customers < n.relitOf z + count then some .overCount else none := by
  rw [Net.relightFault_repressurised hs, if_neg (by rw [(n.pressureNormal_iff x).2 hp]; exact nofun)]

end

/-! ## The customers counted back (R143) -/

section
variable {n : Net} {z slot count : Nat} {x : Zone} {o : Outage}

/-- R143: the net with a zone's record written, the record and the zone marked. -/
def Net.relitMarked (n : Net) (z slot : Nat) (o : Outage) : Net :=
  { n with outages := putRecord n.outages slot o, marks := (n.marks.add .ordinary (.outage slot)).add .ordinary (.zone z) }

/-- R143: customers are left to relight. -/
theorem Net.relight_counted (ho : n.zoneOutage z = some (slot, o)) (hmore : n.relitOf z + count ≠ x.customers) :
    n.relight z count x = n.relitMarked z slot (o.setRelit z (n.relitOf z + count)) := by
  unfold Net.relight
  rw [ho]
  dsimp only
  rw [if_neg hmore, Net.setOutage_eq (Net.zoneOutage_slotRecord ho)]
  rfl

/-- R143: the last customer of a zone is relit. -/
theorem Net.relight_last (hx : n.zones[z]? = some x) (hp : n.PointsNormal x) (ho : n.zoneOutage z = some (slot, o))
    (hlast : n.relitOf z + count = x.customers) :
    n.relight z count x =
      { n.relitMarked z slot ((o.setRelit z (n.relitOf z + count)).leave n.now z) with zones := n.zones.set z x.resupplied } := by
  have hsupplied := Net.judgeSupplied_supplyZone (n := n.relitMarked z slot (o.setRelit z (n.relitOf z + count))) hx hp
    (Net.zoneOutage_putRecord ho _ _)
  unfold Net.relight
  rw [ho]
  dsimp only
  rw [if_pos hlast, Net.setOutage_eq (Net.zoneOutage_slotRecord ho)]
  refine hsupplied.trans ?_
  unfold Net.resupplied Net.relitMarked
  dsimp only
  rw [putRecord_putRecord]

end

/-! ## The order's event -/

theorem relightBody_length (supply : Supply) (relit customers : Nat) (o : Option Outage) :
    (relightBody supply relit customers o).length = 9 := by
  cases o <;> rfl

section
variable {s : State} {i : Nat} {p : Post} {b : RelightBody} {n : Net} {c : AnswerCode}

/-- R158: a ready RELIGHT is answered by the outage unit. -/
theorem State.serves_relight {a : Answer} (h : s.ready i p (.relight b) = true) (htake : s.net.takeRelight b = (n, a))
    (hlen : a.body.length ≤ 240) : ∃ t, exec (.relight p b) s = .next t ∧ s.Serves t i p (.relight b) a n :=
  State.serves_answered h nofun (onNetAnswer_begun htake) hlen

/-- R158: a RELIGHT answered with a zone and its outage. -/
theorem State.serves_relightBody (h : s.ready i p (.relight b) = true) {supply : Supply} {relit customers : Nat} {o : Option Outage}
    (htake : s.net.takeRelight b = (n, .withBody c (relightBody supply relit customers o))) :
    ∃ t, exec (.relight p b) s = .next t ∧ s.Serves t i p (.relight b) (.withBody c (relightBody supply relit customers o)) n :=
  State.serves_relight h htake (by rw [Answer.withBody, relightBody_length]; decide)

end

/-- Settles O32: the checks of R142 one by one; then the order that passes them, by whether customers are left to relight. -/
theorem relightChecksAndCounts : Obligations.RelightChecksAndCounts := by
  unfold Obligations.RelightChecksAndCounts
  refine ⟨fun s i p b hready => ?_, fun s i p b x slot o h hready hx hs hp ho hh hb => ?_⟩
  · refine ⟨fun hz hb => ?_, fun hz hb => ?_, fun x hx => ⟨fun hb => ?_, fun hb hs => ?_, fun hb hs hp => ?_, fun hb hs hp hover => ?_⟩⟩
    · exact State.serves_relight hready ((Net.takeRelight_absent hz).trans (by rw [if_pos hb])) (Nat.zero_le _)
    · exact State.serves_relight hready ((Net.takeRelight_absent hz).trans (by rw [if_neg hb])) (Nat.zero_le _)
    · exact State.serves_relightBody hready (Net.takeRelight_zero hx hb)
    · exact State.serves_relightBody hready (Net.takeRelight_fault hx hb (Net.relightFault_badState hs))
    · exact State.serves_relightBody hready (Net.takeRelight_fault hx hb (Net.relightFault_pressure hs hp))
    · exact State.serves_relightBody hready (Net.takeRelight_fault hx hb ((Net.relightFault_count hs hp).trans (if_pos hover)))
  · have hrelit := Net.relitOf_eq ho hh
    have hput (o' : Outage) := slotRecord_putRecord (Net.zoneOutage_slotRecord ho) o'
    have passing (hle : s.net.relitOf b.zone.toNat + b.count.toNat ≤ x.customers) :
        s.net.relightFault b.zone.toNat x b.count.toNat = none :=
      (Net.relightFault_count hs hp).trans (if_neg (Nat.not_lt.2 hle))
    rw [← hrelit]
    refine ⟨fun hmore => ?_, fun hlast => ?_⟩
    · have taken := Net.takeRelight_passing hx hb (passing hmore.le) ho (Net.relight_counted ho hmore.ne) hx (hput _)
      rw [hs] at taken
      exact State.serves_relightBody hready taken
    · have taken := Net.takeRelight_passing hx hb (passing hlast.le) ho (Net.relight_last hx hp ho hlast)
        (List.getElem?_set_self (List.getElem?_eq_some_iff.1 hx).1) (hput _)
      rw [Outage.leave_setRelit] at taken
      exact State.serves_relightBody hready taken

end Sys2Proof.Machine
end
